-- ==== Sys2Proof/Word.lean ====
section
/-! DEFINITION. The words and numbers of the CZ-4160: bus words, frame numbers, and the bounded names
(ports, sectors, cells, streams, zones, gates, link levels) that the spec's tables are keyed by. -/

namespace Sys2Proof

/-- A bus word of 32 bits: one transfer moves one of these (R152, R167). -/
abbrev Word := BitVec 32

/-- The 32-bit tag a master gives a command (R157). -/
abbrev Tag := BitVec 32

/-- A value of the 32-bit frame counter; sums wrap modulo 2^32 (R11). -/
abbrev FrameNo := BitVec 32

/-- A port, 0–3. -/
abbrev PortId := Fin 4

/-- A sector, 0–31. -/
abbrev SectorId := Fin 32

/-- A cell, 0–1,023; its number is sector × 32 + index (00_scope.md 0.5). -/
abbrev CellId := Fin 1024

/-- A replay stream, 0–15. -/
abbrev StreamId := Fin 16

/-- A gate zone, 0–15. -/
abbrev ZoneId := Fin 16

/-- A gate, 0–255. -/
abbrev GateId := Fin 256

/-- A link level, 0–7. -/
abbrev Level := Fin 8

/-- A station handle: the key of a station record, 0–65,535 (R15). -/
abbrev Handle := Nat

/-- A ticket handle: the key of a ticket record, 0–98,303 (R54). -/
abbrev TicketHandle := Nat

/-- An instant, in nanoseconds from an arbitrary origin (DESIGN CHOICE, log 4). -/
abbrev Instant := Nat

/-- A word number of the bus address space: the byte address divided by 4 (DEDUCED, log 23). -/
abbrev WordAddr := BitVec 22

/-- A table of records by number: pairs with strictly rising keys. -/
abbrev Table (α : Type) := List (Nat × α)

end Sys2Proof
end

