-- ==== Sys2Proof/Syntax.lean ====
section
/-! DEFINITION. The commands and events of the CZ-4160: one constructor for each row of
spec/opcode_table.json. -/

namespace Sys2Proof

/-- The acts that the owners of frame-timed state take at a frame boundary, apart from the Plan Engine's
(R11): one act is all that is due of its owner (log 5). -/
inductive BoundaryAct where
  /-- CLAIM_DEADLINE (R46). -/
  | claimDeadline
  /-- LINGER_EXPIRY (R30). -/
  | lingerExpiry
  /-- DRAIN_COMPLETION (R83). -/
  | drainCompletion
  /-- SURGE_END (R14). -/
  | surgeEnd
  deriving DecidableEq, Repr

/-- A command or event of the part. A constructor with only a port `p` is the event "the Port Unit of `p`
takes this command": its operands stand in the ring element at the port's consumer index (R155, R167; log 1). -/
inductive Instr where
  /-- RESET: the RESET input (R1). -/
  | reset
  /-- DECLARE_PORT (R2). -/
  | declarePort (p : PortId)
  /-- SET_VENUE (R3). -/
  | setVenue (p : PortId)
  /-- OPEN_MATCH (R5), taken at the instant `now`, from which the clock runs. -/
  | openMatch (p : PortId) (now : Instant)
  /-- CLOSE_MATCH (R6). -/
  | closeMatch (p : PortId)
  /-- READ_STATION (R34). -/
  | readStation (p : PortId)
  /-- READ_TICKET (R72). -/
  | readTicket (p : PortId)
  /-- READ_STREAM (R91). -/
  | readStream (p : PortId)
  /-- READ_CARRIAGE (R122). -/
  | readCarriage (p : PortId)
  /-- READ_ZONE (R73). -/
  | readZone (p : PortId)
  /-- READ_CELL (R35). -/
  | readCell (p : PortId)
  /-- ASSOCIATE (R23). -/
  | associate (p : PortId)
  /-- DETACH (R27). -/
  | detach (p : PortId)
  /-- REPORT_LEVEL (R32). -/
  | reportLevel (p : PortId)
  /-- CLAIM (R38). -/
  | claim (p : PortId)
  /-- RELEASE (R44). -/
  | release (p : PortId)
  /-- WITHDRAW (R45). -/
  | withdraw (p : PortId)
  /-- SET_SECTOR_POLICY (R139). -/
  | setSectorPolicy (p : PortId)
  /-- LOAD_TICKETS (R58). -/
  | loadTickets (p : PortId)
  /-- ADMIT (R64). -/
  | admitTicket (p : PortId)
  /-- EXIT (R68). -/
  | exitTicket (p : PortId)
  /-- VOID (R70). -/
  | voidTicket (p : PortId)
  /-- SET_ZONE (R62). -/
  | setZone (p : PortId)
  /-- BIND (R93). -/
  | bindTicket (p : PortId)
  /-- UNBIND (R96). -/
  | unbindTicket (p : PortId)
  /-- OPEN_STREAM (R78). -/
  | openStream (p : PortId)
  /-- SET_STREAM_RATE (R79). -/
  | setStreamRate (p : PortId)
  /-- CLOSE_STREAM (R81). -/
  | closeStream (p : PortId)
  /-- SUBSCRIBE (R87). -/
  | subscribe (p : PortId)
  /-- UNSUBSCRIBE (R89). -/
  | unsubscribe (p : PortId)
  /-- ARM_MOMENT (R12). -/
  | armMoment (p : PortId)
  /-- FRAME_STROBE (R8), arriving at the instant `now`; `early` are the acts of other owners taken at the
  boundary it makes before the Plan Engine's (log 5). -/
  | frameStrobe (now : Instant) (early : List BoundaryAct)
  /-- STROBE_LOSS_EXPIRY (R9). -/
  | strobeLossExpiry (early : List BoundaryAct)
  /-- DIVIDER_EXPIRY (R10). -/
  | dividerExpiry (early : List BoundaryAct)
  /-- MOMENT_PULSE (R13), arriving at the instant `now`. -/
  | momentPulse (now : Instant)
  /-- SURGE_END (R14). -/
  | surgeEnd
  /-- CLAIM_DEADLINE (R46): every station whose claim deadline is reached. -/
  | claimDeadline
  /-- LINGER_EXPIRY (R30): every record whose linger deadline is reached. -/
  | lingerExpiry
  /-- DRAIN_COMPLETION (R83): every stream whose drain is due. -/
  | drainCompletion
  /-- SECTOR_BUILD_COMPLETION (R142). -/
  | sectorBuildCompletion
  /-- BUS_GRANT (R150): the arbiter grants, the REQ lines standing as `lines` (bit p for port p). -/
  | busGrant (lines : BitVec 4)
  /-- ACKNOWLEDGE_RAISED (R151). -/
  | acknowledgeRaised (p : PortId)
  /-- GRANT_WITHDRAWN (R151): port `p` drops its request before acknowledging. -/
  | grantWithdrawn (p : PortId)
  /-- ACKNOWLEDGE_DROPPED (R151). -/
  | acknowledgeDropped (p : PortId)
  /-- PLAN_WINDOW_READ (R141): a read by `p` of word `w` of the Plan Window. -/
  | planWindowRead (p : PortId) (w : BitVec 15)
  /-- PRODUCER_INDEX_WRITE (R154). -/
  | producerIndexWrite (p : PortId) (value : Word)
  /-- NOTICE_HEAD_WRITE (R162). -/
  | noticeHeadWrite (p : PortId) (value : Word)
  /-- ATTENTION_REQUEST_SET (R165). -/
  | attentionRequestSet (p : PortId) (bits : BitVec 31)
  /-- ATTENTION_REQUEST_CLEAR (R165). -/
  | attentionRequestClear (p : PortId) (bits : BitVec 31)
  /-- ATTENTION_ENABLE_SET (R165). -/
  | attentionEnableSet (p : PortId) (bits : BitVec 31)
  /-- ATTENTION_ENABLE_CLEAR (R165). -/
  | attentionEnableClear (p : PortId) (bits : BitVec 31)
  /-- PORT_RESET (R160): a port control write with the reset bit set; `rest` are the bits it ignores. -/
  | portReset (p : PortId) (rest : BitVec 31)
  /-- WORD_WRITE (R152). -/
  | wordWrite (p : PortId) (addr : WordAddr) (value : Word)
  /-- BAD_CODE_ELEMENT (R156). -/
  | badCodeElement (p : PortId)
  /-- OVERLONG_CHAIN (R155). -/
  | overlongChain (p : PortId)
  /-- WORD_READ (R158). -/
  | wordRead (p : PortId) (addr : WordAddr)
  deriving DecidableEq, Repr

end Sys2Proof
end

