-- ==== Sys2Proof/Config.lean ====
section
/-! DEFINITION. What the manual leaves open of the part's words: free values, constants with no body. -/

namespace Sys2Proof

/-- The two bits "reason before" of a SUB_SUSPENDED whose entry was ACTIVE before: R168 gives the field, and an
ACTIVE entry has no reason. Free, by handle, stream, tag and frame (log 18). -/
opaque Config.reasonBeforeActive : Nat → Nat → Nat → Nat → BitVec 2

/-- The seven bits "cap" of a CARRIAGE_MODE written without an admission test: R121 gives the cap only when a test
was made. Free, by cell, stream, tag and frame (log 19). -/
opaque Config.capWithoutTest : Nat → Nat → Nat → Nat → BitVec 7

end Sys2Proof
end

