-- ==== Sys2Proof/Machine/State.lean ====
section
/-! DEFINITION. The state of the CZ-4160 as plain data: every record and register the spec gives it, the last bus
answer, and the queue of waiting commands. -/

namespace Sys2Proof.Machine

open Sys2Proof

/-- R1. -/
inductive DeviceState where
  | setup
  | service
  deriving DecidableEq, Repr

/-- The configured frame source (R3). -/
inductive FrameSource where
  | external
  | internal
  deriving DecidableEq, Repr

/-- The venue configuration (R3, R4), with its values after RESET (R4). -/
structure Venue where
  sectorsInUse : Nat := 32
  cellsPerSector : Nat := 32
  cellLimit : Nat := 160
  /-- M, the multicast threshold. -/
  threshold : Nat := 3
  handoverWindow : Nat := 8
  lingerTime : Nat := 24000
  surgeLength : Nat := 2000
  frameSource : FrameSource := .external
  deriving DecidableEq, Repr

/-- The clock state (R7). -/
inductive ClockState where
  | stopped
  | external
  | internal
  deriving DecidableEq, Repr

/-- The Frame Clock (01 §1.6). The divider is the two instants: it next expires at `lastBoundary` + 5.12 ms in
INTERNAL, and at `lastStrobe` + 20.48 ms in EXTERNAL (R9, R10). -/
structure FrameClock where
  state : ClockState := .stopped
  frame : FrameNo := 0
  lastBoundary : Instant := 0
  lastStrobe : Instant := 0
  deriving DecidableEq, Repr

/-- The Moment Latch (01 §1.8, R12, R13). -/
inductive Latch where
  | disarmed
  | armed (value mask : SectorId)
  | latched (value mask : SectorId) (frame : FrameNo) (slot : Nat)
  deriving DecidableEq, Repr

/-- An open surge (R13, R14). -/
structure Surge where
  value : SectorId
  mask : SectorId
  endFrame : FrameNo
  deriving DecidableEq, Repr

/-- The reasons of a SUSPENDED subscription (R98). -/
inductive Reason where
  | lingering
  | entitlement
  | away
  | noCarriage
  deriving DecidableEq, Repr

/-- The state of a subscription (R15, R86). -/
inductive SubState where
  | active
  | suspended (reason : Reason)
  deriving DecidableEq, Repr

/-- One entry of a subscription list (R86). -/
structure Subscription where
  stream : StreamId
  state : SubState
  deriving DecidableEq, Repr

/-- The state of a station record with the fields present in it (R15): the pending tag and the deadline stand in
IN_HANDOVER and LINGERING, the claimant cell in IN_HANDOVER. -/
inductive StationState where
  | associated
  | inHandover (claimant : CellId) (deadline : FrameNo) (tag : Tag)
  | lingering (deadline : FrameNo) (tag : Tag)
  deriving DecidableEq, Repr

/-- A live station record (R15); its handle is its key in the table. -/
structure Station where
  address : BitVec 48
  state : StationState
  serving : CellId
  sequence : BitVec 8
  level : Level
  ticket : Option TicketHandle
  subs : List Subscription
  deriving DecidableEq, Repr

/-- The Handle Stack (R18): `returned`, top first, over the handles never taken, `fresh`, `fresh` + 1, … up to 65,535
(log 9). -/
structure HandleStack where
  returned : List Handle := []
  fresh : Nat := 0
  deriving DecidableEq, Repr

/-- A Cell Roster entry (R19, R109): the two counts and the carriage list, as the streams in grant order. -/
structure RosterEntry where
  count : Nat := 0
  pendingIn : Nat := 0
  carriages : List StreamId := []
  deriving DecidableEq, Repr

/-- The class of a ticket (R54). -/
inductive TicketClass where
  | basic
  | premium
  deriving DecidableEq, Repr

/-- The entry state of a ticket (R55). -/
inductive EntryState where
  | issued
  | admitted
  | exited
  | voided
  deriving DecidableEq, Repr

/-- A seat (R54). -/
structure Seat where
  sector : SectorId
  row : Fin 128
  seat : Fin 256
  deriving DecidableEq, Repr

/-- Entry zone, last gate and admit frame of the most recent admission (R54). -/
structure Admission where
  zone : ZoneId
  gate : GateId
  frame : FrameNo
  deriving DecidableEq, Repr

/-- A ticket record (R54); its handle is its key in the table. -/
structure Ticket where
  number : BitVec 64
  seat : Option Seat
  zone : ZoneId
  anyZone : Bool
  cls : TicketClass
  entry : EntryState
  reentries : Nat
  admission : Option Admission
  station : Option Handle
  deriving DecidableEq, Repr

/-- The state of a zone (R61). -/
inductive ZoneState where
  | closed
  | opened
  | exitOnly
  deriving DecidableEq, Repr

/-- A Zone Table record (R61), with its values after RESET. -/
structure Zone where
  state : ZoneState := .closed
  limit : Nat := 0
  occupancy : Nat := 0
  admitted : Nat := 0
  deriving DecidableEq, Repr

/-- The class of a stream (R75). -/
inductive StreamClass where
  | anyone
  | basic
  | premium
  deriving DecidableEq, Repr

/-- The fields of a stream record present in LIVE and DRAINING (R75). D is 16 × `rate`. -/
structure StreamInfo where
  rate : Nat
  priority : Fin 4
  cls : StreamClass
  seatBound : Bool
  port : PortId
  openFrame : FrameNo
  deriving DecidableEq, Repr

/-- The state of a stream (R75). -/
inductive StreamState where
  | idle
  | live (info : StreamInfo)
  | draining (info : StreamInfo) (closeTag : Tag) (closeFrame : FrameNo)
  deriving DecidableEq, Repr

/-- A stream record (R75, R91), with its values after RESET. -/
structure Stream where
  state : StreamState := .idle
  /-- Subscriber total. -/
  subscribers : Nat := 0
  /-- Carriage count. -/
  carriages : Nat := 0
  /-- Subscriptions held on station lists, ACTIVE and SUSPENDED together (R91). -/
  held : Nat := 0
  deriving DecidableEq, Repr

/-- The delivery mode of a carriage (R107). -/
inductive Mode where
  | unicast
  | multicast
  | held
  deriving DecidableEq, Repr

/-- A carriage record (R107); its key is its cell and stream. P is the payload of `minLevel`. -/
structure Carriage where
  count : Nat
  hist : List Nat
  minLevel : Level
  mode : Mode
  balance : Int
  starved : Bool
  lastGrant : Nat
  deriving DecidableEq, Repr

/-- The priority of a sector policy (R138). -/
inductive Priority where
  | normal
  | priority
  deriving DecidableEq, Repr

/-- The plan state of a sector (R138). -/
inductive PlanState where
  | stable
  | rewriting
  deriving DecidableEq, Repr

/-- A sector record (R138), with its values after RESET. Its owner port is computed from the ports' ranges (log 10). -/
structure Sector where
  /-- T. -/
  reservation : Nat := 4
  priority : Priority := .normal
  planState : PlanState := .stable
  builtFor : Option FrameNo := none
  deriving DecidableEq, Repr

/-- A REPLAY run of a plan (R133). -/
structure ReplayRun where
  stream : StreamId
  level : Level
  slots : Nat
  deriving DecidableEq, Repr

/-- A cell plan (R133): a TICKET or GENERAL run of 0 slots is omitted from the list of runs. -/
structure Plan where
  control : Nat
  ticket : Nat
  replays : List ReplayRun
  general : Nat
  deriving DecidableEq, Repr

/-- A Plan Window entry (R140), with its content after RESET. -/
structure PlanEntry where
  plan : Plan := ⟨4, 4, [], 72⟩
  frame : Option FrameNo := none
  held : Bool := false
  deriving DecidableEq, Repr

/-- A running planning pass (R138, R142): the frame it builds, the sector being built, and the sectors it has still to
build after that one, in the order it takes them. -/
structure Pass where
  frame : FrameNo
  building : SectorId
  rest : List SectorId
  deriving DecidableEq, Repr

/-- The declared role of a port, with a CELL port's first and last sector (R2). -/
inductive Role where
  | none
  | cell (first last : SectorId)
  | gate
  | replay
  deriving DecidableEq, Repr

/-- The state of a port (R158). -/
inductive PortState where
  | active
  | quarantined
  deriving DecidableEq, Repr

/-- A Port Unit, with its values after RESET (R161). -/
structure PortUnit where
  role : Role := .none
  state : PortState := .active
  producer : BitVec 7 := 0
  consumer : BitVec 7 := 0
  /-- The Command Ring by word number, 16 × element + word (R153, R167). -/
  ring : Table Word := []
  head : BitVec 8 := 0
  tail : BitVec 8 := 0
  /-- The Notice Queue by word number, 4 × entry + word (R162, R168). -/
  queue : Table Word := []
  /-- Attention request: NOTICE, RING, FRAME, FAULT in bits 0–3 (R165, R170). -/
  request : BitVec 4 := 0
  /-- Attention enable: the same bits, and MASTER in bit 4 (R165, R170). -/
  enable : BitVec 5 := 0
  /-- An over-long run is being continued (R155): the NOTIFY flag of its first element. -/
  overlong : Option Bool := Option.none
  deriving DecidableEq, Repr

/-- The four Port Units. -/
structure Ports where
  p0 : PortUnit := {}
  p1 : PortUnit := {}
  p2 : PortUnit := {}
  p3 : PortUnit := {}
  deriving DecidableEq, Repr

/-- The Bus Arbiter (R150), with its values after RESET; `request` are the REQ lines as last sampled (log 24). -/
structure Arbiter where
  holder : Option PortId := none
  grant : Option PortId := none
  lastHolder : PortId := 3
  request : BitVec 4 := 0
  deriving DecidableEq, Repr

/-- The answer of the arbiter to a transfer (R152). -/
inductive BusAnswer where
  | ackRead (data : Word)
  | ackWrite
  | retry
  | error
  deriving DecidableEq, Repr

/-- The state of the part. -/
structure State where
  device : DeviceState := .setup
  venue : Venue := {}
  clock : FrameClock := {}
  latch : Latch := .disarmed
  surge : Option Surge := none
  stations : Table Station := []
  /-- The Address Map (R17). -/
  addressMap : Table Handle := []
  handles : HandleStack := {}
  /-- The Cell Roster by cell (R19). -/
  roster : Table RosterEntry := []
  tickets : Table Ticket := []
  /-- The Ticket Map (R56). -/
  ticketMap : Table TicketHandle := []
  /-- The loaded count (R56). -/
  loaded : Nat := 0
  /-- The Zone Table by zone (R61). -/
  zones : Table Zone := []
  /-- The Stream Table by stream (R75). -/
  streams : Table Stream := []
  /-- The Carriage Table by 16 × cell + stream (R107). -/
  carriages : Table Carriage := []
  /-- The sector records by sector (R138). -/
  sectors : Table Sector := []
  /-- The Plan Window by cell (R140). -/
  plans : Table PlanEntry := []
  pass : Option Pass := none
  startSector : SectorId := 0
  ports : Ports := {}
  arbiter : Arbiter := {}
  /-- The answer of the last transfer; none before the first (log 25). -/
  answer : Option BusAnswer := none
  /-- The waiting commands and events, first in first out (the model's own). -/
  pending : List Instr := []
  deriving DecidableEq, Repr

/-- The reasons the machine stops with a fault: none. The spec gives every event of the part an effect; a bus fault
(R158) is a change of state. -/
inductive Fault where
  deriving DecidableEq, Repr

/-- The reasons a command is refused a meaning. -/
inductive Refusal where
  /-- Raised by `exec` alone, for a row that has no meaning yet; safe. No arm raises it. -/
  | notModelled (mnemonic : String)
  deriving DecidableEq, Repr

/-- The part after the RESET input (R1, R2, R4, R7, R12, R14, R17, R18, R19, R56, R61, R76, R108, R138, R140, R150,
R161, R162): every field has its value after RESET as its default; a table lists nothing, and what it does not
list reads as the value after RESET. -/
def State.reset : State := {}

end Sys2Proof.Machine
end

