-- ==== Sys2Proof/Machine/Formats.lean ====
section
/-! DEFINITION. The formats of R167: the codes of commands, statuses and enumerated values, and the packing of results
into words 8–15 of a ring element. -/

namespace Sys2Proof.Machine

open Sys2Proof

/-! ## Bit fields -/

/-- The fields (width, value), filled from the high bit of a word of `rem` bits downward (R168). -/
def packFields : Nat → List (Nat × Nat) → Nat
  | _, [] => 0
  | rem, (w, v) :: t => v % 2 ^ w * 2 ^ (rem - w) + packFields (rem - w) t

/-- A Bool as a field of one bit. -/
def bit (b : Bool) : Nat :=
  if b then 1 else 0

/-! ## Codes of commands (R167) -/

/-- The commands of the part (R156). -/
inductive Command where
  | declarePort | setVenue | openMatch | closeMatch
  | readStation | readTicket | readStream | readCarriage | readZone | readCell
  | associate | detach | reportLevel | claim | release | withdraw | setSectorPolicy
  | loadTickets | admitTicket | exitTicket | voidTicket | setZone | bindTicket | unbindTicket
  | openStream | setStreamRate | closeStream | subscribe | unsubscribe | armMoment
  deriving DecidableEq, Repr

/-- The command codes (R167). -/
def commandCode : Command → BitVec 8
  | .declarePort => 0x01 | .setVenue => 0x02 | .openMatch => 0x03 | .closeMatch => 0x04
  | .readStation => 0x05 | .readTicket => 0x06 | .readStream => 0x07 | .readCarriage => 0x08
  | .readZone => 0x09 | .readCell => 0x0A
  | .associate => 0x10 | .detach => 0x11 | .reportLevel => 0x12 | .claim => 0x13
  | .release => 0x14 | .withdraw => 0x15 | .setSectorPolicy => 0x16
  | .loadTickets => 0x20 | .admitTicket => 0x21 | .exitTicket => 0x22 | .voidTicket => 0x23
  | .setZone => 0x24 | .bindTicket => 0x25 | .unbindTicket => 0x26
  | .openStream => 0x30 | .setStreamRate => 0x31 | .closeStream => 0x32
  | .subscribe => 0x33 | .unsubscribe => 0x34 | .armMoment => 0x35

/-- Whether a code byte is a command of the part (R156, R167). -/
def isCommandCode (c : BitVec 8) : Bool :=
  (decide (0x01 ≤ c.toNat) && decide (c.toNat ≤ 0x0A)) || (decide (0x10 ≤ c.toNat) && decide (c.toNat ≤ 0x16)) ||
  (decide (0x20 ≤ c.toNat) && decide (c.toNat ≤ 0x26)) || (decide (0x30 ≤ c.toNat) && decide (c.toNat ≤ 0x35))

/-! ## Status codes (R167) -/

/-- The statuses. -/
inductive Status where
  | ok | accepted | badCode | badLength | badOperand | notPermitted | notOpen | notInSetup | overlap
  | unownedSector | notOwner | tableFull | cellFull | unknownStation | already | notAssociated | sameCell
  | contested | stale | noClaim | notServing | notClaimant | unknownTicket | duplicate | gatesClosed
  | wrongZone | noReentry | voided | zoneFull | notAdmitted | boundElsewhere | stationBound | streamBusy
  | streamClosed | subLimit | notSubscribed | alreadyIn
  deriving DecidableEq, Repr

/-- The status codes (R167). -/
def statusCode : Status → BitVec 8
  | .ok => 0x00 | .accepted => 0x01 | .badCode => 0x02 | .badLength => 0x03 | .badOperand => 0x04
  | .notPermitted => 0x05 | .notOpen => 0x06 | .notInSetup => 0x07 | .overlap => 0x08
  | .unownedSector => 0x09 | .notOwner => 0x0A | .tableFull => 0x0B | .cellFull => 0x0C
  | .unknownStation => 0x0D | .already => 0x0E | .notAssociated => 0x0F | .sameCell => 0x10
  | .contested => 0x11 | .stale => 0x12 | .noClaim => 0x13 | .notServing => 0x14 | .notClaimant => 0x15
  | .unknownTicket => 0x16 | .duplicate => 0x17 | .gatesClosed => 0x18 | .wrongZone => 0x19
  | .noReentry => 0x1A | .voided => 0x1B | .zoneFull => 0x1C | .notAdmitted => 0x1D
  | .boundElsewhere => 0x1E | .stationBound => 0x1F | .streamBusy => 0x20 | .streamClosed => 0x21
  | .subLimit => 0x22 | .notSubscribed => 0x23 | .alreadyIn => 0x24

/-- A status that sets FAILED: every one but OK and ACCEPTED (R157). -/
def isRefusal (st : Status) : Bool :=
  st != .ok && st != .accepted

/-! ## Codes of enumerated values (R167) -/

def roleCode : Role → Nat
  | .none => 0 | .cell _ _ => 1 | .gate => 2 | .replay => 3

def ticketClassCode : TicketClass → Nat
  | .basic => 1 | .premium => 2

def streamClassCode : StreamClass → Nat
  | .anyone => 0 | .basic => 1 | .premium => 2

def zoneStateCode : ZoneState → Nat
  | .closed => 0 | .opened => 1 | .exitOnly => 2

def priorityCode : Priority → Nat
  | .normal => 0 | .priority => 1

def frameSourceCode : FrameSource → Nat
  | .external => 0 | .internal => 1

def deviceStateCode : DeviceState → Nat
  | .setup => 0 | .service => 1

def portStateCode : PortState → Nat
  | .active => 0 | .quarantined => 1

def stationStateCode : StationState → Nat
  | .associated => 0 | .inHandover _ _ _ => 1 | .lingering _ _ => 2

def entryStateCode : EntryState → Nat
  | .issued => 0 | .admitted => 1 | .exited => 2 | .voided => 3

def streamStateCode : StreamState → Nat
  | .idle => 0 | .live _ => 1 | .draining _ _ _ => 2

def latchCode : Latch → Nat
  | .disarmed => 0 | .armed _ _ => 1 | .latched _ _ _ _ => 2

def reasonCode : Reason → Nat
  | .lingering => 0 | .entitlement => 1 | .away => 2 | .noCarriage => 3

def subStateCode : SubState → Nat
  | .active => 0 | .suspended _ => 1

def modeCode : Mode → Nat
  | .unicast => 0 | .multicast => 1 | .held => 2

/-! ## Results (R167) -/

/-- One item of a result: a number in so many bytes, or an address or ticket number in two words, low half first. -/
inductive Item where
  | bytes (n : Nat) (v : Nat)
  | wide (v : BitVec 64)
  deriving DecidableEq, Repr

/-- An item that may be absent: a none mark is all ones across its bytes (R167). -/
def itemOrNone (n : Nat) : Option Nat → Item
  | none => .bytes n (256 ^ n - 1)
  | some v => .bytes n v

/-- A signed item in two's complement (R167). -/
def itemSigned (n : Nat) (v : Int) : Item :=
  .bytes n (v % (256 ^ n : Nat)).toNat

/-- A frame number or tag: four bytes. -/
def itemWord (w : Word) : Item :=
  .bytes 4 w.toNat

/-- A set of marks: one byte, one bit per item in order, the first in bit 0 (log 14). -/
def itemMarks (ms : List Bool) : Item :=
  .bytes 1 (ms.foldr (fun m acc => bit m + 2 * acc) 0)

/-- The first byte position at or above `pos` at which a word begins. -/
def wordUp (pos : Nat) : Nat :=
  (pos + 3) / 4 * 4

/-- The position past the last of some items that stand one after another from `pos`, an address or number at a word. -/
def tightEnd : Nat → List Item → Nat
  | pos, [] => pos
  | pos, .bytes n _ :: t => tightEnd (pos + n) t
  | pos, .wide _ :: t => tightEnd (wordUp pos + 8) t

/-- The position of an item of `n` bytes that comes at `pos`, before `rest`: an item that would cross a word boundary starts
at the next word (R167), unless the items after it would then not fit the 32 bytes of words 8–15, when it is written on
across the boundary (DESIGN CHOICE, log 12). -/
def placeOf (pos n : Nat) (rest : List Item) : Nat :=
  if pos % 4 + n ≤ 4 then pos else if tightEnd (wordUp pos + n) rest ≤ 32 then wordUp pos else pos

/-- A number in `n` bytes, the highest first. -/
def bytesOf (n v : Nat) : List Nat :=
  (List.range n).map fun i => v / 256 ^ (n - 1 - i) % 256

/-- The bytes of words 8–15 from position `pos` on: the items in order, the bytes that no item takes 0 (R167, log 16). -/
def resultBytes : Nat → List Item → List Nat
  | _, [] => []
  | pos, .bytes n v :: t =>
    let q := placeOf pos n t
    List.replicate (q - pos) 0 ++ bytesOf n v ++ resultBytes (q + n) t
  | pos, .wide v :: t =>
    List.replicate (wordUp pos - pos) 0 ++ bytesOf 4 v.toNat ++ bytesOf 4 (v.toNat / 2 ^ 32) ++
      resultBytes (wordUp pos + 8) t

/-- A word from four bytes, the first in its high byte. -/
def wordOfBytes (bs : List Nat) : Word :=
  BitVec.ofNat 32 (bs.foldl (fun w b => 256 * w + b) 0)

/-- The eight result words of a list of items: each item is packed from the high byte of word 8 downward (R167), and unused
bytes are 0 (R157). -/
def resultWords (items : List Item) : List Word :=
  let bs := resultBytes 0 items ++ List.replicate 32 0
  (List.range 8).map fun j => wordOfBytes ((bs.drop (4 * j)).take 4)

end Sys2Proof.Machine
end

