-- ==== Sys2Proof/Machine/Notices.lean ====
section
/-! DEFINITION. The notices and their records (R168). -/

namespace Sys2Proof.Machine

open Sys2Proof

/-- The causes of BINDING_CLEARED (R92). -/
inductive UnbindCause where
  | unbind
  | move
  | voiding
  | expiry
  deriving DecidableEq, Repr

/-- A notice with the facts it carries, apart from its tag and frame (R41, R103, R121, R130, R168). -/
inductive Notice where
  | releaseRequest (h : Handle) (sequence : BitVec 8) (serving claimant : CellId) (deadline : FrameNo)
  | handoverDone (h : Handle) (sequence : BitVec 8) (old new : CellId) (byDetach : Bool)
  | handoverForced (h : Handle) (sequence : BitVec 8) (old new : CellId)
  | claimWithdrawn (h : Handle) (sequence : BitVec 8) (serving claimant : CellId)
  | claimLapsed (h : Handle) (sequence : BitVec 8) (serving claimant : CellId)
  | lingerExpired (h : Handle) (cell : CellId)
  | subSuspended (h : Handle) (stream : StreamId) (reason : Reason) (before : SubState) (cell : CellId)
  | subResumed (h : Handle) (stream : StreamId) (before : Reason) (cell : CellId)
  | subRemoved (h : Handle) (stream : StreamId) (byExpiry : Bool)
  | streamEnded (subscriptions carriages : Nat) (stream : StreamId)
  | carriageMode (cell : CellId) (stream : StreamId) (count : Nat) (before : Mode) (after : Option Mode)
      (starved : Bool) (test : Option (Nat × Nat)) (level : Level)
  | carriageHeld (cell : CellId) (stream : StreamId) (count cost sum cap : Nat) (level : Level)
  | starved (cell : CellId) (stream : StreamId) (level : Level) (grant want rate : Nat)
  | recovered (cell : CellId) (stream : StreamId) (level : Level) (grant : Nat) (balance : Int) (rate : Nat)
  | bindingCleared (t : TicketHandle) (h : Handle) (cause : UnbindCause)
  | overrun (held : Nat) (first completed : SectorId)
  | moment (slot : Nat) (value mask : SectorId)
  | clockFallback
  | clockRestored
  | matchOpen
  | matchClosed
  | fault (addr : WordAddr) (write : Bool)
  deriving DecidableEq, Repr

/-- The kind byte of a notice (R168). OVERFLOW, 17H, is written by the Notice Queue itself (R163). -/
def noticeKind : Notice → Nat
  | .releaseRequest _ _ _ _ _ => 0x01
  | .handoverDone _ _ _ _ _ => 0x02
  | .handoverForced _ _ _ _ => 0x03
  | .claimWithdrawn _ _ _ _ => 0x04
  | .claimLapsed _ _ _ _ => 0x05
  | .lingerExpired _ _ => 0x06
  | .subSuspended _ _ _ _ _ => 0x07
  | .subResumed _ _ _ _ => 0x08
  | .subRemoved _ _ _ => 0x09
  | .streamEnded _ _ _ => 0x0A
  | .carriageMode _ _ _ _ _ _ _ _ => 0x0B
  | .carriageHeld _ _ _ _ _ _ _ => 0x0C
  | .starved _ _ _ _ _ _ => 0x0D
  | .recovered _ _ _ _ _ _ => 0x0E
  | .bindingCleared _ _ _ => 0x0F
  | .overrun _ _ _ => 0x10
  | .moment _ _ _ => 0x11
  | .clockFallback => 0x12
  | .clockRestored => 0x13
  | .matchOpen => 0x14
  | .matchClosed => 0x15
  | .fault _ _ => 0x16

def causeCode : UnbindCause → Nat
  | .unbind => 0 | .move => 1 | .voiding => 2 | .expiry => 3

/-- The mode after of CARRIAGE_MODE, REMOVED being 3 (R168). -/
def modeAfterCode : Option Mode → Nat
  | none => 3
  | some m => modeCode m

/-- Whether an entry was ACTIVE, as SUB_SUSPENDED says it. -/
def wasActive : SubState → Bool
  | .active => true
  | .suspended _ => false

/-- Subject 1 (24 bits), subject 2 (16 bits) and detail (16 bits) of a notice written with `tag` in frame `now`
(R168). -/
def noticeBody (n : Notice) (tag : Tag) (now : FrameNo) : Nat × Nat × Nat :=
  match n with
  | .releaseRequest h q serving claimant deadline =>
    (packFields 24 [(16, h), (8, q.toNat)],
     packFields 16 [(10, serving.val), (6, (deadline - now - 1).toNat)], packFields 16 [(10, claimant.val)])
  | .handoverDone h q old new byDetach =>
    (packFields 24 [(16, h), (8, q.toNat)], packFields 16 [(10, old.val), (1, bit byDetach)],
     packFields 16 [(10, new.val)])
  | .handoverForced h q old new =>
    (packFields 24 [(16, h), (8, q.toNat)], packFields 16 [(10, old.val), (1, 0)], packFields 16 [(10, new.val)])
  | .claimWithdrawn h q serving claimant =>
    (packFields 24 [(16, h), (8, q.toNat)], packFields 16 [(10, serving.val)], packFields 16 [(10, claimant.val)])
  | .claimLapsed h q serving claimant =>
    (packFields 24 [(16, h), (8, q.toNat)], packFields 16 [(10, serving.val)], packFields 16 [(10, claimant.val)])
  | .lingerExpired h cell => (packFields 24 [(16, h)], packFields 16 [(10, cell.val)], 0)
  | .subSuspended h x reason before cell =>
    let reasonBefore := match before with
      | .active => (Config.reasonBeforeActive h x.val tag.toNat now.toNat).toNat
      | .suspended r => reasonCode r
    (packFields 24 [(16, h), (4, x.val), (2, reasonCode reason)],
     packFields 16 [(1, bit (wasActive before)), (2, reasonBefore), (10, cell.val)], 0)
  | .subResumed h x before cell =>
    (packFields 24 [(16, h), (4, x.val), (2, reasonCode before)], packFields 16 [(10, cell.val)], 0)
  | .subRemoved h x byExpiry => (packFields 24 [(16, h), (4, x.val)], 0, bit byExpiry)
  | .streamEnded subs carriages x =>
    (packFields 24 [(17, subs), (4, x.val)], packFields 16 [(11, carriages)], 0)
  | .carriageMode cell x count before after starved test level =>
    let cap := match test with
      | none => (Config.capWithoutTest cell.val x.val tag.toNat now.toNat).toNat
      | some (_, cap) => cap
    let sum := match test with
      | none => 0
      | some (sum, _) => sum
    (packFields 24 [(10, cell.val), (4, x.val), (8, count), (2, modeCode before)],
     packFields 16 [(2, modeAfterCode after), (1, bit starved), (1, bit test.isSome), (3, level.val), (7, cap)],
     packFields 16 [(13, sum)])
  | .carriageHeld cell x count cost sum cap level =>
    (packFields 24 [(10, cell.val), (4, x.val), (8, count)], packFields 16 [(9, cost), (7, cap)],
     packFields 16 [(13, sum), (3, level.val)])
  | .starved cell x level grant want rate =>
    (packFields 24 [(10, cell.val), (4, x.val), (3, level.val), (6, grant)], want, rate)
  | .recovered cell x level grant balance rate =>
    (packFields 24 [(10, cell.val), (4, x.val), (3, level.val), (6, grant)], balance.toNat, rate)
  | .bindingCleared t h cause => (packFields 24 [(17, t)], packFields 16 [(16, h)], causeCode cause)
  | .overrun held first completed =>
    (packFields 24 [(6, held)], packFields 16 [(5, first.val)], packFields 16 [(5, completed.val)])
  | .moment slot value mask => (packFields 24 [(7, slot)], packFields 16 [(5, value.val), (5, mask.val)], 0)
  | .clockFallback => (0, 0, 0)
  | .clockRestored => (0, 0, 0)
  | .matchOpen => (0, 0, 0)
  | .matchClosed => (0, 0, 0)
  | .fault addr write => (packFields 24 [(24, 4 * addr.toNat)], bit write, 0)

/-- The four words of a notice record (R168). -/
def noticeRecord (n : Notice) (tag : Tag) (frame now : FrameNo) : List Word :=
  let (s1, s2, detail) := noticeBody n tag now
  [BitVec.ofNat 32 (packFields 32 [(8, noticeKind n), (24, s1)]), tag, frame,
   BitVec.ofNat 32 (packFields 32 [(16, s2), (16, detail)])]

end Sys2Proof.Machine
end

