-- ==== Sys2Proof/Machine/Table.lean ====
section
/-! DEFINITION. Tables of records by number: a list of pairs with strictly rising keys. A table of records that may be
absent is read with `tableFind`; a table whose every entry has a value after RESET is read with `tableRead`, and
does not list an entry equal to that value. -/

namespace Sys2Proof.Machine

open Sys2Proof

variable {α : Type}

/-- The record under key `k`, if there is one. -/
def tableFind : Table α → Nat → Option α
  | [], _ => none
  | (j, v) :: t, k => if j = k then some v else tableFind t k

/-- The table without an entry for `k`. -/
def tableErase : Table α → Nat → Table α
  | [], _ => []
  | (j, v) :: t, k => if j = k then tableErase t k else (j, v) :: tableErase t k

/-- The pair placed before the first greater key. -/
def tablePlace : Table α → Nat → α → Table α
  | [], k, v => [(k, v)]
  | (j, w) :: t, k, v => if k < j then (k, v) :: (j, w) :: t else (j, w) :: tablePlace t k v

/-- The table with the record `v` under `k`, in place of any record under it. -/
def tableStore (t : Table α) (k : Nat) (v : α) : Table α :=
  tablePlace (tableErase t k) k v

/-- The entry under `k` of a table whose unlisted entries read as `d`. -/
def tableRead (d : α) (t : Table α) (k : Nat) : α :=
  (tableFind t k).getD d

/-- The table with `v` under `k`, where an entry equal to `d` is not listed. -/
def tableWrite [DecidableEq α] (d : α) (t : Table α) (k : Nat) (v : α) : Table α :=
  if v = d then tableErase t k else tableStore t k v

/-- The table of `f 0`, …, `f (n - 1)`, where an entry equal to `d` is not listed. -/
def tableOf [DecidableEq α] (d : α) (n : Nat) (f : Nat → α) : Table α :=
  (List.range n).filterMap fun k => if f k = d then none else some (k, f k)

/-- The keys rise strictly from above `lo`. -/
def keysRiseFrom : Nat → Table α → Bool
  | _, [] => true
  | lo, (k, _) :: t => decide (lo ≤ k) && keysRiseFrom (k + 1) t

/-- The canonical form of a table of records: keys strictly rising. -/
def tableWf (t : Table α) : Bool :=
  keysRiseFrom 0 t

/-- The canonical form of a table with a value for every entry: keys strictly rising, and no entry equal to what an
unlisted one reads as. -/
def tableWfDefault [DecidableEq α] (d : α) (t : Table α) : Bool :=
  tableWf t && t.all fun e => decide (e.2 ≠ d)

end Sys2Proof.Machine
end

