-- ==== Sys2Proof/Machine/Ops.lean ====
section
/-! DEFINITION. The named operations over the records of the part: ports and Notice Queues, tables, cells and sectors. -/

namespace Sys2Proof.Machine

open Sys2Proof

/-! ## Ports -/

/-- The Port Unit of port `p`. -/
def Ports.unit (ps : Ports) (p : PortId) : PortUnit :=
  match p with
  | 0 => ps.p0
  | 1 => ps.p1
  | 2 => ps.p2
  | 3 => ps.p3

/-- The Port Units with that of `p` replaced. -/
def Ports.withUnit (ps : Ports) (p : PortId) (u : PortUnit) : Ports :=
  match p with
  | 0 => { ps with p0 := u }
  | 1 => { ps with p1 := u }
  | 2 => { ps with p2 := u }
  | 3 => { ps with p3 := u }

/-- The same change made at every Port Unit. -/
def Ports.mapUnits (ps : Ports) (f : PortUnit → PortUnit) : Ports :=
  ⟨f ps.p0, f ps.p1, f ps.p2, f ps.p3⟩

/-- The Port Unit of port `p`. -/
def State.port (s : State) (p : PortId) : PortUnit :=
  s.ports.unit p

def State.setPort (s : State) (p : PortId) (u : PortUnit) : State :=
  { s with ports := s.ports.withUnit p u }

def State.mapPorts (s : State) (f : PortUnit → PortUnit) : State :=
  { s with ports := s.ports.mapUnits f }

/-- A declared port: its role is not NONE (R164). -/
def isDeclared (u : PortUnit) : Bool :=
  match u.role with
  | .none => false
  | .cell _ _ => true
  | .gate => true
  | .replay => true

def isCellPort (u : PortUnit) : Bool :=
  match u.role with
  | .cell _ _ => true
  | .none => false
  | .gate => false
  | .replay => false

def isGatePort (u : PortUnit) : Bool :=
  match u.role with
  | .gate => true
  | .none => false
  | .cell _ _ => false
  | .replay => false

def isReplayPort (u : PortUnit) : Bool :=
  match u.role with
  | .replay => true
  | .none => false
  | .cell _ _ => false
  | .gate => false

/-- Whether the port's declared range contains the sector (00_scope.md 0.5, R2). -/
def ownsSector (u : PortUnit) (sec : SectorId) : Bool :=
  match u.role with
  | .cell first last => decide (first ≤ sec) && decide (sec ≤ last)
  | .none => false
  | .gate => false
  | .replay => false

/-- The sector of a cell: the cell number div 32 (R21). -/
def sectorOf (c : CellId) : SectorId :=
  ⟨c.val / 32, by omega⟩

/-- Whether the port owns the cell. -/
def ownsCell (u : PortUnit) (c : CellId) : Bool :=
  ownsSector u (sectorOf c)

def allPorts : List PortId := [0, 1, 2, 3]

/-- The owner port of a sector (R138). -/
def State.ownerOf (s : State) (sec : SectorId) : Option PortId :=
  allPorts.find? fun p => ownsSector (s.port p) sec

/-! ## Notice Queues (R162, R163) -/

/-- The number of held notices: the tail minus the head, modulo 256 (R162). -/
def heldNotices (u : PortUnit) : Nat :=
  (u.tail - u.head).toNat

/-- The entry an index names: the index modulo 128 (R162). -/
def entryIndex (i : BitVec 8) : Nat :=
  i.toNat % 128

/-- Bit positions of the attention requests (R170). -/
def noticeBit : BitVec 4 := 1
def ringBit : BitVec 4 := 2
def frameBit : BitVec 4 := 4
def faultBit : BitVec 4 := 8

/-- A word written into a ring or a queue, whose unlisted words read 0. -/
def storeWord (m : Table Word) (k : Nat) (v : Word) : Table Word :=
  tableWrite 0 m k v

/-- A word of a ring or a queue. -/
def loadWord (m : Table Word) (k : Nat) : Word :=
  tableRead 0 m k

/-- Words written from word number `k` upward. -/
def storeWords (m : Table Word) (k : Nat) : List Word → Table Word
  | [] => m
  | w :: t => storeWords (storeWord m k w) (k + 1) t

/-- A port with one or more attention requests set. -/
def raise (bits : BitVec 4) (u : PortUnit) : PortUnit :=
  { u with request := u.request ||| bits }

/-- The record written at the tail, the tail advanced, NOTICE set (R162). -/
def enqueue (record : List Word) (u : PortUnit) : PortUnit :=
  raise noticeBit { u with queue := storeWords u.queue (4 * entryIndex u.tail) record, tail := u.tail + 1 }

/-- The mask of dropped kinds with the bit of one kind (R168). -/
def kindMask (kind : Nat) : Word :=
  BitVec.ofNat 32 (2 ^ kind)

/-- A fresh OVERFLOW record: one notice of `kind` dropped, tag 0, the frame in which it is written (R163, R168). -/
def overflowRecord (kind : Nat) (now : FrameNo) : List Word :=
  [BitVec.ofNat 32 (packFields 32 [(8, 0x17), (24, 1)]), 0, now, kindMask kind]

/-- A notice of `kind` added in place to the OVERFLOW record at the last entry: the count rises by one, stopping at
16,777,215, and the kind is entered in the mask; NOTICE is set (R163, R168). -/
def addDropped (kind : Nat) (u : PortUnit) : PortUnit :=
  let base := 4 * entryIndex (u.tail - 1)
  let count := (loadWord u.queue base).toNat % 2 ^ 24
  let word0 := BitVec.ofNat 32 (packFields 32 [(8, 0x17), (24, min (count + 1) 16777215)])
  let word3 := loadWord u.queue (base + 3) ||| kindMask kind
  raise noticeBit { u with queue := storeWord (storeWord u.queue base word0) (base + 3) word3 }

/-- A notice of `kind` reaches the queue of a port: discarded while QUARANTINED (R159, R162); written when more than
one entry is free; replaced by OVERFLOW in the last free entry; added to OVERFLOW when the queue is full (R163). -/
def deliver (kind : Nat) (record : List Word) (now : FrameNo) (u : PortUnit) : PortUnit :=
  match u.state with
  | .quarantined => u
  | .active =>
    if heldNotices u < 127 then enqueue record u
    else if heldNotices u = 127 then enqueue (overflowRecord kind now) u
    else addDropped kind u

/-- A notice written to every port that `dest` picks, one copy each (R164), carrying `tag` and `frame`. -/
def State.notifyAt (s : State) (dest : PortUnit → Bool) (n : Notice) (tag : Tag) (frame : FrameNo) : State :=
  let now := s.clock.frame
  s.mapPorts fun u => if dest u then deliver (noticeKind n) (noticeRecord n tag frame now) now u else u

/-- A notice carrying the frame in which it is written (R168). -/
def State.notify (s : State) (dest : PortUnit → Bool) (n : Notice) (tag : Tag) : State :=
  s.notifyAt dest n tag s.clock.frame

/-- Every REPLAY port and the port owning the cell: the ports of the carriage notices (R164). -/
def toReplayAndOwner (c : CellId) (u : PortUnit) : Bool :=
  isReplayPort u || ownsCell u c

/-- The ports owning the old and the new cell, each once (R164). -/
def toOwners (old new : CellId) (u : PortUnit) : Bool :=
  ownsCell u old || ownsCell u new

/-! ## The records of the part -/

/-- The live station record under a handle. -/
def State.station? (s : State) (h : Handle) : Option Station :=
  tableFind s.stations h

def State.setStation (s : State) (h : Handle) (st : Station) : State :=
  { s with stations := tableStore s.stations h st }

def State.rosterEntry (s : State) (c : CellId) : RosterEntry :=
  tableRead {} s.roster c.val

def State.setRoster (s : State) (c : CellId) (e : RosterEntry) : State :=
  { s with roster := tableWrite {} s.roster c.val e }

/-- A station more, or fewer, served by a cell (R19). -/
def State.addCount (s : State) (c : CellId) : State :=
  s.setRoster c { s.rosterEntry c with count := (s.rosterEntry c).count + 1 }

def State.subCount (s : State) (c : CellId) : State :=
  s.setRoster c { s.rosterEntry c with count := (s.rosterEntry c).count - 1 }

/-- A station more, or fewer, claimed into a cell (R19). -/
def State.addPending (s : State) (c : CellId) : State :=
  s.setRoster c { s.rosterEntry c with pendingIn := (s.rosterEntry c).pendingIn + 1 }

def State.subPending (s : State) (c : CellId) : State :=
  s.setRoster c { s.rosterEntry c with pendingIn := (s.rosterEntry c).pendingIn - 1 }

/-- A cell has room when its count plus its pending-in is less than the cell limit (R20). -/
def State.hasRoom (s : State) (c : CellId) : Bool :=
  decide ((s.rosterEntry c).count + (s.rosterEntry c).pendingIn < s.venue.cellLimit)

def State.ticket? (s : State) (t : TicketHandle) : Option Ticket :=
  tableFind s.tickets t

def State.setTicket (s : State) (t : TicketHandle) (k : Ticket) : State :=
  { s with tickets := tableStore s.tickets t k }

/-- The ticket record that a number names, through the Ticket Map (R56). -/
def State.ticketByNumber (s : State) (n : BitVec 64) : Option (TicketHandle × Ticket) :=
  match tableFind s.ticketMap n.toNat with
  | none => none
  | some t => (s.ticket? t).map fun k => (t, k)

/-- The station record that an address names, through the Address Map (R17). -/
def State.stationByAddress (s : State) (a : BitVec 48) : Option (Handle × Station) :=
  match tableFind s.addressMap a.toNat with
  | none => none
  | some h => (s.station? h).map fun st => (h, st)

def State.zone (s : State) (z : ZoneId) : Zone :=
  tableRead {} s.zones z.val

def State.setZone (s : State) (z : ZoneId) (v : Zone) : State :=
  { s with zones := tableWrite {} s.zones z.val v }

def State.stream (s : State) (x : StreamId) : Stream :=
  tableRead {} s.streams x.val

def State.setStream (s : State) (x : StreamId) (v : Stream) : State :=
  { s with streams := tableWrite {} s.streams x.val v }

/-- The rate, priority, class and flag of a stream, in LIVE and DRAINING (R75). -/
def streamInfo? : StreamState → Option StreamInfo
  | .idle => none
  | .live i => some i
  | .draining i _ _ => some i

/-- The demand of a stream, D = 16 × its rate bytes per frame (R75); 0 for an IDLE one. -/
def State.demand (s : State) (x : StreamId) : Nat :=
  match streamInfo? (s.stream x).state with
  | none => 0
  | some i => 16 * i.rate

/-- The key of the carriage of a cell and a stream. -/
def carriageKey (c : CellId) (x : StreamId) : Nat :=
  16 * c.val + x.val

def State.carriage? (s : State) (c : CellId) (x : StreamId) : Option Carriage :=
  tableFind s.carriages (carriageKey c x)

def State.setCarriage (s : State) (c : CellId) (x : StreamId) (k : Carriage) : State :=
  { s with carriages := tableStore s.carriages (carriageKey c x) k }

def State.eraseCarriage (s : State) (c : CellId) (x : StreamId) : State :=
  { s with carriages := tableErase s.carriages (carriageKey c x) }

/-- The number of free carriage records: 4,096 minus the number of carriages (R108). -/
def State.freeCarriages (s : State) : Nat :=
  4096 - s.carriages.length

def State.sector (s : State) (sec : SectorId) : Sector :=
  tableRead {} s.sectors sec.val

def State.setSector (s : State) (sec : SectorId) (v : Sector) : State :=
  { s with sectors := tableWrite {} s.sectors sec.val v }

def State.planEntry (s : State) (c : CellId) : PlanEntry :=
  tableRead {} s.plans c.val

def State.setPlan (s : State) (c : CellId) (e : PlanEntry) : State :=
  { s with plans := tableWrite {} s.plans c.val e }

/-! ## The Handle Stack (R18) -/

/-- The handle on top of the stack and the stack without it; none when it is empty. -/
def popHandle (k : HandleStack) : Option (Handle × HandleStack) :=
  match k.returned with
  | h :: t => some (h, { k with returned := t })
  | [] => if k.fresh < 65536 then some (k.fresh, { k with fresh := k.fresh + 1 }) else none

/-- The stack with a handle put on top. A handle put back on the untouched rest joins it, so that equal stacks are
equal data. -/
def pushHandle (h : Handle) (k : HandleStack) : HandleStack :=
  if k.returned = [] ∧ h + 1 = k.fresh then { k with fresh := h } else { k with returned := h :: k.returned }

/-- The number of handles on the stack. -/
def handlesFree (k : HandleStack) : Nat :=
  k.returned.length + (65536 - k.fresh)

/-! ## Scopes, venue and subscriptions -/

/-- The test of a surge scope and of a sector policy: the sector number AND the mask equals the value AND the mask
(R14, R139). -/
def scopeMatches (value mask sec : SectorId) : Bool :=
  Nat.land sec.val mask.val == Nat.land value.val mask.val

/-- The sectors, in ascending order; also the indexes of the cells of a sector. -/
def allSectors : List SectorId :=
  [0, 1, 2, 3, 4, 5, 6, 7, 8, 9, 10, 11, 12, 13, 14, 15, 16, 17, 18, 19, 20, 21, 22, 23, 24, 25, 26, 27, 28, 29, 30, 31]

/-- The sectors in use, in ascending order. -/
def State.sectorsUsed (s : State) : List SectorId :=
  allSectors.filter fun sec => decide (sec.val < s.venue.sectorsInUse)

/-- A cell lies in the venue: its sector is in use and its index is below the cells per sector (R21). -/
def State.inVenue (s : State) (c : CellId) : Bool :=
  decide (c.val / 32 < s.venue.sectorsInUse) && decide (c.val % 32 < s.venue.cellsPerSector)

/-- The cells of a sector that are in the venue, in ascending order. -/
def State.cellsOf (s : State) (sec : SectorId) : List CellId :=
  (allSectors.filter fun i => decide (i.val < s.venue.cellsPerSector)).map fun i =>
    ⟨32 * sec.val + i.val, by omega⟩

/-- The entry for a stream on a subscription list (R86). -/
def findSub (subs : List Subscription) (x : StreamId) : Option Subscription :=
  subs.find? fun e => decide (e.stream = x)

/-- The number of ACTIVE entries of a list. -/
def countActive (subs : List Subscription) : Nat :=
  (subs.filter fun e => decide (e.state = .active)).length

/-- The number of a station's entries that are ACTIVE. -/
def State.activeOf (s : State) (h : Handle) : Nat :=
  match s.station? h with
  | none => 0
  | some st => countActive st.subs

end Sys2Proof.Machine
end

