-- ==== Sys2Proof/Machine/Flags.lean ====
section
/-! DEFINITION. The attention words and the lines they drive (R165, R166), and the grant lines (R150, R151). -/

namespace Sys2Proof.Machine

open Sys2Proof

/-- The new contents of an attention word of `n` bits: with bit 31 of the write set, each bit written as 1 is set;
with it clear, each bit written as 1 is cleared (R165). -/
def attentionWrite {n : Nat} (old : BitVec n) (value : Word) : BitVec n :=
  if value.getLsbD 31 then old ||| value.setWidth n else old &&& ~~~(value.setWidth n)

/-- A port's ATTN line: MASTER is enabled and some request bit is set and enabled (R166). -/
def attn (u : PortUnit) : Bool :=
  u.enable.getLsbD 4 && (u.request &&& u.enable.setWidth 4) != 0

/-- A port's grant line: raised while a grant to it is outstanding and while it holds the bus (R150, R151). -/
def gnt (a : Arbiter) (p : PortId) : Bool :=
  decide (a.grant = some p) || decide (a.holder = some p)

/-- A frame boundary sets the FRAME request at every port, whatever its role or state (R11, R165). -/
def State.raiseFrame (s : State) : State :=
  s.mapPorts (raise frameBit)

end Sys2Proof.Machine
end

