-- ==== Sys2Proof/Machine/Operands.lean ====
section
/-! DEFINITION. The operands of a command, read from the words of its ring elements (R22, R167). -/

namespace Sys2Proof.Machine

open Sys2Proof

/-- A command taken by a Port Unit: the code, tag and NOTIFY flag of its first element, and the sixteen words of each
of its elements (R155). -/
structure Cmd where
  code : BitVec 8
  tag : Tag
  notify : Bool
  elements : List (List Word)
  deriving DecidableEq, Repr

/-- Word `j` of element `k` of a command. -/
def Cmd.word (c : Cmd) (k j : Nat) : Word :=
  (c.elements.getD k []).getD j 0

/-- Operand word `j` of the first element. -/
def Cmd.op (c : Cmd) (j : Nat) : Word :=
  c.word 0 j

/-- A flag: bit 0 of its word (R167). -/
def Cmd.flag (c : Cmd) (j : Nat) : Bool :=
  (c.op j).getLsbD 0

/-- A 64-bit number in two words, low half first (R167). -/
def twoWords (low high : Word) : BitVec 64 :=
  high ++ low

/-- The 64-bit number in words `j` and `j + 1`. -/
def Cmd.number (c : Cmd) (j : Nat) : BitVec 64 :=
  twoWords (c.op j) (c.op (j + 1))

/-- The 48-bit address in words `j` and `j + 1`; none when the upper 16 bits of the second word are not 0 (R22). -/
def Cmd.address? (c : Cmd) (j : Nat) : Option (BitVec 48) :=
  if (c.op (j + 1)).toNat < 2 ^ 16 then some ((c.number j).setWidth 48) else none

/-- A stream operand, 0–15. -/
def asStream (w : Word) : Option StreamId :=
  if h : w.toNat < 16 then some ⟨w.toNat, h⟩ else none

/-- A zone operand, 0–15. -/
def asZone (w : Word) : Option ZoneId :=
  if h : w.toNat < 16 then some ⟨w.toNat, h⟩ else none

/-- A gate operand, 0–255. -/
def asGate (w : Word) : Option GateId :=
  if h : w.toNat < 256 then some ⟨w.toNat, h⟩ else none

/-- A sector number operand, 0–31. -/
def asSector (w : Word) : Option SectorId :=
  if h : w.toNat < 32 then some ⟨w.toNat, h⟩ else none

/-- A priority operand of a stream, 0–3. -/
def asStreamPriority (w : Word) : Option (Fin 4) :=
  if h : w.toNat < 4 then some ⟨w.toNat, h⟩ else none

/-- A cell operand; none when it is not in the venue (R21). -/
def State.asCell (s : State) (w : Word) : Option CellId :=
  if h : w.toNat < 1024 then (if s.inVenue ⟨w.toNat, h⟩ then some ⟨w.toNat, h⟩ else none) else none

/-- The live record that a handle operand names; a value above 65,535 is taken as a free handle (R22). -/
def State.asStation (s : State) (w : Word) : Option Station :=
  if w.toNat < 65536 then s.station? w.toNat else none

/-- A level operand, read from bits 7–0 and clamped to 7 (R22, R167). -/
def asLevel (w : Word) : Level :=
  if h : w.toNat % 256 < 8 then ⟨w.toNat % 256, h⟩ else 7

/-- Whether a level operand was clamped (R22). -/
def levelClamped (w : Word) : Bool :=
  decide (8 ≤ w.toNat % 256)

/-- A value replaced by the nearest end of its range (00_scope.md 0.5). -/
def clampTo (lo hi v : Nat) : Nat :=
  if v < lo then lo else if hi < v then hi else v

/-- A rate operand, read from bits 15–0 and clamped into 10–800 (R78, R167). -/
def asRate (w : Word) : Nat :=
  clampTo 10 800 (w.toNat % 65536)

/-- Whether a rate operand was clamped. -/
def rateClamped (w : Word) : Bool :=
  decide (asRate w ≠ w.toNat % 65536)

/-- A T operand, read from bits 7–0 and clamped to 16 (R139, R167). -/
def asReservation (w : Word) : Nat :=
  clampTo 0 16 (w.toNat % 256)

/-- Whether a T operand was clamped. -/
def reservationClamped (w : Word) : Bool :=
  decide (16 < w.toNat % 256)

def asStreamClass (w : Word) : Option StreamClass :=
  match w.toNat with
  | 0 => some .anyone
  | 1 => some .basic
  | 2 => some .premium
  | _ => none

def asTicketClass (n : Nat) : Option TicketClass :=
  match n with
  | 1 => some .basic
  | 2 => some .premium
  | _ => none

def asZoneState (w : Word) : Option ZoneState :=
  match w.toNat with
  | 0 => some .closed
  | 1 => some .opened
  | 2 => some .exitOnly
  | _ => none

def asPriority (w : Word) : Option Priority :=
  match w.toNat with
  | 0 => some .normal
  | 1 => some .priority
  | _ => none

def asFrameSource (w : Word) : Option FrameSource :=
  match w.toNat with
  | 0 => some .external
  | 1 => some .internal
  | _ => none

end Sys2Proof.Machine
end

