-- ==== Sys2Proof/Machine/Rings.lean ====
section
/-! DEFINITION. The Command Ring: posting, taking and completing (R154 to R157), and the two rows of the Port Unit's
own, BAD_CODE_ELEMENT and OVERLONG_CHAIN. -/

namespace Sys2Proof.Machine

open Sys2Proof

/-- The number of posted elements: the producer index minus the consumer index, modulo 128 (R154). -/
def posted (u : PortUnit) : Nat :=
  (u.producer - u.consumer).toNat

/-- The element an index names: the index modulo 64 (R154). -/
def elementIndex (i : BitVec 7) : Nat :=
  i.toNat % 64

/-- The element `k` places after the consumer index. -/
def ringElement (u : PortUnit) (k : Nat) : Nat :=
  (elementIndex u.consumer + k) % 64

/-- Word `j` of element `e`. -/
def elementWord (u : PortUnit) (e j : Nat) : Word :=
  loadWord u.ring (16 * e + j)

/-- The CHAIN flag of the element `k` places after the consumer index (R167). -/
def chained (u : PortUnit) (k : Nat) : Bool :=
  (elementWord u (ringElement u k) 0).getLsbD 28

/-- The NOTIFY flag of the element `k` places after the consumer index (R167). -/
def notifying (u : PortUnit) (k : Nat) : Bool :=
  (elementWord u (ringElement u k) 0).getLsbD 29

/-- The number of elements of the command at the consumer index, up to the first with CHAIN clear; 5 when the first
four carry CHAIN (R155). -/
def commandLength (u : PortUnit) : Nat :=
  if chained u 0 then (if chained u 1 then (if chained u 2 then (if chained u 3 then 5 else 4) else 3) else 2) else 1

/-- The sixteen words of the element `k` places after the consumer index. -/
def elementWords (u : PortUnit) (k : Nat) : List Word :=
  (List.range 16).map fun j => elementWord u (ringElement u k) j

/-- The command the Port Unit takes: none while the port is QUARANTINED (R159), while an over-long run is being
continued, or while not all of the command's elements are posted (R155). -/
def takeable (u : PortUnit) : Option Cmd :=
  if u.state = .active ∧ u.overlong = none ∧ commandLength u ≤ 4 ∧ commandLength u ≤ posted u then
    let first := elementWord u (ringElement u 0) 0
    some { code := first.setWidth 8
           tag := elementWord u (ringElement u 0) 1
           notify := notifying u 0
           elements := (List.range (commandLength u)).map (elementWords u) }
  else none

/-! ## Completion (R157) -/

/-- Word 0 of a completed element: DONE set, FAILED as the status says, the status code in bits 23–16, every other bit
as the master wrote it. -/
def completedWord (w : Word) (st : Status) : Word :=
  (w &&& 0x3F00FFFF) ||| 0x80000000 ||| (if isRefusal st then 0x40000000 else 0) |||
    ((statusCode st).setWidth 32 <<< 16)

/-- An element with its completion written: word 0 and the result words 8–15. -/
def completeElement (ring : Table Word) (e : Nat) (st : Status) (results : List Word) : Table Word :=
  storeWords (storeWord ring (16 * e) (completedWord (loadWord ring (16 * e)) st)) (16 * e + 8) results

/-- The elements `k`, …, `k + n - 1` places after the consumer index `c` completed with zero results. -/
def completeRest (ring : Table Word) (c : BitVec 7) (st : Status) : Nat → Nat → Table Word
  | _, 0 => ring
  | k, n + 1 =>
    completeElement (completeRest ring c st k n) ((elementIndex c + (k + n)) % 64) st (List.replicate 8 0)

/-- The completion of a command of `len` elements: the results in the first, the status, DONE and FAILED in all; the
consumer index past all of them; RING set when the command was posted with NOTIFY. -/
def completeCommand (len : Nat) (notify : Bool) (st : Status) (items : List Item) (u : PortUnit) : PortUnit :=
  let first := completeElement u.ring (ringElement u 0) st (resultWords items)
  let done := { u with
    ring := completeRest first u.consumer st 1 (len - 1)
    consumer := u.consumer + BitVec.ofNat 7 len }
  if notify then raise ringBit done else done

/-! ## The Port Unit's checks (R156) and the device state check (R1) -/

/-- What a command is completed with, and what it leaves. -/
structure Reply where
  status : Status
  items : List Item
  state : State

/-- A refusal: the status with its results, and the state unchanged. -/
def refuse (st : Status) (items : List Item) (s : State) : Reply :=
  ⟨st, items, s⟩

/-- The number of elements a command takes (R156). -/
def lengthOk (c : Command) (n : Nat) : Bool :=
  match c with
  | .setVenue => n == 2
  | .loadTickets => true
  | .declarePort | .openMatch | .closeMatch | .readStation | .readTicket | .readStream | .readCarriage | .readZone
  | .readCell | .associate | .detach | .reportLevel | .claim | .release | .withdraw | .setSectorPolicy | .admitTicket
  | .exitTicket | .voidTicket | .setZone | .bindTicket | .unbindTicket | .openStream | .setStreamRate | .closeStream
  | .subscribe | .unsubscribe | .armMoment => n == 1

/-- Whether a port's role permits a command (R156). -/
def permits (u : PortUnit) (c : Command) : Bool :=
  match c with
  | .declarePort => true
  | .setVenue | .openMatch | .closeMatch | .readStation | .readTicket | .readStream | .readCarriage | .readZone
  | .readCell => isDeclared u
  | .associate | .detach | .reportLevel | .claim | .release | .withdraw | .setSectorPolicy => isCellPort u
  | .loadTickets | .admitTicket | .exitTicket | .voidTicket | .setZone | .bindTicket | .unbindTicket => isGatePort u
  | .openStream | .setStreamRate | .closeStream | .subscribe | .unsubscribe | .armMoment => isReplayPort u

/-- The status with which the device state refuses a command, if it does (R1). -/
def stateRefusal (d : DeviceState) (c : Command) : Option Status :=
  match c, d with
  | .declarePort, .service | .setVenue, .service | .openMatch, .service => some .notInSetup
  | .declarePort, .setup | .setVenue, .setup | .openMatch, .setup => none
  | .loadTickets, _ | .readStation, _ | .readTicket, _ | .readStream, _ | .readCarriage, _ | .readZone, _
  | .readCell, _ => none
  | _, .service => none
  | _, .setup => some .notOpen

/-- The checks of R156, in order, and then the command's own rule. -/
def checkedReply (p : PortId) (c : Command) (cmd : Cmd) (body : Cmd → State → Reply) (s : State) : Reply :=
  if !lengthOk c cmd.elements.length then refuse .badLength [] s
  else if !permits (s.port p) c then refuse .notPermitted [] s
  else
    match stateRefusal s.device c with
    | some st => refuse st [] s
    | none => body cmd s

/-- The reply's state with the completion written into the port's ring: one event with the taking (R157). -/
def finishCommand (p : PortId) (cmd : Cmd) (r : Reply) : State :=
  r.state.setPort p (completeCommand cmd.elements.length cmd.notify r.status r.items (r.state.port p))

/-- The Port Unit of `p` takes the command `c`: nothing happens unless the command at the consumer index is there to
be taken and has that code (log 2). -/
def serve (p : PortId) (c : Command) (body : Cmd → State → Reply) (s : State) : State :=
  match takeable (s.port p) with
  | none => s
  | some cmd => if cmd.code = commandCode c then finishCommand p cmd (checkedReply p c cmd body s) else s

/-- BAD_CODE_ELEMENT (R156): a command whose code is no command of the part is completed BAD_CODE. -/
def State.serveBadCode (s : State) (p : PortId) : State :=
  match takeable (s.port p) with
  | none => s
  | some cmd => if isCommandCode cmd.code then s else finishCommand p cmd (refuse .badCode [] s)

/-! ## Over-long chains (R155) -/

/-- One element of an over-long run completed BAD_LENGTH; the run goes on when the element carries CHAIN. -/
def completeOverlong (notify : Bool) (u : PortUnit) : PortUnit :=
  let goesOn := chained u 0
  { completeCommand 1 notify .badLength [] u with overlong := if goesOn then some notify else none }

/-- Up to `n` further posted elements of the run completed, to the first with CHAIN clear. -/
def continueRun : Nat → PortUnit → PortUnit
  | 0, u => u
  | n + 1, u =>
    match u.overlong with
    | none => u
    | some notify => if posted u = 0 then u else continueRun n (completeOverlong notify u)

/-- The first five elements of an over-long run completed BAD_LENGTH without regard to the fifth one's CHAIN flag; the
run goes on when the fifth carries CHAIN. -/
def startRun (u : PortUnit) : PortUnit :=
  let notify := notifying u 0
  completeOverlong notify (completeOverlong notify (completeOverlong notify (completeOverlong notify
    (completeOverlong notify u))))

/-- The over-long run at the consumer index: begun when five posted elements show it, or continued. The posted elements that
go on with the run are completed in the same event, the ones past the first five too (DESIGN CHOICE, log 22). -/
def serveOverlong (u : PortUnit) : PortUnit :=
  if u.state = .quarantined then u
  else
    match u.overlong with
    | some _ => continueRun (posted u) u
    | none =>
      if commandLength u = 5 ∧ 5 ≤ posted u then continueRun (posted u) (startRun u) else u

/-- OVERLONG_CHAIN (R155). -/
def State.serveOverlongAt (s : State) (p : PortId) : State :=
  s.setPort p (serveOverlong (s.port p))

end Sys2Proof.Machine
end

