-- ==== Sys2Proof/Machine/Carriages.lean ====
section
/-! DEFINITION. The Carriage Table (chapter 7): joins, leaves, level moves, the mode evaluation and the admission test. -/

namespace Sys2Proof.Machine

open Sys2Proof

/-- P: the payload bytes per slot of a link level (R107). -/
def payload (l : Level) : Nat :=
  match l with
  | 0 => 48
  | 1 => 96
  | 2 => 144
  | 3 => 192
  | 4 => 288
  | 5 => 384
  | 6 => 432
  | 7 => 480

/-- The quotient rounded up; 0 for a divisor of 0, which no payload is. -/
def ceilDiv (a b : Nat) : Nat :=
  (a + b - 1) / b

/-- The cost of a carriage: ceil(D / P) (R115). -/
def cost (demand pay : Nat) : Nat :=
  ceilDiv demand pay

/-- The limit on replay grants: Q for an effectively PRIORITY sector, Q − floor(Q / 4) otherwise (R115, R126). -/
def capOf (q : Nat) (prioritised : Bool) : Nat :=
  if prioritised then q else q - q / 4

/-- Whether an open surge's scope matches the sector (R14). -/
def State.surgeMatches (s : State) (sec : SectorId) : Bool :=
  match s.surge with
  | none => false
  | some g => scopeMatches g.value g.mask sec

/-- Effectively PRIORITY: by its policy, or by an open surge whose scope it matches (R14, R115, R126). -/
def State.prioritised (s : State) (sec : SectorId) : Bool :=
  decide ((s.sector sec).priority = .priority) || s.surgeMatches sec

/-- The admission cap of a cell, for a non-beacon frame: Q is 80 − 4 − T (R115). -/
def State.admissionCap (s : State) (c : CellId) : Nat :=
  capOf (80 - 4 - (s.sector (sectorOf c)).reservation) (s.prioritised (sectorOf c))

/-- The sum of the costs of the MULTICAST carriages on a cell's carriage list (R115). -/
def State.multicastSum (s : State) (c : CellId) : Nat :=
  (s.rosterEntry c).carriages.foldl (fun sum x =>
    match s.carriage? c x with
    | none => sum
    | some k => if k.mode = .multicast then sum + cost (s.demand x) (payload k.minLevel) else sum) 0

/-- The lowest level with a histogram count above 0 (R112); 7 for an empty histogram, which no live carriage has. -/
def lowestLevel (hist : List Nat) : Level :=
  match ([0, 1, 2, 3, 4, 5, 6, 7] : List Level).find? (fun l => decide (0 < hist.getD l.val 0)) with
  | some l => l
  | none => 7

/-- A histogram with the count of a level raised, or lowered, by one. -/
def histUp (hist : List Nat) (l : Level) : List Nat :=
  hist.set l.val (hist.getD l.val 0 + 1)

def histDown (hist : List Nat) (l : Level) : List Nat :=
  hist.set l.val (hist.getD l.val 0 - 1)

/-- A carriage with a new histogram: the min level and P are brought up to date, and if P has changed and the carriage
is MULTICAST, a balance at or above the new P is lowered to P − 1 (R112, R113). -/
def relevel (k : Carriage) (hist : List Nat) : Carriage :=
  let l := lowestLevel hist
  let p := payload l
  let clamps := k.mode = .multicast ∧ p ≠ payload k.minLevel ∧ (p : Int) ≤ k.balance
  { k with hist := hist, minLevel := l, balance := if clamps then (p : Int) - 1 else k.balance }

/-- The mode evaluation of the carriage of a cell and a stream (R114): the admission test at or above M for a UNICAST
or HELD carriage (R115, R116), the return to UNICAST at or below M − 2 (R117), with their notices (R121). -/
def State.evalMode (s : State) (c : CellId) (x : StreamId) (tag : Tag) : State :=
  match s.carriage? c x with
  | none => s
  | some k =>
    if k.mode ≠ .multicast ∧ s.venue.threshold ≤ k.count then
      let own := cost (s.demand x) (payload k.minLevel)
      let others := s.multicastSum c
      let cap := s.admissionCap c
      let test := some (others + own, cap)
      if others + own ≤ cap then
        (s.setCarriage c x { k with mode := .multicast, balance := 0, starved := false }).notify (toReplayAndOwner c)
          (.carriageMode c x k.count k.mode (some .multicast) k.starved test k.minLevel) tag
      else if k.mode = .unicast then
        ((s.setCarriage c x { k with mode := .held, balance := 0 }).notify (toReplayAndOwner c)
          (.carriageMode c x k.count .unicast (some .held) k.starved test k.minLevel) tag).notify (toReplayAndOwner c)
          (.carriageHeld c x k.count own others cap k.minLevel) tag
      else s.setCarriage c x { k with mode := .held, balance := 0 }
    else if k.mode ≠ .unicast ∧ k.count + 2 ≤ s.venue.threshold then
      (s.setCarriage c x { k with mode := .unicast, balance := 0, starved := false }).notify (toReplayAndOwner c)
        (.carriageMode c x k.count k.mode (some .unicast) k.starved none k.minLevel) tag
    else s

/-- The priority of a stream, by which its carriages are ordered (R109). -/
def State.priorityOf (s : State) (x : StreamId) : Nat :=
  match streamInfo? (s.stream x).state with
  | none => 0
  | some i => i.priority.val

/-- Whether stream `x` comes before stream `y` in grant order: priority ascending, then number ascending (R109). -/
def State.grantsBefore (s : State) (x y : StreamId) : Bool :=
  decide (s.priorityOf x < s.priorityOf y) || (decide (s.priorityOf x = s.priorityOf y) && decide (x < y))

/-- A stream inserted at its place in grant order (R109). -/
def State.placeInOrder (s : State) (x : StreamId) : List StreamId → List StreamId
  | [] => [x]
  | y :: t => if s.grantsBefore x y then x :: y :: t else y :: s.placeInOrder x t

/-- The subscriber total and carriage count of a stream (R77). -/
def State.setTotals (s : State) (x : StreamId) (subscribers carriages : Nat) : State :=
  s.setStream x { s.stream x with subscribers := subscribers, carriages := carriages }

/-- Step 1 of a join to a carriage that does not exist (R110): it is created with count 0 and an empty histogram,
UNICAST, and inserted into its cell's list. The min level of the empty record is not read; it is given the level
that joins. -/
def State.createCarriage (s : State) (c : CellId) (x : StreamId) (l : Level) : State :=
  let s := s.setCarriage c x
    { count := 0, hist := List.replicate 8 0, minLevel := l, mode := .unicast, balance := 0, starved := false
      lastGrant := 0 }
  let s := s.setRoster c { s.rosterEntry c with carriages := s.placeInOrder x (s.rosterEntry c).carriages }
  s.setTotals x (s.stream x).subscribers ((s.stream x).carriages + 1)

/-- Steps 2 to 4 of a join (R110). -/
def State.joinExisting (s : State) (c : CellId) (x : StreamId) (l : Level) (tag : Tag) : State :=
  match s.carriage? c x with
  | none => s
  | some k =>
    let s := s.setCarriage c x (relevel { k with count := k.count + 1 } (histUp k.hist l))
    (s.setTotals x ((s.stream x).subscribers + 1) (s.stream x).carriages).evalMode c x tag

/-- A join of one ACTIVE subscription at a level (R110). -/
def State.join (s : State) (c : CellId) (x : StreamId) (l : Level) (tag : Tag) : State :=
  match s.carriage? c x with
  | none => (s.createCarriage c x l).joinExisting c x l tag
  | some _ => s.joinExisting c x l tag

/-- A carriage taken off its cell's list and its record freed (R111). -/
def State.dropCarriage (s : State) (c : CellId) (x : StreamId) : State :=
  (s.eraseCarriage c x).setRoster c
    { s.rosterEntry c with carriages := (s.rosterEntry c).carriages.filter fun y => decide (y ≠ x) }

/-- A leave of one ACTIVE subscription from its carriage (R111). The min level that CARRIAGE_MODE gives for a removal
is the record's, as it stood before the leave (log 20). -/
def State.leave (s : State) (c : CellId) (x : StreamId) (l : Level) (tag : Tag) : State :=
  match s.carriage? c x with
  | none => s
  | some k =>
    let s := s.setTotals x ((s.stream x).subscribers - 1) (s.stream x).carriages
    if k.count ≤ 1 then
      let s := (s.dropCarriage c x).setTotals x (s.stream x).subscribers ((s.stream x).carriages - 1)
      if k.mode = .unicast then s
      else s.notify (toReplayAndOwner c) (.carriageMode c x 0 k.mode none k.starved none k.minLevel) tag
    else
      (s.setCarriage c x (relevel { k with count := k.count - 1 } (histDown k.hist l))).evalMode c x tag

/-- A level move of one ACTIVE subscription inside its carriage (R112). -/
def State.moveLevel (s : State) (c : CellId) (x : StreamId) (old new : Level) (tag : Tag) : State :=
  match s.carriage? c x with
  | none => s
  | some k => (s.setCarriage c x (relevel k (histUp (histDown k.hist old) new))).evalMode c x tag

/-- The bytes of the eight histogram counts, as READ_CARRIAGE reports them (R122). -/
def histItems (hist : List Nat) : List Item :=
  (List.range 8).map fun i => .bytes 1 (hist.getD i 0)

/-- The position of a stream on a cell's carriage list, counting from 0. -/
def listPosition (x : StreamId) (l : List StreamId) : Nat :=
  (l.takeWhile fun y => decide (y ≠ x)).length

/-- READ_CARRIAGE (cell, stream) (R122). -/
def readCarriageReply (cmd : Cmd) (s : State) : Reply :=
  match s.asCell (cmd.op 2), asStream (cmd.op 3) with
  | some c, some x =>
    match s.carriage? c x with
    | none => ⟨.ok, [itemMarks [true], .bytes 2 s.freeCarriages], s⟩
    | some k =>
      ⟨.ok, .bytes 1 k.count :: histItems k.hist ++
        [.bytes 1 k.minLevel.val, .bytes 2 (payload k.minLevel), .bytes 1 (modeCode k.mode), itemSigned 3 k.balance,
          itemMarks [k.starved], .bytes 1 k.lastGrant, .bytes 1 (listPosition x (s.rosterEntry c).carriages),
          .bytes 2 s.freeCarriages], s⟩
  | some _, none => refuse .badOperand [] s
  | none, _ => refuse .badOperand [] s

end Sys2Proof.Machine
end

