-- ==== Sys2Proof/Machine/Entitlement.lean ====
section
/-! DEFINITION. The Entitlement Unit (chapter 6): the four checks of a subscription and the evaluation of a list. -/

namespace Sys2Proof.Machine

open Sys2Proof

/-- The ticket a station is bound to. -/
def State.boundTicket (s : State) (st : Station) : Option Ticket :=
  match st.ticket with
  | none => none
  | some t => s.ticket? t

/-- Whether a ticket's class ranks at or above a stream's class, BASIC ranking below PREMIUM (R98). -/
def classCovers : TicketClass → StreamClass → Bool
  | _, .anyone => true
  | _, .basic => true
  | .premium, .premium => true
  | .basic, .premium => false

/-- The class and the seat-bound flag of a stream; an IDLE one has none, and no list holds it (R86). -/
def State.classOf (s : State) (x : StreamId) : StreamClass :=
  match streamInfo? (s.stream x).state with
  | none => .anyone
  | some i => i.cls

def State.seatBoundOf (s : State) (x : StreamId) : Bool :=
  match streamInfo? (s.stream x).state with
  | none => false
  | some i => i.seatBound

/-- Check 2 of R98: the stream is OPEN, or the bound ticket is ADMITTED and of sufficient class. -/
def State.entitled (s : State) (st : Station) (x : StreamId) : Bool :=
  decide (s.classOf x = .anyone) ||
    match s.boundTicket st with
    | none => false
    | some k => decide (k.entry = .admitted) && classCovers k.cls (s.classOf x)

/-- Check 3 of R98: the stream is not seat-bound, or the bound ticket has a seat in the serving cell's sector. -/
def State.seated (s : State) (st : Station) (x : StreamId) : Bool :=
  !s.seatBoundOf x ||
    match s.boundTicket st with
    | none => false
    | some k =>
      match k.seat with
      | none => false
      | some seat => decide (sectorOf st.serving = seat.sector)

/-- Whether a station is LINGERING. -/
def isLingering : StationState → Bool
  | .associated => false
  | .inHandover _ _ _ => false
  | .lingering _ _ => true

/-- The outcome of the four checks of R98 for a station's subscription to a stream. -/
def State.verdict (s : State) (st : Station) (x : StreamId) : SubState :=
  if isLingering st.state then .suspended .lingering
  else if !s.entitled st x then .suspended .entitlement
  else if !s.seated st x then .suspended .away
  else if (s.carriage? st.serving x).isSome || decide (0 < s.freeCarriages) then .active
  else .suspended .noCarriage

/-- The entry of a station for a stream given a state. -/
def State.setSubState (s : State) (h : Handle) (x : StreamId) (v : SubState) : State :=
  match s.station? h with
  | none => s
  | some st =>
    s.setStation h { st with subs := st.subs.map fun e => if e.stream = x then { e with state := v } else e }

/-- One entry visited by an evaluation (R100, R103). `joined` is false in the second pass of a handover completion,
whose ACTIVE entries have left their carriages; `fresh` is the new entry of a SUBSCRIBE, which writes no SUB_ notice
(R88). -/
def State.evalEntry (s : State) (h : Handle) (tag : Tag) (joined : Bool) (fresh : Option StreamId) (x : StreamId) :
    State :=
  match s.station? h with
  | none => s
  | some st =>
    match findSub st.subs x with
    | none => s
    | some e =>
      match e.state, s.verdict st x with
      | .active, .active =>
        if joined then s else (s.join st.serving x st.level tag).setSubState h x .active
      | .suspended r, .active =>
        let s := (s.join st.serving x st.level tag).setSubState h x .active
        if fresh = some x then s else s.notify isReplayPort (.subResumed h x r st.serving) tag
      | .active, .suspended r =>
        let s := if joined then s.leave st.serving x st.level tag else s
        (s.setSubState h x (.suspended r)).notify isReplayPort (.subSuspended h x r .active st.serving) tag
      | .suspended r, .suspended r' =>
        if r = r' then s
        else
          let s := s.setSubState h x (.suspended r')
          if fresh = some x then s
          else s.notify isReplayPort (.subSuspended h x r' (.suspended r) st.serving) tag

/-- An evaluation of a station's whole list, in list order (R100, R101). -/
def State.evaluateWith (s : State) (h : Handle) (tag : Tag) (joined : Bool) (fresh : Option StreamId) : State :=
  match s.station? h with
  | none => s
  | some st => (st.subs.map (·.stream)).foldl (fun s x => s.evalEntry h tag joined fresh x) s

/-- An evaluation whose ACTIVE entries are in their carriages, with no new entry. -/
def State.evaluate (s : State) (h : Handle) (tag : Tag) : State :=
  s.evaluateWith h tag true none

/-- The held figure of a stream, raised or lowered by one (R91). -/
def State.addHeld (s : State) (x : StreamId) : State :=
  s.setStream x { s.stream x with held := (s.stream x).held + 1 }

def State.subHeld (s : State) (x : StreamId) : State :=
  s.setStream x { s.stream x with held := (s.stream x).held - 1 }

/-- A stream's entry taken off a station's list; a later entry moves to the front with its state and reason (R86, R89). -/
def State.removeSub (s : State) (h : Handle) (x : StreamId) : State :=
  match s.station? h with
  | none => s
  | some st =>
    (s.setStation h { st with subs := st.subs.filter fun e => decide (e.stream ≠ x) }).subHeld x

/-- The entry taken off the list, an ACTIVE one leaving its carriage first (R70, R89). -/
def State.leaveAndRemove (s : State) (h : Handle) (x : StreamId) (tag : Tag) : State :=
  match s.station? h with
  | none => s
  | some st =>
    match findSub st.subs x with
    | none => s
    | some e =>
      let s := if e.state = .active then s.leave st.serving x st.level tag else s
      s.removeSub h x

end Sys2Proof.Machine
end

