-- ==== Sys2Proof/Machine/Handover.lean ====
section
/-! DEFINITION. Handover (chapter 3): claims, completions and abandonments, and the claim deadline. -/

namespace Sys2Proof.Machine

open Sys2Proof

/-- The event that completes a handover (R37). -/
inductive Completion where
  | release
  | detach
  | deadline
  deriving DecidableEq, Repr

/-- The notice of a completion (R41). -/
def completionNotice (by_ : Completion) (h : Handle) (sequence : BitVec 8) (old new : CellId) : Notice :=
  match by_ with
  | .release => .handoverDone h sequence old new false
  | .detach => .handoverDone h sequence old new true
  | .deadline => .handoverForced h sequence old new

/-- The first pass of a subscription move: each ACTIVE entry leaves its carriage in the old cell, in list order
(R43). -/
def State.leaveOld (s : State) (old : CellId) (l : Level) (tag : Tag) (subs : List Subscription) : State :=
  subs.foldl (fun s e => if e.state = .active then s.leave old e.stream l tag else s) s

/-- A handover completion (R42, R43): the record and the counts move, the sequence rises, the subscriptions leave the
old cell and are evaluated at the new one, and the notice is written, all under the pending tag. -/
def State.completeHandover (s : State) (h : Handle) (by_ : Completion) : State :=
  match s.station? h with
  | none => s
  | some st =>
    match st.state with
    | .associated => s
    | .lingering _ _ => s
    | .inHandover claimant _ tag =>
      let s := s.setStation h { st with serving := claimant, state := .associated, sequence := st.sequence + 1 }
      let s := ((s.subCount st.serving).addCount claimant).subPending claimant
      let s := s.leaveOld st.serving st.level tag st.subs
      let s := s.evaluateWith h tag false none
      s.notify (toOwners st.serving claimant) (completionNotice by_ h (st.sequence + 1) st.serving claimant) tag

/-- The abandonment of a claim (R45, R47): the station is ASSOCIATED again at its serving cell and the claimant's
pending-in falls; the sequence is unchanged. -/
def State.abandonClaim (s : State) (h : Handle) (lapsed : Bool) : State :=
  match s.station? h with
  | none => s
  | some st =>
    match st.state with
    | .associated => s
    | .lingering _ _ => s
    | .inHandover claimant _ tag =>
      let s := (s.setStation h { st with state := .associated }).subPending claimant
      let n := if lapsed then Notice.claimLapsed h st.sequence st.serving claimant
        else Notice.claimWithdrawn h st.sequence st.serving claimant
      s.notify (fun u => ownsCell u st.serving) n tag

/-- A claim accepted on an ASSOCIATED station (R39). -/
def State.acceptClaim (s : State) (h : Handle) (st : Station) (c : CellId) (tag : Tag) : State :=
  let deadline := s.clock.frame + BitVec.ofNat 32 s.venue.handoverWindow
  let s := (s.setStation h { st with state := .inHandover c deadline tag }).addPending c
  s.notify (fun u => ownsCell u st.serving) (.releaseRequest h st.sequence st.serving c deadline) tag

/-- The result of an ACCEPTED claim (R39, R40): the mark, the serving cell, the claimant cell, the sequence and the
claim deadline. -/
def claimItems (repeated : Bool) (st : Station) (c : CellId) (deadline : FrameNo) : List Item :=
  [.bytes 1 (bit repeated), .bytes 2 st.serving.val, .bytes 2 c.val, .bytes 1 st.sequence.toNat, itemWord deadline]

/-- Checks 4 to 9 of CLAIM (R38), on the record the handle names. -/
def claimStation (cmd : Cmd) (c : CellId) (h : Handle) (st : Station) (s : State) : Reply :=
  if cmd.flag 5 ∧ (cmd.op 4).toNat ≠ st.sequence.toNat then refuse .stale [.bytes 1 st.sequence.toNat] s
  else if c = st.serving then refuse .sameCell [] s
  else
    match st.state with
    | .lingering _ _ => refuse .notAssociated [] s
    | .inHandover claimant deadline _ =>
      if claimant = c then ⟨.accepted, claimItems true st c deadline, s⟩
      else refuse .contested [.bytes 2 claimant.val, itemWord deadline, .bytes 1 st.sequence.toNat] s
    | .associated =>
      if s.hasRoom c then
        ⟨.accepted, claimItems false st c (s.clock.frame + BitVec.ofNat 32 s.venue.handoverWindow),
          s.acceptClaim h st c cmd.tag⟩
      else refuse .cellFull [] s

/-- CLAIM (handle, new cell, expected sequence) (R38 to R40). -/
def claimReply (p : PortId) (cmd : Cmd) (s : State) : Reply :=
  match s.asCell (cmd.op 3) with
  | none => refuse .badOperand [] s
  | some c =>
    if !ownsCell (s.port p) c then refuse .notOwner [] s
    else
      match s.asStation (cmd.op 2) with
      | none => refuse .unknownStation [] s
      | some st => claimStation cmd c (cmd.op 2).toNat st s

/-- The sequence and serving cell of a STALE result (R44, R45). -/
def staleItems (st : Station) : List Item :=
  [.bytes 1 st.sequence.toNat, .bytes 2 st.serving.val]

/-- RELEASE (handle, sequence) (R44). -/
def releaseReply (p : PortId) (cmd : Cmd) (s : State) : Reply :=
  match s.asStation (cmd.op 2) with
  | none => refuse .unknownStation [] s
  | some st =>
    if (cmd.op 3).toNat ≠ st.sequence.toNat then refuse .stale (staleItems st) s
    else if isLingering st.state then refuse .notAssociated [] s
    else if !ownsCell (s.port p) st.serving then refuse .notServing [] s
    else
      match st.state with
      | .associated => refuse .noClaim [] s
      | .lingering _ _ => refuse .notAssociated [] s
      | .inHandover claimant _ _ =>
        let s' := s.completeHandover (cmd.op 2).toNat .release
        ⟨.ok, [.bytes 2 st.serving.val, .bytes 2 claimant.val, .bytes 1 (st.sequence + 1).toNat,
          .bytes 1 (s'.activeOf (cmd.op 2).toNat)], s'⟩

/-- WITHDRAW (handle, sequence) (R45). -/
def withdrawReply (p : PortId) (cmd : Cmd) (s : State) : Reply :=
  match s.asStation (cmd.op 2) with
  | none => refuse .unknownStation [] s
  | some st =>
    if (cmd.op 3).toNat ≠ st.sequence.toNat then refuse .stale (staleItems st) s
    else
      match st.state with
      | .associated => refuse .noClaim [] s
      | .lingering _ _ => refuse .noClaim [] s
      | .inHandover claimant _ _ =>
        if !ownsCell (s.port p) claimant then refuse .notClaimant [] s
        else ⟨.ok, [.bytes 2 st.serving.val, .bytes 1 st.sequence.toNat], s.abandonClaim (cmd.op 2).toNat false⟩

/-! ## The claim deadline (R46, R47) -/

/-- A claim deadline is reached: it equals the frame counter (R11, R46). -/
def claimDue (now : FrameNo) (st : Station) : Bool :=
  match st.state with
  | .inHandover _ deadline _ => decide (deadline = now)
  | .associated => false
  | .lingering _ _ => false

/-- The port owning a cell is QUARANTINED. -/
def State.ownerQuarantined (s : State) (c : CellId) : Bool :=
  match s.ownerOf (sectorOf c) with
  | none => false
  | some p => decide ((s.port p).state = .quarantined)

/-- The claim deadline of one station (R46): forced completion, or a lapse when the claimant's port is QUARANTINED. -/
def State.expireClaim (s : State) (h : Handle) : State :=
  match s.station? h with
  | none => s
  | some st =>
    match st.state with
    | .associated => s
    | .lingering _ _ => s
    | .inHandover claimant _ _ =>
      if s.ownerQuarantined claimant then s.abandonClaim h true else s.completeHandover h .deadline

/-- The stations whose claim deadline is reached, in ascending order of handle. -/
def State.claimsDue (s : State) : List Handle :=
  (s.stations.filter fun e => claimDue s.clock.frame e.2).map (·.1)

/-- The Station Table's act on the claim deadlines of a boundary (R46): every station whose deadline is reached, in
ascending order of handle; nothing when none is due (log 2). -/
def State.actClaimDeadline (s : State) : State :=
  s.claimsDue.foldl State.expireClaim s

end Sys2Proof.Machine
end

