-- ==== Sys2Proof/Machine/Stations.lean ====
section
/-! DEFINITION. Stations and cells (chapter 2): association, detach and linger, link levels, and the queries. -/

namespace Sys2Proof.Machine

open Sys2Proof

/-- A new record for an address (R24), under the handle taken from the stack. -/
def State.createStation (s : State) (h : Handle) (rest : HandleStack) (a : BitVec 48) (c : CellId) (l : Level) : State :=
  let st : Station :=
    { address := a, state := .associated, serving := c, sequence := 0, level := l, ticket := none, subs := [] }
  let s := { s with handles := rest, addressMap := tableStore s.addressMap a.toNat h }
  (s.setStation h st).addCount c

/-- A LINGERING record revived at a cell (R25): its list is evaluated there under the ASSOCIATE's tag. -/
def State.reviveStation (s : State) (h : Handle) (st : Station) (c : CellId) (l : Level) (tag : Tag) : State :=
  ((s.setStation h { st with state := .associated, serving := c, level := l }).addCount c).evaluate h tag

/-- Checks 4 to 6 of ASSOCIATE (R23) and its three outcomes. -/
def associateAt (cmd : Cmd) (a : BitVec 48) (c : CellId) (s : State) : Reply :=
  let l := asLevel (cmd.op 5)
  let mark := itemMarks [levelClamped (cmd.op 5)]
  match s.stationByAddress a with
  | some (h, st) =>
    if !isLingering st.state then refuse .already [.bytes 2 h, .bytes 2 st.serving.val] s
    else if !s.hasRoom c then refuse .cellFull [] s
    else
      let s' := s.reviveStation h st c l cmd.tag
      ⟨.ok, [.bytes 1 1, .bytes 2 h, .bytes 1 st.sequence.toNat, .bytes 1 l.val, mark, .bytes 1 (s'.activeOf h)], s'⟩
  | none =>
    if !s.hasRoom c then refuse .cellFull [] s
    else
      match popHandle s.handles with
      | none => refuse .tableFull [] s
      | some (h, rest) =>
        ⟨.ok, [.bytes 1 0, .bytes 2 h, .bytes 1 0, .bytes 1 l.val, mark], s.createStation h rest a c l⟩

/-- ASSOCIATE (address, cell, level) (R23 to R25). -/
def associateReply (p : PortId) (cmd : Cmd) (s : State) : Reply :=
  match cmd.address? 2 with
  | none => refuse .badOperand [] s
  | some a =>
    match s.asCell (cmd.op 4) with
    | none => refuse .badOperand [] s
    | some c => if !ownsCell (s.port p) c then refuse .notOwner [] s else associateAt cmd a c s

/-- An ASSOCIATED station put into linger (R28): the count falls and every entry is evaluated, becoming SUSPENDED
LINGERING. -/
def State.enterLinger (s : State) (h : Handle) (st : Station) (tag : Tag) : State :=
  let deadline := s.clock.frame + BitVec.ofNat 32 s.venue.lingerTime
  ((s.setStation h { st with state := .lingering deadline tag }).subCount st.serving).evaluate h tag

/-- DETACH (handle, sequence) (R27 to R29). -/
def detachReply (p : PortId) (cmd : Cmd) (s : State) : Reply :=
  match s.asStation (cmd.op 2) with
  | none => refuse .unknownStation [] s
  | some st =>
    if isLingering st.state then refuse .notAssociated [] s
    else if !ownsCell (s.port p) st.serving then refuse .notServing [] s
    else if (cmd.op 3).toNat ≠ st.sequence.toNat then refuse .stale [.bytes 1 st.sequence.toNat] s
    else
      match st.state with
      | .lingering _ _ => refuse .notAssociated [] s
      | .associated =>
        ⟨.ok, [itemWord (s.clock.frame + BitVec.ofNat 32 s.venue.lingerTime), .bytes 1 st.sequence.toNat],
          s.enterLinger (cmd.op 2).toNat st cmd.tag⟩
      | .inHandover claimant _ _ =>
        ⟨.ok, [.bytes 1 2, .bytes 2 claimant.val, .bytes 1 (st.sequence + 1).toNat],
          s.completeHandover (cmd.op 2).toNat .detach⟩

/-- Whether a port may report a station's level: it owns the serving (or last serving) cell, or the claimant cell
(R32). -/
def mayReport (u : PortUnit) (st : Station) : Bool :=
  ownsCell u st.serving ||
    match st.state with
    | .inHandover claimant _ _ => ownsCell u claimant
    | .associated => false
    | .lingering _ _ => false

/-- The level of a station replaced; the ACTIVE entries of an ASSOCIATED or IN_HANDOVER one move in the histograms of
the serving cell's carriages, in list order (R32, R33). -/
def State.replaceLevel (s : State) (h : Handle) (st : Station) (l : Level) (tag : Tag) : State :=
  let s := s.setStation h { st with level := l }
  if isLingering st.state then s
  else st.subs.foldl (fun s e =>
    if e.state = .active then s.moveLevel st.serving e.stream st.level l tag else s) s

/-- REPORT_LEVEL (handle, level) (R32, R33). -/
def reportLevelReply (p : PortId) (cmd : Cmd) (s : State) : Reply :=
  match s.asStation (cmd.op 2) with
  | none => refuse .unknownStation [] s
  | some st =>
    if !mayReport (s.port p) st then refuse .notServing [] s
    else
      let l := asLevel (cmd.op 3)
      ⟨.ok, [.bytes 1 st.level.val, .bytes 1 l.val, itemMarks [levelClamped (cmd.op 3)]],
        if l = st.level then s else s.replaceLevel (cmd.op 2).toNat st l cmd.tag⟩

/-! ## The linger expiry (R30) -/

/-- A linger deadline is reached: it equals the frame counter (R11, R30). -/
def lingerDue (now : FrameNo) (st : Station) : Bool :=
  match st.state with
  | .lingering deadline _ => decide (deadline = now)
  | .associated => false
  | .inHandover _ _ _ => false

/-- Step 1 of R30: each entry taken off the list, in list order, with its SUB_REMOVED. -/
def State.removeAllSubs (s : State) (h : Handle) (tag : Tag) (subs : List Subscription) : State :=
  subs.foldl (fun s e => (s.removeSub h e.stream).notify isReplayPort (.subRemoved h e.stream true) tag) s

/-- A binding cleared on both sides, with BINDING_CLEARED to every GATE port (R92). -/
def State.clearBinding (s : State) (h : Handle) (t : TicketHandle) (cause : UnbindCause) (tag : Tag) : State :=
  let s := match s.station? h with
    | none => s
    | some st => s.setStation h { st with ticket := none }
  let s := match s.ticket? t with
    | none => s
    | some k => s.setTicket t { k with station := none }
  s.notify isGatePort (.bindingCleared t h cause) tag

/-- Steps 3 and 4 of R30: the address leaves the map, the record is freed, its handle goes on top of the stack. -/
def State.freeStation (s : State) (h : Handle) (a : BitVec 48) : State :=
  { s with addressMap := tableErase s.addressMap a.toNat, stations := tableErase s.stations h
           handles := pushHandle h s.handles }

/-- The linger expiry of one record (R30). -/
def State.expireLinger (s : State) (h : Handle) : State :=
  match s.station? h with
  | none => s
  | some st =>
    match st.state with
    | .associated => s
    | .inHandover _ _ _ => s
    | .lingering _ tag =>
      let s := s.removeAllSubs h tag st.subs
      let s := match st.ticket with
        | none => s
        | some t => s.clearBinding h t .expiry tag
      (s.freeStation h st.address).notify (fun u => ownsCell u st.serving) (.lingerExpired h st.serving) tag

/-- The stations whose linger deadline is reached, in ascending order of handle. -/
def State.lingersDue (s : State) : List Handle :=
  (s.stations.filter fun e => lingerDue s.clock.frame e.2).map (·.1)

/-- The Station Table's act on the linger deadlines of a boundary (R30): every record whose deadline is reached, in
ascending order of handle; nothing when none is due (log 2). -/
def State.actLingerExpiry (s : State) : State :=
  s.lingersDue.foldl State.expireLinger s

/-! ## Queries -/

/-- One subscription as READ_STATION reports it: its stream, its state, and its reason when SUSPENDED. -/
def subItems (e : Subscription) : List Item :=
  match e.state with
  | .active => [.bytes 1 e.stream.val, .bytes 1 0]
  | .suspended r => [.bytes 1 e.stream.val, .bytes 1 1, .bytes 1 (reasonCode r)]

/-- The claimant cell and claim deadline in IN_HANDOVER, the linger deadline in LINGERING (R34). -/
def deadlineItems : StationState → List Item
  | .associated => []
  | .inHandover claimant deadline _ => [.bytes 2 claimant.val, itemWord deadline]
  | .lingering deadline _ => [itemWord deadline]

/-- The result of READ_STATION (R34). -/
def stationItems (h : Handle) (st : Station) : List Item :=
  [.bytes 2 h, .wide (st.address.setWidth 64), .bytes 1 (stationStateCode st.state), .bytes 2 st.serving.val,
    .bytes 1 st.sequence.toNat] ++ deadlineItems st.state ++ [.bytes 1 st.level.val, itemOrNone 3 st.ticket] ++
    st.subs.flatMap subItems

/-- READ_STATION (key) (R34). -/
def readStationReply (cmd : Cmd) (s : State) : Reply :=
  if cmd.flag 4 then
    match cmd.address? 2 with
    | none => refuse .badOperand [] s
    | some a =>
      match s.stationByAddress a with
      | none => refuse .unknownStation [] s
      | some (h, st) => ⟨.ok, stationItems h st, s⟩
  else
    match s.asStation (cmd.op 2) with
    | none => refuse .unknownStation [] s
    | some st => ⟨.ok, stationItems (cmd.op 2).toNat st, s⟩

/-- READ_CELL (cell) (R35). -/
def readCellReply (cmd : Cmd) (s : State) : Reply :=
  match s.asCell (cmd.op 2) with
  | none => refuse .badOperand [] s
  | some c =>
    let e := s.rosterEntry c
    ⟨.ok, [itemOrNone 1 ((s.ownerOf (sectorOf c)).map Fin.val), .bytes 1 e.count, .bytes 1 e.pendingIn,
      .bytes 1 (s.venue.cellLimit - (e.count + e.pendingIn)), .bytes 1 e.carriages.length], s⟩

end Sys2Proof.Machine
end

