-- ==== Sys2Proof/Machine/Tickets.lean ====
section
/-! DEFINITION. Tickets and gate zones (chapter 4): loading, admission, exit, voiding, zones and the queries. -/

namespace Sys2Proof.Machine

open Sys2Proof

/-! ## Loading (R57 to R59) -/

/-- The seat that the fields of word 4 give (R57, R167); none when one is out of range. -/
def asSeat (w : Word) : Option Seat :=
  if h : w.toNat / 2 ^ 24 < 32 ∧ w.toNat / 2 ^ 16 % 256 < 128 ∧ w.toNat % 2 ^ 16 < 256 then
    some ⟨⟨w.toNat / 2 ^ 24, h.1⟩, ⟨w.toNat / 2 ^ 16 % 256, h.2.1⟩, ⟨w.toNat % 2 ^ 16, h.2.2⟩⟩
  else none

/-- The ticket that one element of LOAD_TICKETS carries (R57, R59, R167); none when its fields are bad. -/
def asTicket (cmd : Cmd) (k : Nat) : Option Ticket :=
  let w4 := cmd.word k 4
  let w5 := cmd.word k 5
  let hasSeat := w5.getLsbD 0
  match asZone (w5 >>> 24), asTicketClass (w5.toNat / 2 ^ 16 % 256), asSeat w4 with
  | some z, some c, seat =>
    if 3 < w5.toNat / 2 ^ 8 % 256 ∨ (hasSeat ∧ seat = none) then none
    else some
      { number := twoWords (cmd.word k 2) (cmd.word k 3), seat := if hasSeat then seat else none, zone := z
        anyZone := w5.getLsbD 1, cls := c, entry := .issued, reentries := w5.toNat / 2 ^ 8 % 256
        admission := none, station := none }
  | some _, none, _ => none
  | none, _, _ => none

/-- Step 1 of R58: the tickets of the elements from `k` upward, or the index of the first with bad fields. -/
def readTickets (cmd : Cmd) : Nat → Nat → Except Nat (List Ticket)
  | _, 0 => .ok []
  | k, n + 1 =>
    match asTicket cmd k with
    | none => .error k
    | some t =>
      match readTickets cmd (k + 1) n with
      | .error i => .error i
      | .ok ts => .ok (t :: ts)

/-- Step 2 of R58: the result items of the first ticket whose number is in the map or repeats an earlier element's; the
tickets before it are `earlier`, `k` being their count. The failing element's index is the first item, the handle or the
earlier index the second (DESIGN CHOICE, log 38). -/
def findDuplicate (s : State) : Nat → List Ticket → List Ticket → Option (List Item)
  | _, _, [] => none
  | k, earlier, t :: ts =>
    match tableFind s.ticketMap t.number.toNat with
    | some h => some [.bytes 1 k, .bytes 3 h]
    | none =>
      if earlier.any fun e => decide (e.number = t.number) then
        some [.bytes 1 k, .bytes 1 (earlier.takeWhile fun e => decide (e.number ≠ t.number)).length]
      else findDuplicate s (k + 1) (earlier ++ [t]) ts

/-- One ticket loaded under the next handle (R59). -/
def State.loadTicket (s : State) (t : Ticket) : State :=
  { s with tickets := tableStore s.tickets s.loaded t, ticketMap := tableStore s.ticketMap t.number.toNat s.loaded
           loaded := s.loaded + 1 }

/-- LOAD_TICKETS (R57 to R59): the chain is checked whole, then loaded whole or refused whole. In every refusal the failing
index is the first item and what the check reports besides follows it; the number of free records takes the three bytes of
its range of 0–98,304, though a refusal gives only 0–3 (DESIGN CHOICE, log 38). -/
def loadTicketsReply (cmd : Cmd) (s : State) : Reply :=
  match readTickets cmd 0 cmd.elements.length with
  | .error i => refuse .badOperand [.bytes 1 i] s
  | .ok ts =>
    match findDuplicate s 0 [] ts with
    | some items => refuse .duplicate items s
    | none =>
      if 98304 < s.loaded + ts.length then
        refuse .tableFull [.bytes 1 (98304 - s.loaded), .bytes 3 (98304 - s.loaded)] s
      else ⟨.ok, [.bytes 3 s.loaded, .bytes 1 ts.length], ts.foldl State.loadTicket s⟩

/-! ## Zones (R61 to R63) -/

/-- The zone of a gate: the gate div 16 (R63). -/
def zoneOf (g : GateId) : ZoneId :=
  ⟨g.val / 16, by omega⟩

/-- SET_ZONE (zone, state, limit) (R62). -/
def setZoneReply (cmd : Cmd) (s : State) : Reply :=
  match asZone (cmd.op 2), asZoneState (cmd.op 3) with
  | some z, some st =>
    if 65535 < (cmd.op 4).toNat then refuse .badOperand [] s
    else
      let v := s.zone z
      ⟨.ok, [.bytes 1 (zoneStateCode v.state), .bytes 2 v.limit, .bytes 3 v.occupancy, .bytes 3 v.admitted],
        s.setZone z { v with state := st, limit := (cmd.op 4).toNat }⟩
  | some _, none => refuse .badOperand [] s
  | none, _ => refuse .badOperand [] s

/-- The occupancy of a zone lowered by one (R68, R70). -/
def State.leaveZone (s : State) (z : ZoneId) : State :=
  s.setZone z { s.zone z with occupancy := (s.zone z).occupancy - 1 }

/-- The occupancy and the admitted total of a zone raised by one (R65). -/
def State.enterZone (s : State) (z : ZoneId) : State :=
  s.setZone z { s.zone z with occupancy := (s.zone z).occupancy + 1, admitted := (s.zone z).admitted + 1 }

/-- The evaluation of the station bound to a ticket, if there is one (R65, R68). -/
def State.evaluateBound (s : State) (k : Ticket) (tag : Tag) : State :=
  match k.station with
  | none => s
  | some h => s.evaluate h tag

/-- The seat of a ticket in a result, or a none mark: its sector, row and seat in a byte each, and all ones across the three
bytes for a none mark (DESIGN CHOICE, log 42). -/
def seatItems : Option Seat → List Item
  | none => [.bytes 1 255, .bytes 1 255, .bytes 1 255]
  | some q => [.bytes 1 q.sector.val, .bytes 1 q.row.val, .bytes 1 q.seat.val]

/-! ## Admission (R64, R65) -/

/-- The refusal of an ADMIT whose ticket is known: the items of the check, then the ticket's handle and entry state
(R64). -/
def refuseAdmit (st : Status) (items : List Item) (t : TicketHandle) (k : Ticket) (s : State) : Reply :=
  refuse st (items ++ [.bytes 3 t, .bytes 1 (entryStateCode k.entry)]) s

/-- The last gate and admit frame of a ticket. -/
def admissionItems : Option Admission → List Item
  | none => []
  | some a => [.bytes 1 a.gate.val, itemWord a.frame]

/-- A ticket admitted at a gate (R65, steps 1 and 2). -/
def admittedTicket (k : Ticket) (g : GateId) (now : FrameNo) : Ticket :=
  { k with entry := .admitted, reentries := if k.entry = .exited then k.reentries - 1 else k.reentries
           admission := some ⟨zoneOf g, g, now⟩ }

/-- An ADMIT that passes every check (R65). -/
def State.admitAt (s : State) (t : TicketHandle) (k : Ticket) (g : GateId) (tag : Tag) : State :=
  ((s.setTicket t (admittedTicket k g s.clock.frame)).enterZone (zoneOf g)).evaluateBound k tag

/-- Checks 3 to 8 of ADMIT (R64) on the ticket the number names, and the admission. -/
def admitTicketAt (cmd : Cmd) (g : GateId) (t : TicketHandle) (k : Ticket) (s : State) : Reply :=
  let z := s.zone (zoneOf g)
  if z.state ≠ .opened then refuseAdmit .gatesClosed [.bytes 1 (zoneStateCode z.state)] t k s
  else if !(k.anyZone || decide (k.zone = zoneOf g)) then refuseAdmit .wrongZone [.bytes 1 k.zone.val] t k s
  else if k.entry = .voided then refuseAdmit .voided [] t k s
  else if k.entry = .admitted then refuseAdmit .alreadyIn (admissionItems k.admission) t k s
  else if k.entry = .exited ∧ k.reentries = 0 then refuseAdmit .noReentry [] t k s
  else if z.limit ≠ 0 ∧ z.limit ≤ z.occupancy then
    refuseAdmit .zoneFull [.bytes 3 z.occupancy, .bytes 2 z.limit] t k s
  else
    ⟨.ok, [.bytes 3 t, .bytes 1 (ticketClassCode k.cls)] ++ seatItems k.seat ++
      [itemMarks [k.anyZone], .bytes 1 (admittedTicket k g s.clock.frame).reentries, .bytes 1 (zoneOf g).val,
        .bytes 3 (z.occupancy + 1), itemOrNone 2 k.station], s.admitAt t k g cmd.tag⟩

/-- ADMIT (ticket number, gate) (R64, R65). "Every refusal" carries the ticket when its number is known, that of
check 1 included (log 17). -/
def admitTicketReply (cmd : Cmd) (s : State) : Reply :=
  match asGate (cmd.op 4), s.ticketByNumber (cmd.number 2) with
  | none, none => refuse .badOperand [] s
  | none, some (t, k) => refuseAdmit .badOperand [] t k s
  | some _, none => refuse .unknownTicket [] s
  | some g, some (t, k) => admitTicketAt cmd g t k s

/-! ## Exit (R68) -/

/-- The entry zone of a ticket's last admission; that of its own zone for a ticket never admitted, which no ADMITTED
ticket is. -/
def entryZone (k : Ticket) : ZoneId :=
  match k.admission with
  | none => k.zone
  | some a => a.zone

/-- An EXIT that passes every check (R68). -/
def State.exitFrom (s : State) (t : TicketHandle) (k : Ticket) (tag : Tag) : State :=
  ((s.setTicket t { k with entry := .exited }).leaveZone (entryZone k)).evaluateBound k tag

/-- EXIT (ticket number, gate) (R68). -/
def exitTicketReply (cmd : Cmd) (s : State) : Reply :=
  match asGate (cmd.op 4) with
  | none => refuse .badOperand [] s
  | some g =>
    match s.ticketByNumber (cmd.number 2) with
    | none => refuse .unknownTicket [] s
    | some (t, k) =>
      if (s.zone (zoneOf g)).state = .closed then
        refuse .gatesClosed [.bytes 1 (zoneStateCode (s.zone (zoneOf g)).state)] s
      else if k.entry ≠ .admitted then refuse .notAdmitted [.bytes 1 (entryStateCode k.entry)] s
      else
        ⟨.ok, [.bytes 3 t, .bytes 1 (entryZone k).val, .bytes 3 ((s.zone (entryZone k)).occupancy - 1),
          .bytes 1 k.reentries], s.exitFrom t k cmd.tag⟩

/-! ## Voiding (R70) -/

/-- The entries of a list to BASIC and PREMIUM streams. -/
def State.ticketedSubs (s : State) (subs : List Subscription) : List Subscription :=
  subs.filter fun e => decide (s.classOf e.stream ≠ .anyone)

/-- Step 3 of R70: each ticketed entry leaves its carriage if ACTIVE, is taken off the list, and is reported. -/
def State.removeTicketed (s : State) (h : Handle) (tag : Tag) (subs : List Subscription) : State :=
  subs.foldl (fun s e =>
    (s.leaveAndRemove h e.stream tag).notify isReplayPort (.subRemoved h e.stream false) tag) s

/-- Step 1 of R70. -/
def State.markVoid (s : State) (t : TicketHandle) (k : Ticket) : State :=
  let s' := s.setTicket t { k with entry := .voided }
  if k.entry = .admitted then s'.leaveZone (entryZone k) else s'

/-- The list of the station bound to a ticket. -/
def State.boundSubs (s : State) (k : Ticket) : List Subscription :=
  match k.station with
  | none => []
  | some h =>
    match s.station? h with
    | none => []
    | some st => st.subs

/-- A VOID that is not refused (R70). -/
def State.voidRecord (s : State) (t : TicketHandle) (k : Ticket) (tag : Tag) : State :=
  let gone := s.ticketedSubs (s.boundSubs k)
  let s := s.markVoid t k
  match k.station with
  | none => s
  | some h => ((s.clearBinding h t .voiding tag).removeTicketed h tag gone).evaluate h tag

/-- VOID (ticket number) (R70). -/
def voidTicketReply (cmd : Cmd) (s : State) : Reply :=
  match s.ticketByNumber (cmd.number 2) with
  | none => refuse .unknownTicket [] s
  | some (t, k) =>
    if k.entry = .voided then refuse .voided [] s
    else
      ⟨.ok, [.bytes 3 t, .bytes 1 (entryStateCode k.entry), itemOrNone 2 k.station,
        .bytes 1 (s.ticketedSubs (s.boundSubs k)).length], s.voidRecord t k cmd.tag⟩

/-! ## Queries (R72, R73) -/

/-- The entry zone, last gate and admit frame, or a none mark across the three items for a ticket never admitted (R72; DESIGN
CHOICE, log 42). -/
def lastAdmissionItems : Option Admission → List Item
  | none => [.bytes 1 255, .bytes 1 255, .bytes 4 (2 ^ 32 - 1)]
  | some a => [.bytes 1 a.zone.val, .bytes 1 a.gate.val, itemWord a.frame]

/-- The result of READ_TICKET (R72). -/
def ticketItems (t : TicketHandle) (k : Ticket) : List Item :=
  [.bytes 3 t, .wide k.number] ++ seatItems k.seat ++
    [.bytes 1 k.zone.val, itemMarks [k.anyZone], .bytes 1 (ticketClassCode k.cls), .bytes 1 (entryStateCode k.entry),
      .bytes 1 k.reentries] ++ lastAdmissionItems k.admission ++ [itemOrNone 2 k.station]

/-- READ_TICKET (key) (R72). -/
def readTicketReply (cmd : Cmd) (s : State) : Reply :=
  if cmd.flag 4 then
    match s.ticketByNumber (cmd.number 2) with
    | none => refuse .unknownTicket [] s
    | some (t, k) => ⟨.ok, ticketItems t k, s⟩
  else if s.loaded ≤ (cmd.op 2).toNat then refuse .unknownTicket [] s
  else
    match s.ticket? (cmd.op 2).toNat with
    | none => refuse .unknownTicket [] s
    | some k => ⟨.ok, ticketItems (cmd.op 2).toNat k, s⟩

/-- READ_ZONE (zone) (R73). -/
def readZoneReply (cmd : Cmd) (s : State) : Reply :=
  match asZone (cmd.op 2) with
  | none => refuse .badOperand [] s
  | some z =>
    let v := s.zone z
    ⟨.ok, [.bytes 1 (zoneStateCode v.state), .bytes 2 v.limit, .bytes 3 v.occupancy, .bytes 3 v.admitted,
      .bytes 3 s.loaded], s⟩

end Sys2Proof.Machine
end

