-- ==== Sys2Proof/Machine/Bindings.lean ====
section
/-! DEFINITION. The binding of a station and a ticket (chapter 6): BIND and UNBIND. -/

namespace Sys2Proof.Machine

open Sys2Proof

/-- A binding made on both sides, and the station's list evaluated (R94). -/
def State.makeBinding (s : State) (h : Handle) (t : TicketHandle) (tag : Tag) : State :=
  let s := match s.station? h with
    | none => s
    | some st => s.setStation h { st with ticket := some t }
  let s := match s.ticket? t with
    | none => s
    | some k => s.setTicket t { k with station := some h }
  s.evaluate h tag

/-- The ticket's earlier station unbound and evaluated, and the new binding made and evaluated (R95). -/
def State.moveBinding (s : State) (earlier h : Handle) (t : TicketHandle) (tag : Tag) : State :=
  ((s.clearBinding earlier t .move tag).evaluate earlier tag).makeBinding h t tag

/-- The result of BIND (R94, R95): station, ticket, class, seat sector, ACTIVE entries, earlier station, and the
"already bound" mark (log 15). -/
def bindItems (h : Handle) (t : TicketHandle) (k : Ticket) (active : Nat) (earlier : Option Handle) (again : Bool) :
    List Item :=
  [.bytes 2 h, .bytes 3 t, .bytes 1 (ticketClassCode k.cls), itemOrNone 1 (k.seat.map fun q => q.sector.val),
    .bytes 1 active, itemOrNone 2 earlier, itemMarks [again]]

/-- Checks 3 to 6 of BIND (R93) and its outcomes (R94, R95). -/
def bindTicketTo (cmd : Cmd) (h : Handle) (st : Station) (t : TicketHandle) (k : Ticket) (s : State) : Reply :=
  if k.entry ≠ .admitted then refuse .notAdmitted [.bytes 1 (entryStateCode k.entry)] s
  else if k.station = some h then
    let s' := s.evaluate h cmd.tag
    ⟨.ok, bindItems h t k (s'.activeOf h) none true, s'⟩
  else
    match st.ticket with
    | some other => refuse .stationBound [.bytes 3 other] s
    | none =>
      match k.station with
      | none =>
        let s' := s.makeBinding h t cmd.tag
        ⟨.ok, bindItems h t k (s'.activeOf h) none false, s'⟩
      | some earlier =>
        if cmd.flag 5 then
          let s' := s.moveBinding earlier h t cmd.tag
          ⟨.ok, bindItems h t k (s'.activeOf h) (some earlier) false, s'⟩
        else refuse .boundElsewhere [.bytes 2 earlier] s

/-- BIND (handle, ticket number, move flag) (R93). -/
def bindTicketReply (cmd : Cmd) (s : State) : Reply :=
  match s.asStation (cmd.op 2) with
  | none => refuse .unknownStation [] s
  | some st =>
    match s.ticketByNumber (cmd.number 3) with
    | none => refuse .unknownTicket [] s
    | some (t, k) => bindTicketTo cmd (cmd.op 2).toNat st t k s

/-- UNBIND (ticket number) (R96). -/
def unbindTicketReply (cmd : Cmd) (s : State) : Reply :=
  match s.ticketByNumber (cmd.number 2) with
  | none => refuse .unknownTicket [] s
  | some (t, k) =>
    match k.station with
    | none => ⟨.ok, [itemOrNone 2 none], s⟩
    | some h =>
      let s' := (s.clearBinding h t .unbind cmd.tag).evaluate h cmd.tag
      ⟨.ok, [.bytes 2 h, .bytes 1 (s'.activeOf h)], s'⟩

end Sys2Proof.Machine
end

