-- ==== Sys2Proof/Machine/Airtime.lean ====
section
/-! DEFINITION. The airtime arithmetic (chapter 8): frame terms, grants, charges, and the plan of a cell; and the
adjustment of a held plan (R145). -/

namespace Sys2Proof.Machine

open Sys2Proof

/-- C, the CONTROL run of a frame: 8 in a beacon frame, a multiple of 16, and 4 otherwise (R125). -/
def controlRun (f : FrameNo) : Nat :=
  if f.toNat % 16 = 0 then 8 else 4

/-- Q, the contested pool: 80 − C − T (R125). -/
def pool (control ticket : Nat) : Nat :=
  80 - control - ticket

/-- The need: D minus the balance (R127). -/
def need (demand : Nat) (balance : Int) : Int :=
  (demand : Int) - balance

/-- The want: 0 when the need is 0 or less, otherwise the need divided by P, rounded up (R127). -/
def want (demand pay : Nat) (balance : Int) : Nat :=
  ceilDiv (need demand balance).toNat pay

/-- The grant: the smallest of the want, 32, and the remainder (R127). -/
def grantOf (w remainder : Nat) : Nat :=
  min w (min 32 remainder)

/-- What a charge reports (R128, R129). -/
inductive ChargeEvent where
  | starved
  | recovered
  deriving DecidableEq, Repr

/-- The outcome of a charge. -/
structure Charge where
  balance : Int
  starved : Bool
  event : Option ChargeEvent
  deriving DecidableEq, Repr

/-- A charge with `g` slots: the balance becomes the old one plus g × P minus D, clamped at −4D with the starved flag
set (R128); a starved carriage whose new balance is 0 or more recovers (R129). -/
def charge (balance : Int) (starved : Bool) (g pay demand : Nat) : Charge :=
  let b := balance + (g * pay : Nat) - (demand : Int)
  let floor := -4 * (demand : Int)
  if b < floor then ⟨floor, true, if starved then none else some .starved⟩
  else if starved ∧ 0 ≤ b then ⟨b, false, some .recovered⟩
  else ⟨b, starved, none⟩

/-- The rate of a stream, as STARVED and RECOVERED carry it (R168). -/
def State.rateOf (s : State) (x : StreamId) : Nat :=
  match streamInfo? (s.stream x).state with
  | none => 0
  | some i => i.rate

/-- The want of a carriage as its record and its stream stand. -/
def State.wantOf (s : State) (x : StreamId) (k : Carriage) : Nat :=
  want (s.demand x) (payload k.minLevel) k.balance

/-- A MULTICAST carriage charged with `g` and written back with its last grant, with the notice of the charge carrying
the frame `f` and tag 0 (R128 to R130, R134, R146). -/
def State.chargeCarriage (s : State) (c : CellId) (x : StreamId) (k : Carriage) (g : Nat) (f : FrameNo) : State :=
  let r := charge k.balance k.starved g (payload k.minLevel) (s.demand x)
  let w := s.wantOf x k
  let s := s.setCarriage c x { k with balance := r.balance, starved := r.starved, lastGrant := g }
  match r.event with
  | none => s
  | some .starved => s.notifyAt (toReplayAndOwner c) (.starved c x k.minLevel g w (s.rateOf x)) 0 f
  | some .recovered => s.notifyAt (toReplayAndOwner c) (.recovered c x k.minLevel g r.balance (s.rateOf x)) 0 f

/-- A UNICAST or HELD carriage written back with last grant 0 (R134, R146). -/
def State.clearGrant (s : State) (c : CellId) (x : StreamId) (k : Carriage) : State :=
  s.setCarriage c x { k with lastGrant := 0 }

/-- The building of one cell in progress: what is left of the cap, the REPLAY runs granted so far, and the state. -/
structure Building where
  remainder : Nat
  runs : List ReplayRun
  state : State

/-- The grant, charge and run of the next carriage on the list (R127, R128, R133, R134). -/
def grantNext (c : CellId) (f : FrameNo) (b : Building) (x : StreamId) : Building :=
  match b.state.carriage? c x with
  | none => b
  | some k =>
    if k.mode = .multicast then
      let g := grantOf (b.state.wantOf x k) b.remainder
      { remainder := b.remainder - g
        runs := if g = 0 then b.runs else b.runs ++ [⟨x, k.minLevel, g⟩]
        state := b.state.chargeCarriage c x k g f }
    else { b with state := b.state.clearGrant c x k }

/-- The sum of the slots of REPLAY runs. -/
def slotSum (runs : List ReplayRun) : Nat :=
  runs.foldl (fun n r => n + r.slots) 0

/-- The build of one cell for frame `f` (R124 to R134): the plan in the Plan Window, held mark clear. -/
def State.buildCell (f : FrameNo) (s : State) (c : CellId) : State :=
  let control := controlRun f
  let ticket := (s.sector (sectorOf c)).reservation
  let q := pool control ticket
  let b := (s.rosterEntry c).carriages.foldl (grantNext c f) ⟨capOf q (s.prioritised (sectorOf c)), [], s⟩
  b.state.setPlan c ⟨⟨control, ticket, b.runs, q - slotSum b.runs⟩, some f, false⟩

/-! ## Held plans (R145, R146) -/

/-- `n` slots taken from REPLAY runs given last in grant order first; a run reduced to 0 is removed. -/
def takeFromRuns : Nat → List ReplayRun → List ReplayRun
  | _, [] => []
  | n, r :: t =>
    if n < r.slots then { r with slots := r.slots - n } :: t else takeFromRuns (n - r.slots) t

/-- `n` slots taken from the REPLAY runs of a plan, last in grant order first (R145). The order is that of the held plan's
runs, which is the grant order of the build they come from, also where a stream has since been reopened at another priority
(DESIGN CHOICE, log 40). -/
def takeFromEnd (n : Nat) (runs : List ReplayRun) : List ReplayRun :=
  (takeFromRuns n runs.reverse).reverse

/-- Steps 1 and 2 of R145 on one run: none when its carriage is not on the list as MULTICAST or wants no slot, otherwise
the run reduced to its carriage's want, at the carriage's min level. The test is the mode as it stands at the hold: a run whose
carriage has left MULTICAST, or the table, since the build and has been admitted anew is kept as the new one's (DESIGN CHOICE,
log 41). -/
def State.trimRun (s : State) (c : CellId) (r : ReplayRun) : Option ReplayRun :=
  match s.carriage? c r.stream with
  | none => none
  | some k =>
    if k.mode = .multicast then
      let n := min r.slots (s.wantOf r.stream k)
      if n = 0 then none else some ⟨r.stream, k.minLevel, n⟩
    else none

/-- Step 3 of R145: the CONTROL run becomes `control`; added slots come from GENERAL as far as it reaches and then from
the REPLAY runs, and slots given up go to GENERAL. -/
def setControl (control : Nat) (p : Plan) : Plan :=
  if control ≤ p.control then { p with control := control, general := p.general + (p.control - control) }
  else
    let more := control - p.control
    { p with control := control, general := p.general - more, replays := takeFromEnd (more - p.general) p.replays }

/-- Step 4 of R145: REPLAY slots above the cap go to GENERAL, last in grant order first. -/
def applyCap (cap : Nat) (p : Plan) : Plan :=
  let excess := slotSum p.replays - cap
  if excess = 0 then p
  else { p with replays := takeFromEnd excess p.replays, general := p.general + excess }

/-- The plan of a cell adjusted to frame `f` (R145). -/
def State.heldPlan (s : State) (f : FrameNo) (c : CellId) (p : Plan) : Plan :=
  let runs := p.replays.filterMap (s.trimRun c)
  let trimmed := { p with replays := runs, general := p.general + (slotSum p.replays - slotSum runs) }
  applyCap (capOf (pool (controlRun f) p.ticket) (s.prioritised (sectorOf c))) (setControl (controlRun f) trimmed)

/-- The slots of a stream's REPLAY run in a plan, or 0 (R146). -/
def slotsOf (runs : List ReplayRun) (x : StreamId) : Nat :=
  match runs.find? fun r => decide (r.stream = x) with
  | none => 0
  | some r => r.slots

/-- The charge of one carriage of a held cell with the slots of its run (R146). -/
def chargeHeld (c : CellId) (f : FrameNo) (runs : List ReplayRun) (s : State) (x : StreamId) : State :=
  match s.carriage? c x with
  | none => s
  | some k => if k.mode = .multicast then s.chargeCarriage c x k (slotsOf runs x) f else s.clearGrant c x k

/-- A cell held for frame `f` (R145, R146). -/
def State.holdCell (f : FrameNo) (s : State) (c : CellId) : State :=
  let p := s.heldPlan f c (s.planEntry c).plan
  let s := s.setPlan c ⟨p, some f, true⟩
  (s.rosterEntry c).carriages.foldl (chargeHeld c f p.replays) s

/-! ## Plans as lists of runs (R133, R169) -/

/-- The word of a run: class in bits 31–30, slots in bits 22–16, and for a REPLAY run the stream in bits 11–8 and the
min level in bits 2–0 (R169). -/
def runWord (cls slots stream level : Nat) : Word :=
  BitVec.ofNat 32 (cls * 2 ^ 30 + slots * 2 ^ 16 + stream * 2 ^ 8 + level)

/-- The run words of a plan, in plan order; TICKET and GENERAL runs of 0 slots are omitted (R133). -/
def runWords (p : Plan) : List Word :=
  [runWord 0 p.control 0 0] ++ (if p.ticket = 0 then [] else [runWord 1 p.ticket 0 0]) ++
    p.replays.map (fun r => runWord 2 r.slots r.stream.val r.level.val) ++
    (if p.general = 0 then [] else [runWord 3 p.general 0 0])

/-- The slots of a whole plan (R133). -/
def planTotal (p : Plan) : Nat :=
  p.control + p.ticket + slotSum p.replays + p.general

/-- Word `j` of a plan entry (R169). -/
def planWord (e : PlanEntry) (j : Nat) : Word :=
  match j with
  | 0 => e.frame.getD 0
  | 1 =>
    BitVec.ofNat 32 (bit e.frame.isSome * 2 ^ 31 + bit e.held * 2 ^ 30 + (runWords e.plan).length % 32)
  | k + 2 => if k < 19 then (runWords e.plan).getD k 0 else 0

end Sys2Proof.Machine
end

