-- ==== Sys2Proof/Machine/Bus.lean ====
section
/-! DEFINITION. The Coordination Bus (chapter 10): arbitration, transfers and the port window, faults and quarantine,
port RESET, and the writes of the index and attention words. -/

namespace Sys2Proof.Machine

open Sys2Proof

/-! ## Arbitration (R150, R151) -/

def State.setArbiter (s : State) (a : Arbiter) : State :=
  { s with arbiter := a }

/-- The rotation: last holder + 1, + 2, + 3, then the last holder itself (R150). -/
def rotation (last : PortId) : List PortId :=
  [last + 1, last + 2, last + 3, last]

/-- The first requesting port in rotation order (R150). -/
def firstRequesting (last : PortId) (lines : BitVec 4) : Option PortId :=
  (rotation last).find? fun p => lines.getLsbD p.val

/-- The arbiter with the REQ lines sampled, and a grant made when there is no holder and no outstanding grant (R150). -/
def grantNextPort (a : Arbiter) (lines : BitVec 4) : Arbiter :=
  let a := { a with request := lines }
  if a.holder = none ∧ a.grant = none then { a with grant := firstRequesting a.lastHolder lines } else a

/-- BUS_GRANT (R150). -/
def State.grantBus (s : State) (lines : BitVec 4) : State :=
  s.setArbiter (grantNextPort s.arbiter lines)

/-- ACKNOWLEDGE_RAISED (R151): the granted port becomes the holder and the last holder; without an outstanding grant to
the port it is ignored. -/
def State.raiseAcknowledge (s : State) (p : PortId) : State :=
  if s.arbiter.grant = some p then
    s.setArbiter { s.arbiter with holder := some p, grant := none, lastHolder := p }
  else s

/-- GRANT_WITHDRAWN (R151): the granted port drops its request, and the grant is withdrawn; the last holder is
unchanged. The arbiter grants again by an event of its own (log 24). -/
def State.withdrawGrant (s : State) (p : PortId) : State :=
  if s.arbiter.grant = some p then
    s.setArbiter { s.arbiter with grant := none, request := s.arbiter.request &&& ~~~(1#4 <<< p.val) }
  else s

/-- ACKNOWLEDGE_DROPPED (R151): the holder drops its acknowledge and the bus is free. -/
def State.dropAcknowledge (s : State) (p : PortId) : State :=
  if s.arbiter.holder = some p then s.setArbiter { s.arbiter with holder := none } else s

/-! ## The address map (R153) -/

/-- What a word of the address space is, to the port that addresses it. -/
inductive Target where
  | ring (k : Nat)
  | queue (k : Nat)
  | producer
  | consumer
  | head
  | tail
  | request
  | enable
  | control
  /-- Word `w` of the Plan Window. -/
  | plan (w : Nat)
  /-- An unused word of the own window, another port's window, or outside every window. -/
  | nothing
  deriving DecidableEq, Repr

/-- A word offset in the own port window (R153); byte offsets divided by 4. -/
def windowTarget (o : Nat) : Target :=
  if o < 0x400 then .ring o
  else if o < 0x600 then .queue (o - 0x400)
  else if o = 0x600 then .producer
  else if o = 0x601 then .consumer
  else if o = 0x602 then .head
  else if o = 0x603 then .tail
  else if o = 0x604 then .request
  else if o = 0x605 then .enable
  else if o = 0x606 then .control
  else .nothing

/-- The word number at which the window of port `p` begins: p × 4000H (R153). -/
def windowBase (p : PortId) : Nat :=
  0x1000 * p.val

/-- What port `p` addresses by a word number (R153). -/
def target (p : PortId) (a : WordAddr) : Target :=
  if windowBase p ≤ a.toNat ∧ a.toNat < windowBase p + 0x1000 then windowTarget (a.toNat - windowBase p)
  else if 0x4000 ≤ a.toNat ∧ a.toNat < 0xC000 then .plan (a.toNat - 0x4000)
  else .nothing

/-- The word number of an offset in a port's own window. -/
def ownWord (p : PortId) (o : Nat) : WordAddr :=
  BitVec.ofNat 22 (windowBase p + o)

/-- The word number of word `w` of the Plan Window. -/
def planWordAddr (w : BitVec 15) : WordAddr :=
  BitVec.ofNat 22 (0x4000 + w.toNat)

/-! ## Faults and quarantine (R158, R159) -/

def State.setAnswer (s : State) (a : BusAnswer) : State :=
  { s with answer := some a }

/-- A transfer of port `p` answered ERROR (R158): of an ACTIVE port it is a bus fault, which writes a FAULT notice and
sets the FAULT request, or quarantines the port when FAULT is already set; of a QUARANTINED port it changes nothing. -/
def State.busError (s : State) (p : PortId) (a : WordAddr) (write : Bool) : State :=
  let s := s.setAnswer .error
  let u := s.port p
  if u.state = .quarantined then s
  else if u.request &&& faultBit = 0 then
    let n := Notice.fault a write
    s.setPort p (raise faultBit (deliver (noticeKind n) (noticeRecord n 0 s.clock.frame s.clock.frame) s.clock.frame u))
  else s.setPort p { u with state := .quarantined }

/-! ## Reads (R152, R153, R169, R170) -/

/-- The port control word as it reads (R170). -/
def controlWord (u : PortUnit) (d : DeviceState) : Word :=
  let (first, last) := match u.role with
    | .cell a b => (a.val, b.val)
    | .none => (0, 0)
    | .gate => (0, 0)
    | .replay => (0, 0)
  BitVec.ofNat 32 (deviceStateCode d * 2 ^ 28 + portStateCode u.state * 2 ^ 24 + roleCode u.role * 2 ^ 16 +
    first * 2 ^ 8 + last)

/-- The cell to whose entry a word of the Plan Window belongs: the entry of every cell c begins at word 32 × c (R169, R140).
R153 gives that address too, and says beside it that the words 20000H–2FFFFH belong to no entry; the formula is followed (DESIGN
CHOICE, log 11). -/
def planCell (w : Nat) : Option CellId :=
  if h : w / 32 < 1024 then some ⟨w / 32, h⟩ else none

/-- The answer to a read of a Plan Window word (R141). -/
def State.readPlan (s : State) (w : Nat) : BusAnswer :=
  match planCell w with
  | none => .ackRead 0
  | some c =>
    if s.inVenue c ∧ (s.sector (sectorOf c)).planState = .rewriting then .retry
    else .ackRead (planWord (s.planEntry c) (w % 32))

/-- The word that a read of the own window or of the Plan Window answers; none where it is ERROR (R152, R153). -/
def State.readTarget (s : State) (u : PortUnit) : Target → Option BusAnswer
  | .ring k => some (.ackRead (loadWord u.ring k))
  | .queue k => some (.ackRead (loadWord u.queue k))
  | .producer => some (.ackRead (u.producer.setWidth 32))
  | .consumer => some (.ackRead (u.consumer.setWidth 32))
  | .head => some (.ackRead (u.head.setWidth 32))
  | .tail => some (.ackRead (u.tail.setWidth 32))
  | .request => some (.ackRead (u.request.setWidth 32))
  | .enable => some (.ackRead (u.enable.setWidth 32))
  | .control => some (.ackRead (controlWord u s.device))
  | .plan w => some (s.readPlan w)
  | .nothing => none

/-- Whether a QUARANTINED port may make the transfer: only to its own port control word (R159). -/
def barred (u : PortUnit) (t : Target) : Bool :=
  decide (u.state = .quarantined) && decide (t ≠ .control)

/-- A word read by the holder (R152); a port that does not hold the bus makes no transfer (log 24). -/
def State.busRead (s : State) (p : PortId) (a : WordAddr) : State :=
  if s.arbiter.holder = some p then
    if barred (s.port p) (target p a) then s.busError p a false
    else
      match s.readTarget (s.port p) (target p a) with
      | none => s.busError p a false
      | some ans => s.setAnswer ans
  else s

/-! ## Writes (R152, R154, R160, R162, R165) -/

/-- Whether an element is posted: it lies from the consumer index up to one before the producer index (R154). -/
def isPosted (u : PortUnit) (e : Nat) : Bool :=
  decide ((e + 64 - elementIndex u.consumer) % 64 < posted u)

/-- Whether a write of the producer index is accepted (R154): the value is at most 127, the new posted count at most 63
and not below the present one. -/
def producerOk (u : PortUnit) (v : Word) : Bool :=
  decide (v.toNat ≤ 127) && decide ((v.setWidth 7 - u.consumer).toNat ≤ 63) &&
    decide (posted u ≤ (v.setWidth 7 - u.consumer).toNat)

/-- A write of the notice head index (R162): bits 7–0 are a new head; when it would free more than is held, every held
entry is freed. -/
def writeHead (u : PortUnit) (v : Word) : PortUnit :=
  let h := v.setWidth 8
  if (h - u.head).toNat ≤ heldNotices u then { u with head := h } else { u with head := u.tail }

/-- A port RESET (R160). -/
def resetPort (u : PortUnit) : PortUnit :=
  { u with state := .active, producer := 0, consumer := 0, head := 0, tail := 0, request := 0, enable := 0
           overlong := none }

/-- The port after a write to a word of its window; none where the write is answered ERROR (R152, R153). -/
def writeTarget (u : PortUnit) (t : Target) (v : Word) : Option PortUnit :=
  match t with
  | .ring k => if isPosted u (k / 16) then none else some { u with ring := storeWord u.ring k v }
  | .queue _ => some u
  | .producer => if producerOk u v then some { u with producer := v.setWidth 7 } else none
  | .consumer => none
  | .head => some (writeHead u v)
  | .tail => none
  | .request => some { u with request := attentionWrite u.request v }
  | .enable => some { u with enable := attentionWrite u.enable v }
  | .control => some (if v.getLsbD 31 then resetPort u else u)
  | .plan _ => none
  | .nothing => none

/-- A word write by the holder (R152); a port that does not hold the bus makes no transfer (log 24). -/
def State.busWrite (s : State) (p : PortId) (a : WordAddr) (v : Word) : State :=
  if s.arbiter.holder = some p then
    if barred (s.port p) (target p a) then s.busError p a true
    else
      match writeTarget (s.port p) (target p a) v with
      | none => s.busError p a true
      | some u => (s.setPort p u).setAnswer .ackWrite
  else s

/-- A write value in its set form: bit 31 set over 31 bits (R165). -/
def setForm (bits : BitVec 31) : Word :=
  (1#1 ++ bits).setWidth 32

/-- A write value in its clear form: bit 31 clear over 31 bits (R165). -/
def clearForm (bits : BitVec 31) : Word :=
  (0#1 ++ bits).setWidth 32

end Sys2Proof.Machine
end

