-- ==== Sys2Proof/Machine/PlanEngine.lean ====
section
/-! DEFINITION. The Plan Engine (chapter 9): sector policies, planning passes, builds, and overruns. -/

namespace Sys2Proof.Machine

open Sys2Proof

/-! ## Sector policies (R139) -/

/-- The lowest matching sector that another port than `p` owns, or that no port owns. -/
def State.foreignSector (s : State) (p : PortId) (value mask : SectorId) : Option SectorId :=
  (s.sectorsUsed.filter (scopeMatches value mask)).find? fun sec => !ownsSector (s.port p) sec

/-- T and the priority of the given sectors replaced. -/
def State.setPolicies (s : State) (secs : List SectorId) (t : Nat) (pr : Priority) : State :=
  secs.foldl (fun s sec => s.setSector sec { s.sector sec with reservation := t, priority := pr }) s

/-- T and the priority that the lowest changed sector held before. -/
def State.policyBefore (s : State) (secs : List SectorId) : List Item :=
  match secs with
  | [] => []
  | sec :: _ => [.bytes 1 (s.sector sec).reservation, .bytes 1 (priorityCode (s.sector sec).priority)]

/-- SET_SECTOR_POLICY (value, mask, T, priority) (R139). -/
def setSectorPolicyReply (p : PortId) (cmd : Cmd) (s : State) : Reply :=
  match asSector (cmd.op 2), asSector (cmd.op 3), asPriority (cmd.op 5) with
  | some value, some mask, some pr =>
    match s.foreignSector p value mask with
    | some sec => refuse .notOwner [.bytes 1 sec.val] s
    | none =>
      let secs := s.sectorsUsed.filter (scopeMatches value mask)
      ⟨.ok, [.bytes 1 secs.length, .bytes 1 (asReservation (cmd.op 4)), itemMarks [reservationClamped (cmd.op 4)]] ++
        s.policyBefore secs, s.setPolicies secs (asReservation (cmd.op 4)) pr⟩
  | some _, some _, none => refuse .badOperand [] s
  | some _, none, _ => refuse .badOperand [] s
  | none, _, _ => refuse .badOperand [] s

/-! ## Passes (R142) -/

/-- The sector after one in ascending order, wrapping to 0 after the highest sector in use (R142). -/
def State.sectorAfter (s : State) (sec : SectorId) : SectorId :=
  if h : sec.val + 1 < 32 then (if sec.val + 1 < s.venue.sectorsInUse then ⟨sec.val + 1, h⟩ else 0) else 0

/-- The sectors in use in the order of a pass that begins with `first` (R142). -/
def State.passOrder (s : State) (first : SectorId) : List SectorId :=
  (s.sectorsUsed.filter fun sec => decide (first ≤ sec)) ++ (s.sectorsUsed.filter fun sec => decide (sec < first))

/-- The build of the next sector of a pass starts: it becomes REWRITING (R142). -/
def State.startBuild (s : State) (f : FrameNo) (order : List SectorId) : State :=
  match order with
  | [] => { s with pass := none }
  | sec :: rest =>
    let s := s.setSector sec { s.sector sec with planState := .rewriting }
    { s with pass := some ⟨f, sec, rest⟩ }

/-- The pass that builds frame `f` begins, with the start sector (R142). -/
def State.beginPass (s : State) (f : FrameNo) : State :=
  s.startBuild f (s.passOrder s.startSector)

/-- The completion of the build of one sector for frame `f` (R142): its cells in the venue are built in ascending
order, it becomes STABLE with the built-for frame, and the start sector moves past it. -/
def State.completeBuild (s : State) (f : FrameNo) (sec : SectorId) : State :=
  let s := (s.cellsOf sec).foldl (State.buildCell f) s
  let s := s.setSector sec { s.sector sec with planState := .stable, builtFor := some f }
  { s with startSector := s.sectorAfter sec }

/-- The sector being built completes, and the next build starts or the pass ends (R142); nothing when no pass is running
(log 2). -/
def State.finishBuild (s : State) : State :=
  match s.pass with
  | none => s
  | some pass => (s.completeBuild pass.frame pass.building).startBuild pass.frame pass.rest

/-! ## Overrun (R144 to R147) -/

/-- A sector held for frame `f` (R145, R146): it stays STABLE, and its built-for frame becomes `f`. -/
def State.holdSector (f : FrameNo) (s : State) (sec : SectorId) : State :=
  let s := (s.cellsOf sec).foldl (State.holdCell f) s
  s.setSector sec { s.sector sec with builtFor := some f }

/-- A boundary that ends a running pass (R144, steps 1 to 3): the sector being built completes at once, the sectors not
built are held, and OVERRUN is written when there is one. -/
def State.endPass (s : State) (pass : Pass) : State :=
  let s := s.completeBuild pass.frame pass.building
  match pass.rest with
  | [] => s
  | first :: _ =>
    (pass.rest.foldl (State.holdSector pass.frame) s).notifyAt isCellPort
      (.overrun pass.rest.length first pass.building) 0 pass.frame

/-- The Plan Engine's act at the boundary that has brought the counter to its present value (R142, R144): a pass still
running is ended, and the pass that builds the following frame begins. -/
def State.planBoundary (s : State) : State :=
  match s.pass with
  | none => s.beginPass (s.clock.frame + 1)
  | some pass => (s.endPass pass).beginPass (s.clock.frame + 1)

end Sys2Proof.Machine
end

