-- ==== Sys2Proof/Machine/Streams.lean ====
section
/-! DEFINITION. Replay streams and subscriptions (chapter 5): the stream commands, the drain, and the subscription
commands. -/

namespace Sys2Proof.Machine

open Sys2Proof

/-! ## Stream commands -/

/-- OPEN_STREAM (stream, rate, priority, class, seat-bound) (R78). -/
def openStreamReply (p : PortId) (cmd : Cmd) (s : State) : Reply :=
  match asStream (cmd.op 2), asStreamPriority (cmd.op 4), asStreamClass (cmd.op 5) with
  | some x, some pr, some c =>
    match (s.stream x).state with
    | .idle =>
      let info : StreamInfo :=
        { rate := asRate (cmd.op 3), priority := pr, cls := c, seatBound := cmd.flag 6, port := p
          openFrame := s.clock.frame }
      ⟨.ok, [.bytes 2 (asRate (cmd.op 3)), .bytes 2 (16 * asRate (cmd.op 3)), itemMarks [rateClamped (cmd.op 3)]],
        s.setStream x { s.stream x with state := .live info }⟩
    | .live i => refuse .streamBusy [.bytes 1 (streamStateCode (.live i))] s
    | .draining i t f => refuse .streamBusy [.bytes 1 (streamStateCode (.draining i t f))] s
  | some _, some _, none => refuse .badOperand [] s
  | some _, none, _ => refuse .badOperand [] s
  | none, _, _ => refuse .badOperand [] s

/-- The cells with a carriage of a stream, in ascending order. -/
def State.cellsWith (s : State) (x : StreamId) : List CellId :=
  s.carriages.filterMap fun e =>
    if h : e.1 / 16 < 1024 then (if e.1 % 16 = x.val then some ⟨e.1 / 16, h⟩ else none) else none

/-- Step 1 of R80 on one carriage: a MULTICAST balance below −4D raised to it. -/
def raiseBalance (k : Carriage) (demand : Nat) : Carriage :=
  if k.mode = .multicast ∧ k.balance < -4 * (demand : Int) then { k with balance := -4 * (demand : Int) } else k

/-- Whether step 1 of R80 changes a carriage. -/
def raisesBalance (k : Carriage) (demand : Nat) : Bool :=
  decide (k.mode = .multicast) && decide (k.balance < -4 * (demand : Int))

/-- The mode of a carriage; none when it is absent. -/
def State.modeAt (s : State) (c : CellId) (x : StreamId) : Option Mode :=
  (s.carriage? c x).map (·.mode)

/-- What a rate change does to the carriages, with the number of balances clamped and of modes changed (R79, R80). -/
structure RateChange where
  state : State
  clamped : Nat
  changed : Nat

/-- The two steps of R80 on the carriage of one cell. -/
def adjustCarriage (x : StreamId) (tag : Tag) (r : RateChange) (c : CellId) : RateChange :=
  match r.state.carriage? c x with
  | none => r
  | some k =>
    let d := r.state.demand x
    let s := (r.state.setCarriage c x (raiseBalance k d)).evalMode c x tag
    { state := s, clamped := r.clamped + bit (raisesBalance k d)
      changed := r.changed + bit (decide (s.modeAt c x ≠ some k.mode)) }

/-- The carriages of a stream brought in line with its D, in ascending order of cell (R80). -/
def State.adjustCarriages (s : State) (x : StreamId) (tag : Tag) : RateChange :=
  (s.cellsWith x).foldl (adjustCarriage x tag) ⟨s, 0, 0⟩

/-- SET_STREAM_RATE (stream, rate) (R79, R80). -/
def setStreamRateReply (cmd : Cmd) (s : State) : Reply :=
  match asStream (cmd.op 2) with
  | none => refuse .badOperand [] s
  | some x =>
    match (s.stream x).state with
    | .idle => refuse .streamClosed [.bytes 1 (streamStateCode .idle)] s
    | .draining i t f => refuse .streamClosed [.bytes 1 (streamStateCode (.draining i t f))] s
    | .live i =>
      let rate := asRate (cmd.op 3)
      let r := (s.setStream x { s.stream x with state := .live { i with rate := rate } }).adjustCarriages x cmd.tag
      ⟨.ok, [.bytes 2 i.rate, .bytes 2 rate, itemMarks [rateClamped (cmd.op 3)], .bytes 2 (16 * rate),
        .bytes 2 r.clamped, .bytes 2 r.changed], r.state⟩

/-- CLOSE_STREAM (stream) (R81). -/
def closeStreamReply (cmd : Cmd) (s : State) : Reply :=
  match asStream (cmd.op 2) with
  | none => refuse .badOperand [] s
  | some x =>
    match (s.stream x).state with
    | .idle => refuse .streamClosed [.bytes 1 (streamStateCode .idle)] s
    | .draining i t f => refuse .streamClosed [.bytes 1 (streamStateCode (.draining i t f))] s
    | .live i =>
      ⟨.ok, [itemWord s.clock.frame, .bytes 3 (s.stream x).subscribers, .bytes 2 (s.stream x).carriages],
        s.setStream x { s.stream x with state := .draining i cmd.tag s.clock.frame }⟩

/-! ## The drain (R83) -/

/-- The handles of the stations holding a subscription to a stream, in ascending order. -/
def State.holders (s : State) (x : StreamId) : List Handle :=
  (s.stations.filter fun e => (findSub e.2.subs x).isSome).map (·.1)

/-- The drain of one stream (R83): its subscriptions and carriages are removed, the record becomes IDLE, and
STREAM_ENDED is written with the close tag. -/
def State.drainStream (s : State) (x : StreamId) (closeTag : Tag) : State :=
  let hs := s.holders x
  let cs := s.cellsWith x
  let s := hs.foldl (fun s h => s.removeSub h x) s
  let s := cs.foldl (fun s c => s.dropCarriage c x) s
  let s := s.setStream x { s.stream x with state := .idle, subscribers := 0, carriages := 0 }
  s.notify isReplayPort (.streamEnded hs.length cs.length x) closeTag

/-- A drain is due from the boundary after the close on: the counter has left the close frame (R83). -/
def drainDue (now : FrameNo) : StreamState → Bool
  | .idle => false
  | .live _ => false
  | .draining _ _ f => decide (f ≠ now)

def allStreams : List StreamId := [0, 1, 2, 3, 4, 5, 6, 7, 8, 9, 10, 11, 12, 13, 14, 15]

/-- The streams whose drain is due, in ascending order. -/
def State.drainsDue (s : State) : List StreamId :=
  allStreams.filter fun x => drainDue s.clock.frame (s.stream x).state

/-- The drain of a stream in DRAINING completed under its close tag (R83). -/
def State.completeDrain (s : State) (x : StreamId) : State :=
  match (s.stream x).state with
  | .idle => s
  | .live _ => s
  | .draining _ tag _ => s.drainStream x tag

/-- The Stream Table's act at a boundary (R83): every stream whose drain is due, in ascending order; nothing when none is
due (log 2). -/
def State.actDrainCompletion (s : State) : State :=
  s.drainsDue.foldl State.completeDrain s

/-! ## Subscribing (R87 to R89) -/

/-- A new entry appended at the end of a station's list (R88); its state is decided by the evaluation that follows. -/
def State.appendSub (s : State) (h : Handle) (st : Station) (x : StreamId) : State :=
  (s.setStation h { st with subs := st.subs ++ [⟨x, .suspended .lingering⟩] }).addHeld x

/-- The state of an entry and its reason when SUSPENDED. -/
def subStateItems : SubState → List Item
  | .active => [.bytes 1 0]
  | .suspended r => [.bytes 1 1, .bytes 1 (reasonCode r)]

/-- The position of a stream's entry on a list, counting from 0. -/
def subPosition (subs : List Subscription) (x : StreamId) : Nat :=
  (subs.takeWhile fun e => decide (e.stream ≠ x)).length

/-- The state of a station's entry for a stream. -/
def State.subStateOf (s : State) (h : Handle) (x : StreamId) : SubState :=
  match s.station? h with
  | none => .suspended .lingering
  | some st =>
    match findSub st.subs x with
    | none => .suspended .lingering
    | some e => e.state

/-- Checks 4 and 5 of SUBSCRIBE (R87) and its outcome (R88). -/
def subscribeStation (cmd : Cmd) (h : Handle) (st : Station) (x : StreamId) (s : State) : Reply :=
  match findSub st.subs x with
  | some e => refuse .already (.bytes 1 (subPosition st.subs x) :: subStateItems e.state) s
  | none =>
    if 2 ≤ st.subs.length then refuse .subLimit (st.subs.map fun e => .bytes 1 e.stream.val) s
    else
      let s' := (s.appendSub h st x).evaluateWith h cmd.tag true (some x)
      ⟨.ok, [.bytes 1 st.subs.length] ++ subStateItems (s'.subStateOf h x) ++ [.bytes 1 (s'.activeOf h)], s'⟩

/-- SUBSCRIBE (handle, stream) (R87, R88). -/
def subscribeReply (cmd : Cmd) (s : State) : Reply :=
  match asStream (cmd.op 3) with
  | none => refuse .badOperand [] s
  | some x =>
    match s.asStation (cmd.op 2) with
    | none => refuse .unknownStation [] s
    | some st =>
      match (s.stream x).state with
      | .idle => refuse .streamClosed [.bytes 1 (streamStateCode .idle)] s
      | .draining i t f => refuse .streamClosed [.bytes 1 (streamStateCode (.draining i t f))] s
      | .live _ => subscribeStation cmd (cmd.op 2).toNat st x s

/-- UNSUBSCRIBE (handle, stream) (R89). R89 gives its three refusals no order: the stream is tested before the handle, and
the entry last (DESIGN CHOICE, log 39). -/
def unsubscribeReply (cmd : Cmd) (s : State) : Reply :=
  match asStream (cmd.op 3) with
  | none => refuse .badOperand [] s
  | some x =>
    match s.asStation (cmd.op 2) with
    | none => refuse .unknownStation [] s
    | some st =>
      match findSub st.subs x with
      | none => refuse .notSubscribed [] s
      | some e => ⟨.ok, subStateItems e.state, s.leaveAndRemove (cmd.op 2).toNat x cmd.tag⟩

/-! ## Query (R91) -/

/-- The fields of a stream record present in LIVE and DRAINING (R91). -/
def infoItems (i : StreamInfo) : List Item :=
  [.bytes 2 i.rate, .bytes 2 (16 * i.rate), .bytes 1 i.priority.val, .bytes 1 (streamClassCode i.cls),
    itemMarks [i.seatBound], .bytes 1 i.port.val, itemWord i.openFrame]

/-- The items of a stream's state (R91). -/
def streamStateItems : StreamState → List Item
  | .idle => []
  | .live i => infoItems i
  | .draining i t f => infoItems i ++ [itemWord t, itemWord f]

/-- READ_STREAM (stream) (R91). -/
def readStreamReply (cmd : Cmd) (s : State) : Reply :=
  match asStream (cmd.op 2) with
  | none => refuse .badOperand [] s
  | some x =>
    let v := s.stream x
    ⟨.ok, .bytes 1 (streamStateCode v.state) :: streamStateItems v.state ++
      [.bytes 3 v.subscribers, .bytes 2 v.carriages, .bytes 3 v.held], s⟩

end Sys2Proof.Machine
end

