-- ==== Sys2Proof/Machine/Clock.lean ====
section
/-! DEFINITION. The Frame Clock (chapter 1): strobes and expiries, the frame boundary, the Moment Latch and the surge. -/

namespace Sys2Proof.Machine

open Sys2Proof

/-- The strobe guard, 2.56 ms, in nanoseconds (R8). -/
def guardTime : Nat := 2560000

/-- The strobe-loss time, 20.48 ms (R9). -/
def lossTime : Nat := 20480000

/-- The divider period, 5.12 ms (R10). -/
def framePeriod : Nat := 5120000

/-- One slot, 64 µs (R13). -/
def slotTime : Nat := 64000

/-! ## The acts of a boundary (R11) -/

/-- An open surge ends at the boundary that brings the counter to its end frame (R14); nothing otherwise (log 2). -/
def State.actSurgeEnd (s : State) : State :=
  match s.surge with
  | none => s
  | some g => if g.endFrame = s.clock.frame then { s with surge := none } else s

/-- The act of one owner, on all of its records that are due (log 5). -/
def State.act (s : State) : BoundaryAct → State
  | .claimDeadline => s.actClaimDeadline
  | .lingerExpiry => s.actLingerExpiry
  | .drainCompletion => s.actDrainCompletion
  | .surgeEnd => s.actSurgeEnd

/-- All that the last boundary has left due is taken: claim deadlines, linger expiries, drains and the surge end. Any row
but these four takes it first, so that a command, a build or the next boundary meets every act of the boundary before it
(R30, R46, R83, R143); the order among the four is the model's (DESIGN CHOICE, log 6). -/
def State.settle (s : State) : State :=
  s.actClaimDeadline.actLingerExpiry.actDrainCompletion.actSurgeEnd

/-- The frame counter advanced by one, modulo 2^32, at an instant (R11). -/
def State.advanceFrame (s : State) (now : Instant) : State :=
  { s with clock := { s.clock with frame := s.clock.frame + 1, lastBoundary := now } }

/-- A frame boundary at an instant (R11): the counter advances, FRAME is set at every port, the `early` acts are taken,
and the Plan Engine acts. The acts not taken early follow it, before anything else does (log 5). -/
def State.boundary (s : State) (now : Instant) (early : List BoundaryAct) : State :=
  (early.foldl State.act (s.advanceFrame now).raiseFrame).planBoundary

/-! ## Strobes and expiries -/

/-- A strobe passes the guard: it does not arrive less than 2.56 ms after the most recent boundary (R8). -/
def State.passesGuard (s : State) (now : Instant) : Bool :=
  decide (s.clock.lastBoundary + guardTime ≤ now)

/-- The clock state and the instant of the last accepted strobe replaced. -/
def State.setClock (s : State) (c : ClockState) (strobe : Instant) : State :=
  { s with clock := { s.clock with state := c, lastStrobe := strobe } }

/-- FRAME_STROBE (R7, R8). -/
def State.frameStrobe (s : State) (now : Instant) (early : List BoundaryAct) : State :=
  match s.clock.state with
  | .stopped => s
  | .external => if s.passesGuard now then (s.boundary now early).setClock .external now else s
  | .internal =>
    if s.venue.frameSource = .external ∧ s.passesGuard now then
      ((s.boundary now early).setClock .external now).notify isDeclared .clockRestored 0
    else s

/-- STROBE_LOSS_EXPIRY (R9), 20.48 ms after the last accepted strobe; nothing outside EXTERNAL (R7). -/
def State.strobeLossExpiry (s : State) (early : List BoundaryAct) : State :=
  match s.clock.state with
  | .stopped => s
  | .internal => s
  | .external =>
    ((s.boundary (s.clock.lastStrobe + lossTime) early).setClock .internal s.clock.lastStrobe).notify isDeclared
      .clockFallback 0

/-- DIVIDER_EXPIRY (R10), 5.12 ms after the last boundary; nothing outside INTERNAL (R7). -/
def State.dividerExpiry (s : State) (early : List BoundaryAct) : State :=
  match s.clock.state with
  | .stopped => s
  | .external => s
  | .internal => s.boundary (s.clock.lastBoundary + framePeriod) early

/-! ## The Moment Latch (R12, R13) -/

/-- The slot position of an instant: whole slots since the most recent boundary, clamped to 79 (R13). -/
def State.slotPosition (s : State) (now : Instant) : Nat :=
  min 79 ((now - s.clock.lastBoundary) / slotTime)

/-- The surge that a moment opens (R13): none changes when the surge length is 0. -/
def State.openSurge (s : State) (value mask : SectorId) : State :=
  if s.venue.surgeLength = 0 then s
  else { s with surge := some ⟨value, mask, s.clock.frame + BitVec.ofNat 32 s.venue.surgeLength⟩ }

/-- MOMENT_PULSE (R13). -/
def State.momentPulse (s : State) (now : Instant) : State :=
  match s.latch with
  | .disarmed => s
  | .latched _ _ _ _ => s
  | .armed value mask =>
    let slot := s.slotPosition now
    (({ s with latch := .latched value mask s.clock.frame slot }).openSurge value mask).notify isDeclared
      (.moment slot value mask) 0

/-- The latch state with, in LATCHED, the latched frame and the slot position (R12). -/
def latchItems : Latch → List Item
  | .disarmed => [.bytes 1 0]
  | .armed _ _ => [.bytes 1 1]
  | .latched _ _ frame slot => [.bytes 1 2, itemWord frame, .bytes 1 slot]

/-- ARM_MOMENT (scope value, scope mask) (R12). -/
def armMomentReply (cmd : Cmd) (s : State) : Reply :=
  match asSector (cmd.op 2), asSector (cmd.op 3) with
  | some value, some mask => ⟨.ok, latchItems s.latch, { s with latch := .armed value mask }⟩
  | some _, none => refuse .badOperand [] s
  | none, _ => refuse .badOperand [] s

end Sys2Proof.Machine
end

