-- ==== Sys2Proof/Machine/Match.lean ====
section
/-! DEFINITION. Match Control (chapter 1): reset, port declaration, the venue, and the opening and closing of a match. -/

namespace Sys2Proof.Machine

open Sys2Proof

/-- RESET (R1): every field takes its value after RESET; the queue of waiting events is not the part's. -/
def State.resetPart (s : State) : State :=
  { State.reset with pending := s.pending }

/-! ## Port declaration (R2) -/

/-- A port given a role; the new declaration replaces the earlier one whole. -/
def State.declare (s : State) (p : PortId) (r : Role) : State :=
  s.setPort p { s.port p with role := r }

/-- The lowest sector that a range shares with a port's range. -/
def sharedSector (first last : SectorId) (u : PortUnit) : Option SectorId :=
  allSectors.find? fun sec => decide (first ≤ sec ∧ sec ≤ last) && ownsSector u sec

/-- The lowest-numbered other CELL port whose range shares a sector with the given one, and the lowest such sector. -/
def State.overlapWith (s : State) (p : PortId) (first last : SectorId) : Option (PortId × SectorId) :=
  (allPorts.filter fun q => decide (q ≠ p)).findSome? fun q =>
    (sharedSector first last (s.port q)).map fun sec => (q, sec)

/-- DECLARE_PORT as CELL (R2). -/
def declareCell (p : PortId) (first last : Word) (s : State) : Reply :=
  match asSector first, asSector last with
  | some a, some b =>
    if b < a ∨ s.venue.sectorsInUse ≤ b.val then refuse .badOperand [] s
    else
      match s.overlapWith p a b with
      | some (q, sec) => refuse .overlap [.bytes 1 q.val, .bytes 1 sec.val] s
      | none => ⟨.ok, [.bytes 1 (roleCode (s.port p).role)], s.declare p (.cell a b)⟩
  | some _, none => refuse .badOperand [] s
  | none, _ => refuse .badOperand [] s

/-- DECLARE_PORT (role, first sector, last sector) (R2). -/
def declarePortReply (p : PortId) (cmd : Cmd) (s : State) : Reply :=
  match (cmd.op 2).toNat with
  | 0 => ⟨.ok, [.bytes 1 (roleCode (s.port p).role)], s.declare p .none⟩
  | 1 => declareCell p (cmd.op 3) (cmd.op 4) s
  | 2 => ⟨.ok, [.bytes 1 (roleCode (s.port p).role)], s.declare p .gate⟩
  | 3 => ⟨.ok, [.bytes 1 (roleCode (s.port p).role)], s.declare p .replay⟩
  | _ => refuse .badOperand [] s

/-! ## The venue (R3) -/

/-- The lowest-numbered CELL port whose last sector is at or above `n`. -/
def State.portBeyond (s : State) (n : Nat) : Option PortId :=
  allPorts.find? fun p =>
    match (s.port p).role with
    | .cell _ last => decide (n ≤ last.val)
    | .none => false
    | .gate => false
    | .replay => false

/-- The venue that the operands of SET_VENUE give, its five clamped values brought into their ranges (R3). -/
def venueOf (cmd : Cmd) (src : FrameSource) : Venue :=
  { sectorsInUse := (cmd.word 0 2).toNat
    cellsPerSector := (cmd.word 0 3).toNat
    cellLimit := clampTo 1 255 (cmd.word 0 4).toNat
    threshold := clampTo 1 32 (cmd.word 0 5).toNat
    handoverWindow := clampTo 2 64 (cmd.word 1 2).toNat
    lingerTime := clampTo 200 60000 (cmd.word 1 3).toNat
    surgeLength := clampTo 0 4000 (cmd.word 1 4).toNat
    frameSource := src }

/-- The result of SET_VENUE: each operand as taken, and a mark for each operand that was clamped (R3). -/
def venueItems (cmd : Cmd) (v : Venue) : List Item :=
  [.bytes 1 v.sectorsInUse, .bytes 1 v.cellsPerSector, .bytes 1 v.cellLimit, .bytes 1 v.threshold,
    .bytes 1 v.handoverWindow, .bytes 2 v.lingerTime, .bytes 2 v.surgeLength, .bytes 1 (frameSourceCode v.frameSource),
    itemMarks [false, false, decide (v.cellLimit ≠ (cmd.word 0 4).toNat), decide (v.threshold ≠ (cmd.word 0 5).toNat),
      decide (v.handoverWindow ≠ (cmd.word 1 2).toNat), decide (v.lingerTime ≠ (cmd.word 1 3).toNat),
      decide (v.surgeLength ≠ (cmd.word 1 4).toNat), false]]

/-- A number of sectors or of cells per sector is refused outside 1–32 (R3). -/
def venueCountBad (n : Nat) : Bool :=
  decide (n < 1) || decide (32 < n)

/-- SET_VENUE (R3). -/
def setVenueReply (cmd : Cmd) (s : State) : Reply :=
  match asFrameSource (cmd.word 1 5) with
  | none => refuse .badOperand [] s
  | some src =>
    if venueCountBad (cmd.word 0 2).toNat || venueCountBad (cmd.word 0 3).toNat then refuse .badOperand [] s
    else
      match s.portBeyond (cmd.word 0 2).toNat with
      | some q => refuse .badOperand [.bytes 1 q.val] s
      | none => ⟨.ok, venueItems cmd (venueOf cmd src), { s with venue := venueOf cmd src }⟩

/-! ## Opening and closing (R5, R6) -/

/-- The lowest sector in use that lies in no CELL port's range (R5). -/
def State.unownedSector (s : State) : Option SectorId :=
  s.sectorsUsed.find? fun sec => (s.ownerOf sec).isNone

/-- The default plan of a cell (R6), with the CONTROL run of a frame: the rest goes to GENERAL. -/
def defaultPlan (control ticket : Nat) : Plan :=
  ⟨control, ticket, [], 80 - control - ticket⟩

/-- The Plan Window with an entry of the default plan for every cell (R140). -/
def State.defaultWindow (s : State) (control : Nat) (frame : Option FrameNo) (held : Bool) : Table PlanEntry :=
  tableOf {} 1024 fun c =>
    ⟨defaultPlan control (tableRead ({} : Sector) s.sectors (c / 32)).reservation, frame, held⟩

/-- The sector records with every one STABLE and its built-for frame replaced (R5, R6, R138). -/
def State.settledSectors (s : State) (frame : Option FrameNo) : Table Sector :=
  tableOf {} 32 fun sec =>
    { tableRead ({} : Sector) s.sectors sec with planState := .stable, builtFor := frame }

/-- The clock at OPEN_MATCH: frame 0, running from this instant in the configured source (R5, R7). -/
def openClock (src : FrameSource) (now : Instant) : FrameClock :=
  { state := match src with
      | .external => .external
      | .internal => .internal
    frame := 0, lastBoundary := now, lastStrobe := now }

/-- The opening of a match as one event (R5). -/
def State.openAt (s : State) (now : Instant) (tag : Tag) : State :=
  let s := { s with
    device := .service
    clock := openClock s.venue.frameSource now
    plans := s.defaultWindow 8 (some 0) true
    sectors := s.settledSectors (some 0) }
  (s.beginPass 1).notify isDeclared .matchOpen tag

/-- OPEN_MATCH (R5). -/
def openMatchReply (now : Instant) (cmd : Cmd) (s : State) : Reply :=
  match s.unownedSector with
  | some sec => refuse .unownedSector [.bytes 1 sec.val] s
  | none => ⟨.ok, [], s.openAt now cmd.tag⟩

/-- The end of a match as one event (R6): the match's records are cleared, the venue, the ports and the sector policies
are kept, the clock stops with its last count. -/
def State.closeAt (s : State) (tag : Tag) : State :=
  let s := { s with
    device := .setup
    clock := { s.clock with state := .stopped }
    latch := .disarmed
    surge := none
    stations := []
    addressMap := []
    handles := {}
    roster := []
    tickets := []
    ticketMap := []
    loaded := 0
    zones := []
    streams := []
    carriages := []
    plans := s.defaultWindow 4 none false
    sectors := s.settledSectors none
    pass := none
    startSector := 0 }
  s.notify isDeclared .matchClosed tag

/-- CLOSE_MATCH (R6). -/
def closeMatchReply (cmd : Cmd) (s : State) : Reply :=
  ⟨.ok, [], s.closeAt cmd.tag⟩

end Sys2Proof.Machine
end

