-- ==== Sys2Proof/Machine/Rows.lean ====
section
/-! DEFINITION. The rows of spec/opcode_table.json: the meaning of each, over the operations of its chapter. A command of a
master is served from the ring of its port (`serve`). Every row but RESET and the four acts of a boundary first takes what
the last boundary has left due. -/

namespace Sys2Proof.Machine

open Sys2Proof

/-- A row that comes after the acts of the boundary before it (R30, R46, R143; log 6). -/
def State.afterActs (s : State) (row : State → State) : Host.Outcome State Fault Refusal :=
  .next (row s.settle)

/-! ## The match (chapter 1) -/

/-- RESET (R1). -/
def execReset (s : State) : Host.Outcome State Fault Refusal :=
  .next s.resetPart

/-- DECLARE_PORT (R2). -/
def execDeclarePort (p : PortId) (s : State) : Host.Outcome State Fault Refusal :=
  s.afterActs (serve p .declarePort (declarePortReply p))

/-- SET_VENUE (R3). -/
def execSetVenue (p : PortId) (s : State) : Host.Outcome State Fault Refusal :=
  s.afterActs (serve p .setVenue setVenueReply)

/-- OPEN_MATCH (R5). -/
def execOpenMatch (p : PortId) (now : Instant) (s : State) : Host.Outcome State Fault Refusal :=
  s.afterActs (serve p .openMatch (openMatchReply now))

/-- CLOSE_MATCH (R6). -/
def execCloseMatch (p : PortId) (s : State) : Host.Outcome State Fault Refusal :=
  s.afterActs (serve p .closeMatch closeMatchReply)

/-! ## Queries -/

/-- READ_STATION (R34). -/
def execReadStation (p : PortId) (s : State) : Host.Outcome State Fault Refusal :=
  s.afterActs (serve p .readStation readStationReply)

/-- READ_TICKET (R72). -/
def execReadTicket (p : PortId) (s : State) : Host.Outcome State Fault Refusal :=
  s.afterActs (serve p .readTicket readTicketReply)

/-- READ_STREAM (R91). -/
def execReadStream (p : PortId) (s : State) : Host.Outcome State Fault Refusal :=
  s.afterActs (serve p .readStream readStreamReply)

/-- READ_CARRIAGE (R122). -/
def execReadCarriage (p : PortId) (s : State) : Host.Outcome State Fault Refusal :=
  s.afterActs (serve p .readCarriage readCarriageReply)

/-- READ_ZONE (R73). -/
def execReadZone (p : PortId) (s : State) : Host.Outcome State Fault Refusal :=
  s.afterActs (serve p .readZone readZoneReply)

/-- READ_CELL (R35). -/
def execReadCell (p : PortId) (s : State) : Host.Outcome State Fault Refusal :=
  s.afterActs (serve p .readCell readCellReply)

/-! ## Stations and handover (chapters 2 and 3) -/

/-- ASSOCIATE (R23). -/
def execAssociate (p : PortId) (s : State) : Host.Outcome State Fault Refusal :=
  s.afterActs (serve p .associate (associateReply p))

/-- DETACH (R27). -/
def execDetach (p : PortId) (s : State) : Host.Outcome State Fault Refusal :=
  s.afterActs (serve p .detach (detachReply p))

/-- REPORT_LEVEL (R32). -/
def execReportLevel (p : PortId) (s : State) : Host.Outcome State Fault Refusal :=
  s.afterActs (serve p .reportLevel (reportLevelReply p))

/-- CLAIM (R38). -/
def execClaim (p : PortId) (s : State) : Host.Outcome State Fault Refusal :=
  s.afterActs (serve p .claim (claimReply p))

/-- RELEASE (R44). -/
def execRelease (p : PortId) (s : State) : Host.Outcome State Fault Refusal :=
  s.afterActs (serve p .release (releaseReply p))

/-- WITHDRAW (R45). -/
def execWithdraw (p : PortId) (s : State) : Host.Outcome State Fault Refusal :=
  s.afterActs (serve p .withdraw (withdrawReply p))

/-! ## Sector policies (chapter 9) -/

/-- SET_SECTOR_POLICY (R139). -/
def execSetSectorPolicy (p : PortId) (s : State) : Host.Outcome State Fault Refusal :=
  s.afterActs (serve p .setSectorPolicy (setSectorPolicyReply p))

/-! ## Tickets, zones and bindings (chapters 4 and 6) -/

/-- LOAD_TICKETS (R58). -/
def execLoadTickets (p : PortId) (s : State) : Host.Outcome State Fault Refusal :=
  s.afterActs (serve p .loadTickets loadTicketsReply)

/-- ADMIT (R64). -/
def execAdmitTicket (p : PortId) (s : State) : Host.Outcome State Fault Refusal :=
  s.afterActs (serve p .admitTicket admitTicketReply)

/-- EXIT (R68). -/
def execExitTicket (p : PortId) (s : State) : Host.Outcome State Fault Refusal :=
  s.afterActs (serve p .exitTicket exitTicketReply)

/-- VOID (R70). -/
def execVoidTicket (p : PortId) (s : State) : Host.Outcome State Fault Refusal :=
  s.afterActs (serve p .voidTicket voidTicketReply)

/-- SET_ZONE (R62). -/
def execSetZone (p : PortId) (s : State) : Host.Outcome State Fault Refusal :=
  s.afterActs (serve p .setZone setZoneReply)

/-- BIND (R93). -/
def execBindTicket (p : PortId) (s : State) : Host.Outcome State Fault Refusal :=
  s.afterActs (serve p .bindTicket bindTicketReply)

/-- UNBIND (R96). -/
def execUnbindTicket (p : PortId) (s : State) : Host.Outcome State Fault Refusal :=
  s.afterActs (serve p .unbindTicket unbindTicketReply)

/-! ## Streams and subscriptions (chapter 5) -/

/-- OPEN_STREAM (R78). -/
def execOpenStream (p : PortId) (s : State) : Host.Outcome State Fault Refusal :=
  s.afterActs (serve p .openStream (openStreamReply p))

/-- SET_STREAM_RATE (R79). -/
def execSetStreamRate (p : PortId) (s : State) : Host.Outcome State Fault Refusal :=
  s.afterActs (serve p .setStreamRate setStreamRateReply)

/-- CLOSE_STREAM (R81). -/
def execCloseStream (p : PortId) (s : State) : Host.Outcome State Fault Refusal :=
  s.afterActs (serve p .closeStream closeStreamReply)

/-- SUBSCRIBE (R87). -/
def execSubscribe (p : PortId) (s : State) : Host.Outcome State Fault Refusal :=
  s.afterActs (serve p .subscribe subscribeReply)

/-- UNSUBSCRIBE (R89). -/
def execUnsubscribe (p : PortId) (s : State) : Host.Outcome State Fault Refusal :=
  s.afterActs (serve p .unsubscribe unsubscribeReply)

/-! ## The Frame Clock (chapter 1) -/

/-- ARM_MOMENT (R12). -/
def execArmMoment (p : PortId) (s : State) : Host.Outcome State Fault Refusal :=
  s.afterActs (serve p .armMoment armMomentReply)

/-- FRAME_STROBE (R8). -/
def execFrameStrobe (now : Instant) (early : List BoundaryAct) (s : State) : Host.Outcome State Fault Refusal :=
  s.afterActs fun s => s.frameStrobe now early

/-- STROBE_LOSS_EXPIRY (R9). -/
def execStrobeLossExpiry (early : List BoundaryAct) (s : State) : Host.Outcome State Fault Refusal :=
  s.afterActs fun s => s.strobeLossExpiry early

/-- DIVIDER_EXPIRY (R10). -/
def execDividerExpiry (early : List BoundaryAct) (s : State) : Host.Outcome State Fault Refusal :=
  s.afterActs fun s => s.dividerExpiry early

/-- MOMENT_PULSE (R13). -/
def execMomentPulse (now : Instant) (s : State) : Host.Outcome State Fault Refusal :=
  s.afterActs fun s => s.momentPulse now

/-! ## The acts of a boundary (R11) -/

/-- SURGE_END (R14). -/
def execSurgeEnd (s : State) : Host.Outcome State Fault Refusal :=
  .next s.actSurgeEnd

/-- CLAIM_DEADLINE (R46). -/
def execClaimDeadline (s : State) : Host.Outcome State Fault Refusal :=
  .next s.actClaimDeadline

/-- LINGER_EXPIRY (R30). -/
def execLingerExpiry (s : State) : Host.Outcome State Fault Refusal :=
  .next s.actLingerExpiry

/-- DRAIN_COMPLETION (R83). -/
def execDrainCompletion (s : State) : Host.Outcome State Fault Refusal :=
  .next s.actDrainCompletion

/-! ## Builds (chapter 9) -/

/-- SECTOR_BUILD_COMPLETION (R142). -/
def execSectorBuildCompletion (s : State) : Host.Outcome State Fault Refusal :=
  s.afterActs State.finishBuild

/-! ## The Coordination Bus (chapter 10) -/

/-- BUS_GRANT (R150). -/
def execBusGrant (lines : BitVec 4) (s : State) : Host.Outcome State Fault Refusal :=
  s.afterActs fun s => s.grantBus lines

/-- ACKNOWLEDGE_RAISED (R151). -/
def execAcknowledgeRaised (p : PortId) (s : State) : Host.Outcome State Fault Refusal :=
  s.afterActs fun s => s.raiseAcknowledge p

/-- GRANT_WITHDRAWN (R151). -/
def execGrantWithdrawn (p : PortId) (s : State) : Host.Outcome State Fault Refusal :=
  s.afterActs fun s => s.withdrawGrant p

/-- ACKNOWLEDGE_DROPPED (R151). -/
def execAcknowledgeDropped (p : PortId) (s : State) : Host.Outcome State Fault Refusal :=
  s.afterActs fun s => s.dropAcknowledge p

/-- PLAN_WINDOW_READ (R141). -/
def execPlanWindowRead (p : PortId) (w : BitVec 15) (s : State) : Host.Outcome State Fault Refusal :=
  s.afterActs fun s => s.busRead p (planWordAddr w)

/-- PRODUCER_INDEX_WRITE (R154). -/
def execProducerIndexWrite (p : PortId) (value : Word) (s : State) : Host.Outcome State Fault Refusal :=
  s.afterActs fun s => s.busWrite p (ownWord p 0x600) value

/-- NOTICE_HEAD_WRITE (R162). -/
def execNoticeHeadWrite (p : PortId) (value : Word) (s : State) : Host.Outcome State Fault Refusal :=
  s.afterActs fun s => s.busWrite p (ownWord p 0x602) value

/-- ATTENTION_REQUEST_SET (R165). -/
def execAttentionRequestSet (p : PortId) (bits : BitVec 31) (s : State) : Host.Outcome State Fault Refusal :=
  s.afterActs fun s => s.busWrite p (ownWord p 0x604) (setForm bits)

/-- ATTENTION_REQUEST_CLEAR (R165). -/
def execAttentionRequestClear (p : PortId) (bits : BitVec 31) (s : State) : Host.Outcome State Fault Refusal :=
  s.afterActs fun s => s.busWrite p (ownWord p 0x604) (clearForm bits)

/-- ATTENTION_ENABLE_SET (R165). -/
def execAttentionEnableSet (p : PortId) (bits : BitVec 31) (s : State) : Host.Outcome State Fault Refusal :=
  s.afterActs fun s => s.busWrite p (ownWord p 0x605) (setForm bits)

/-- ATTENTION_ENABLE_CLEAR (R165). -/
def execAttentionEnableClear (p : PortId) (bits : BitVec 31) (s : State) : Host.Outcome State Fault Refusal :=
  s.afterActs fun s => s.busWrite p (ownWord p 0x605) (clearForm bits)

/-- PORT_RESET (R160). -/
def execPortReset (p : PortId) (rest : BitVec 31) (s : State) : Host.Outcome State Fault Refusal :=
  s.afterActs fun s => s.busWrite p (ownWord p 0x606) (setForm rest)

/-- WORD_WRITE (R152). -/
def execWordWrite (p : PortId) (addr : WordAddr) (value : Word) (s : State) : Host.Outcome State Fault Refusal :=
  s.afterActs fun s => s.busWrite p addr value

/-- BAD_CODE_ELEMENT (R156). -/
def execBadCodeElement (p : PortId) (s : State) : Host.Outcome State Fault Refusal :=
  s.afterActs fun s => s.serveBadCode p

/-- OVERLONG_CHAIN (R155). -/
def execOverlongChain (p : PortId) (s : State) : Host.Outcome State Fault Refusal :=
  s.afterActs fun s => s.serveOverlongAt p

/-- WORD_READ (R158). -/
def execWordRead (p : PortId) (addr : WordAddr) (s : State) : Host.Outcome State Fault Refusal :=
  s.afterActs fun s => s.busRead p addr

end Sys2Proof.Machine
end

