-- ==== Sys2Proof/Machine/Dispatch.lean ====
section
/-! DEFINITION. The dispatch: one arm for each constructor of `Instr`, one direct call of its meaning. -/

namespace Sys2Proof.Machine

open Sys2Proof

def exec (i : Instr) (s : State) : Host.Outcome State Fault Refusal :=
  match i with
  | .reset => Sys2Proof.Machine.execReset s
  | .declarePort p => Sys2Proof.Machine.execDeclarePort p s
  | .setVenue p => Sys2Proof.Machine.execSetVenue p s
  | .openMatch p now => Sys2Proof.Machine.execOpenMatch p now s
  | .closeMatch p => Sys2Proof.Machine.execCloseMatch p s
  | .readStation p => Sys2Proof.Machine.execReadStation p s
  | .readTicket p => Sys2Proof.Machine.execReadTicket p s
  | .readStream p => Sys2Proof.Machine.execReadStream p s
  | .readCarriage p => Sys2Proof.Machine.execReadCarriage p s
  | .readZone p => Sys2Proof.Machine.execReadZone p s
  | .readCell p => Sys2Proof.Machine.execReadCell p s
  | .associate p => Sys2Proof.Machine.execAssociate p s
  | .detach p => Sys2Proof.Machine.execDetach p s
  | .reportLevel p => Sys2Proof.Machine.execReportLevel p s
  | .claim p => Sys2Proof.Machine.execClaim p s
  | .release p => Sys2Proof.Machine.execRelease p s
  | .withdraw p => Sys2Proof.Machine.execWithdraw p s
  | .setSectorPolicy p => Sys2Proof.Machine.execSetSectorPolicy p s
  | .loadTickets p => Sys2Proof.Machine.execLoadTickets p s
  | .admitTicket p => Sys2Proof.Machine.execAdmitTicket p s
  | .exitTicket p => Sys2Proof.Machine.execExitTicket p s
  | .voidTicket p => Sys2Proof.Machine.execVoidTicket p s
  | .setZone p => Sys2Proof.Machine.execSetZone p s
  | .bindTicket p => Sys2Proof.Machine.execBindTicket p s
  | .unbindTicket p => Sys2Proof.Machine.execUnbindTicket p s
  | .openStream p => Sys2Proof.Machine.execOpenStream p s
  | .setStreamRate p => Sys2Proof.Machine.execSetStreamRate p s
  | .closeStream p => Sys2Proof.Machine.execCloseStream p s
  | .subscribe p => Sys2Proof.Machine.execSubscribe p s
  | .unsubscribe p => Sys2Proof.Machine.execUnsubscribe p s
  | .armMoment p => Sys2Proof.Machine.execArmMoment p s
  | .frameStrobe now early => Sys2Proof.Machine.execFrameStrobe now early s
  | .strobeLossExpiry early => Sys2Proof.Machine.execStrobeLossExpiry early s
  | .dividerExpiry early => Sys2Proof.Machine.execDividerExpiry early s
  | .momentPulse now => Sys2Proof.Machine.execMomentPulse now s
  | .surgeEnd => Sys2Proof.Machine.execSurgeEnd s
  | .claimDeadline => Sys2Proof.Machine.execClaimDeadline s
  | .lingerExpiry => Sys2Proof.Machine.execLingerExpiry s
  | .drainCompletion => Sys2Proof.Machine.execDrainCompletion s
  | .sectorBuildCompletion => Sys2Proof.Machine.execSectorBuildCompletion s
  | .busGrant lines => Sys2Proof.Machine.execBusGrant lines s
  | .acknowledgeRaised p => Sys2Proof.Machine.execAcknowledgeRaised p s
  | .grantWithdrawn p => Sys2Proof.Machine.execGrantWithdrawn p s
  | .acknowledgeDropped p => Sys2Proof.Machine.execAcknowledgeDropped p s
  | .planWindowRead p w => Sys2Proof.Machine.execPlanWindowRead p w s
  | .producerIndexWrite p value => Sys2Proof.Machine.execProducerIndexWrite p value s
  | .noticeHeadWrite p value => Sys2Proof.Machine.execNoticeHeadWrite p value s
  | .attentionRequestSet p bits => Sys2Proof.Machine.execAttentionRequestSet p bits s
  | .attentionRequestClear p bits => Sys2Proof.Machine.execAttentionRequestClear p bits s
  | .attentionEnableSet p bits => Sys2Proof.Machine.execAttentionEnableSet p bits s
  | .attentionEnableClear p bits => Sys2Proof.Machine.execAttentionEnableClear p bits s
  | .portReset p rest => Sys2Proof.Machine.execPortReset p rest s
  | .wordWrite p addr value => Sys2Proof.Machine.execWordWrite p addr value s
  | .badCodeElement p => Sys2Proof.Machine.execBadCodeElement p s
  | .overlongChain p => Sys2Proof.Machine.execOverlongChain p s
  | .wordRead p addr => Sys2Proof.Machine.execWordRead p addr s

end Sys2Proof.Machine
end

