-- ==== Sys2Proof/Safety.lean ====
section
/-! DEFINITION. What holds of the CZ-4160 at all times, as the rules of spec/ say it: the limits of the ports, the
agreement of the tables with each other, the bounds of the airtime account, and the entitlement of every ACTIVE
subscription. -/

namespace Sys2Proof.Machine

open Sys2Proof

/-! ## Ports and bus -/

/-- The canonical form of a ring or a queue of `size` words: word numbers strictly rising and below `size`, and no word
listed as 0, which is what an unlisted word reads as (R153, R162). -/
abbrev memoryWf (size : Nat) (m : Table Word) : Prop :=
  tableWfDefault 0 m = true ∧ ∀ e ∈ m, e.1 < size

/-- A Command Ring never has more than 63 posted elements (R154), and a Notice Queue never holds more than 128 records
(R162). -/
abbrev PortUnit.wf (u : PortUnit) : Prop :=
  posted u ≤ 63 ∧ heldNotices u ≤ 128 ∧ memoryWf 1024 u.ring ∧ memoryWf 512 u.queue

/-- Every port is within its limits, and the bus is not held while a grant is outstanding (R150, R151). -/
abbrev State.portsOk (s : State) : Prop :=
  (∀ p, (s.port p).wf) ∧ (s.arbiter.holder = none ∨ s.arbiter.grant = none)

/-! ## The match -/

/-- What a part in SETUP holds (R1, R6, R7, R12, R14): no station, stream or carriage record, closed zones, a stopped
clock, a DISARMED latch, no surge and no pass; in SERVICE the clock runs. -/
def State.lifecycleOk (s : State) : Prop :=
  match s.device with
  | .setup =>
    s.clock.state = .stopped ∧ s.latch = .disarmed ∧ s.surge = none ∧ s.stations = [] ∧ s.addressMap = [] ∧
      s.handles = {} ∧ s.roster = [] ∧ s.zones = [] ∧ s.streams = [] ∧ s.carriages = [] ∧ s.pass = none ∧
      s.startSector = 0
  | .service => s.clock.state ≠ .stopped

/-! ## Stations -/

/-- A station is served by a cell: it is ASSOCIATED or IN_HANDOVER with that serving cell (R19). -/
def servedBy (c : CellId) (st : Station) : Bool :=
  !isLingering st.state && decide (st.serving = c)

/-- A station is claimed into a cell by an unfinished handover (R19). -/
def claimedInto (c : CellId) (st : Station) : Bool :=
  match st.state with
  | .associated => false
  | .inHandover claimant _ _ => decide (claimant = c)
  | .lingering _ _ => false

/-- A claimant cell differs from the serving cell (R15). -/
def claimantDiffers (st : Station) : Prop :=
  match st.state with
  | .associated => True
  | .inHandover claimant _ _ => claimant ≠ st.serving
  | .lingering _ _ => True

/-- The Handle Stack, the Address Map and the station records agree (R15, R17, R18). -/
def State.handlesOk (s : State) : Prop :=
  tableWf s.stations = true ∧ tableWf s.addressMap = true ∧
    s.handles.returned.Nodup ∧ (∀ h ∈ s.handles.returned, h < s.handles.fresh) ∧ s.handles.fresh ≤ 65536 ∧
    (∀ h, (s.station? h).isSome = true ↔ h < s.handles.fresh ∧ h ∉ s.handles.returned) ∧
    (∀ (a : BitVec 48) (h : Handle),
      tableFind s.addressMap a.toNat = some h ↔ ∃ st, s.station? h = some st ∧ st.address = a) ∧
    handlesFree s.handles + s.stations.length = 65536

/-- The counts of every cell agree with the station records and stay within the cell limit (R19). -/
def State.countsOk (s : State) : Prop :=
  tableWfDefault {} s.roster = true ∧ s.venue.cellLimit ≤ 255 ∧
    (∀ h st, s.station? h = some st → claimantDiffers st) ∧
    ∀ c : CellId,
      (s.rosterEntry c).count = s.stations.countP (fun e => servedBy c e.2) ∧
        (s.rosterEntry c).pendingIn = s.stations.countP (fun e => claimedInto c e.2) ∧
        (s.rosterEntry c).count + (s.rosterEntry c).pendingIn ≤ s.venue.cellLimit

/-- The Station Table is consistent. -/
def State.stationsOk (s : State) : Prop :=
  s.lifecycleOk ∧ s.handlesOk ∧ s.countsOk

/-! ## Tickets -/

/-- The Ticket Table, the Ticket Map and the loaded count agree (R56). -/
def State.ticketTableOk (s : State) : Prop :=
  tableWf s.tickets = true ∧ tableWf s.ticketMap = true ∧ s.loaded ≤ 98304 ∧
    (∀ t, (s.ticket? t).isSome = true ↔ t < s.loaded) ∧
    ∀ (n : BitVec 64) (t : TicketHandle),
      tableFind s.ticketMap n.toNat = some t ↔ ∃ k, s.ticket? t = some k ∧ k.number = n

/-- Station s holds ticket t as its bound ticket exactly when ticket t holds s as its bound station, and a bound ticket
is ADMITTED or EXITED (R92). -/
def State.bindingsOk (s : State) : Prop :=
  (∀ h st t, s.station? h = some st → st.ticket = some t → ∃ k, s.ticket? t = some k ∧ k.station = some h) ∧
    ∀ t k h, s.ticket? t = some k → k.station = some h →
      (k.entry = .admitted ∨ k.entry = .exited) ∧ ∃ st, s.station? h = some st ∧ st.ticket = some t

/-- A ticket is ADMITTED and was last admitted in a zone. -/
def insideZone (z : ZoneId) (k : Ticket) : Bool :=
  decide (k.entry = .admitted) && decide (entryZone k = z)

/-- The occupancy of every zone is the number of ADMITTED tickets whose entry zone it is (R61). -/
def State.zonesOk (s : State) : Prop :=
  tableWfDefault {} s.zones = true ∧
    ∀ z : ZoneId, (s.zone z).occupancy = s.tickets.countP fun e => insideZone z e.2

/-- The Ticket Table and the bindings are consistent. -/
def State.ticketsOk (s : State) : Prop :=
  s.stationsOk ∧ s.ticketTableOk ∧ s.bindingsOk ∧ s.zonesOk ∧
    (s.device = .setup → ∀ t k, s.ticket? t = some k → k.entry = .issued)

/-! ## Entitlement -/

/-- Every ACTIVE subscription is one to which its station is entitled: the first three checks of R98 pass. -/
def State.activeEntitled (s : State) : Prop :=
  ∀ h st e, s.station? h = some st → e ∈ st.subs → e.state = .active →
    isLingering st.state = false ∧ s.entitled st e.stream = true ∧ s.seated st e.stream = true

/-- Every list holds at most two streams, none twice and none IDLE (R86). -/
def State.listsOk (s : State) : Prop :=
  ∀ h st, s.station? h = some st →
    st.subs.length ≤ 2 ∧ (st.subs.map (·.stream)).Nodup ∧ ∀ e ∈ st.subs, (s.stream e.stream).state ≠ .idle

/-- The subscriptions are consistent with the stations, the tickets and the streams. -/
def State.subscriptionsOk (s : State) : Prop :=
  s.ticketsOk ∧ s.listsOk ∧ s.activeEntitled

/-! ## Carriages -/

/-- A station served by a cell has an ACTIVE subscription to a stream. -/
def receives (c : CellId) (x : StreamId) (st : Station) : Bool :=
  servedBy c st && st.subs.any fun e => decide (e.stream = x) && decide (e.state = .active)

/-- The cells' carriage lists and the Carriage Table agree, the lists are in grant order, and the table holds no more
than 4,096 carriages (R108, R109). -/
def State.carriageListsOk (s : State) : Prop :=
  tableWf s.carriages = true ∧ (∀ e ∈ s.carriages, e.1 < 16384) ∧ s.carriages.length ≤ 4096 ∧
    ∀ c : CellId,
      (∀ x, x ∈ (s.rosterEntry c).carriages ↔ (s.carriage? c x).isSome = true) ∧
        (s.rosterEntry c).carriages.Pairwise fun x y => s.grantsBefore x y = true

/-- Every carriage counts the ACTIVE subscriptions of the stations that its cell serves, level by level, and a missing
carriage has none (R98, R107, R112). -/
def State.carriageCountsOk (s : State) : Prop :=
  ∀ (c : CellId) (x : StreamId),
    match s.carriage? c x with
    | none => s.stations.countP (fun e => receives c x e.2) = 0
    | some k =>
      k.count = s.stations.countP (fun e => receives c x e.2) ∧ 1 ≤ k.count ∧ k.hist.length = 8 ∧
        (∀ l : Level, k.hist.getD l.val 0 =
          s.stations.countP fun e => receives c x e.2 && decide (e.2.level = l)) ∧
        k.minLevel = lowestLevel k.hist ∧ (s.stream x).state ≠ .idle

/-- A MULTICAST balance lies in [−4D, P); a UNICAST or HELD carriage has balance 0 and is not starved (R131, R134). -/
def State.balancesOk (s : State) : Prop :=
  ∀ (c : CellId) (x : StreamId) k, s.carriage? c x = some k →
    if k.mode = .multicast then
      -4 * (s.demand x : Int) ≤ k.balance ∧ k.balance < (payload k.minLevel : Int)
    else k.balance = 0 ∧ k.starved = false

/-- The sum of the counts of a stream's carriages. -/
def State.sumCounts (s : State) (x : StreamId) : Nat :=
  s.carriages.foldl (fun n e => if e.1 % 16 = x.val then n + e.2.count else n) 0

/-- A stream's subscriber total, carriage count and held figure agree with its carriages and the stations' lists (R77,
R91). -/
def State.streamTotalsOk (s : State) : Prop :=
  tableWfDefault {} s.streams = true ∧
    ∀ x : StreamId,
      (s.stream x).subscribers = s.sumCounts x ∧
        (s.stream x).carriages = s.carriages.countP (fun e => decide (e.1 % 16 = x.val)) ∧
        (s.stream x).held = s.stations.countP fun e => (findSub e.2.subs x).isSome

/-- The Carriage Table is consistent with the stations and the streams. -/
def State.carriagesOk (s : State) : Prop :=
  s.stationsOk ∧ s.listsOk ∧
    (∀ h st e, s.station? h = some st → e ∈ st.subs → e.state = .active → isLingering st.state = false) ∧
    s.carriageListsOk ∧ s.carriageCountsOk ∧ s.balancesOk ∧ s.streamTotalsOk

/-! ## Plans -/

/-- A plan entry totals 80 slots, its CONTROL run is that of the frame it serves, its TICKET run is at most 16, and each
REPLAY run has from 1 to 32 slots (R133). -/
def PlanEntry.ok (e : PlanEntry) : Prop :=
  planTotal e.plan = 80 ∧
    (match e.frame with
      | none => e.plan.control = 4
      | some f => e.plan.control = controlRun f) ∧
    e.plan.ticket ≤ 16 ∧ ∀ r ∈ e.plan.replays, 1 ≤ r.slots ∧ r.slots ≤ 32

/-- Every plan in the Plan Window is whole, and every sector's T is at most 16 (R125, R133, R138). -/
def State.plansOk (s : State) : Prop :=
  tableWfDefault {} s.plans = true ∧ tableWfDefault {} s.sectors = true ∧
    (∀ sec, (s.sector sec).reservation ≤ 16) ∧ ∀ c, (s.planEntry c).ok

/-- Each sector of a list is the one after the sector before it, wrapping to 0 (R142). -/
def State.inPassOrder (s : State) : List SectorId → Bool
  | a :: b :: t => decide (b = s.sectorAfter a) && s.inPassOrder (b :: t)
  | [_] => true
  | [] => true

/-- A sector is REWRITING exactly while a running pass builds it; a pass builds the frame after the one on air, and takes
each sector in use at most once, from the start sector on in order (R138, R142). -/
def State.passOk (s : State) : Prop :=
  s.lifecycleOk ∧ 1 ≤ s.venue.sectorsInUse ∧ s.venue.sectorsInUse ≤ 32 ∧ s.startSector.val < s.venue.sectorsInUse ∧
    (∀ sec, (s.sector sec).planState = .rewriting ↔ ∃ pass, s.pass = some pass ∧ pass.building = sec) ∧
    ∀ pass, s.pass = some pass →
      pass.frame = s.clock.frame + 1 ∧ pass.building = s.startSector ∧ (pass.building :: pass.rest).Nodup ∧
        s.inPassOrder (pass.building :: pass.rest) = true ∧
        ∀ sec ∈ pass.building :: pass.rest, sec.val < s.venue.sectorsInUse

/-! ## Deadlines -/

/-- A deadline of a station lies no further ahead than the venue allows: at most 64 frames for a claim and at most 60,000
for a linger (R3, R28, R39). -/
def deadlineNear (now : FrameNo) (st : Station) : Prop :=
  match st.state with
  | .associated => True
  | .inHandover _ deadline _ => (deadline - now).toNat ≤ 64
  | .lingering deadline _ => (deadline - now).toNat ≤ 60000

/-- No deadline is left behind: the counter never passes one that has not been acted on (R11, log 6). -/
def State.deadlinesOk (s : State) : Prop :=
  s.lifecycleOk ∧ tableWf s.stations = true ∧ s.venue.handoverWindow ≤ 64 ∧ s.venue.lingerTime ≤ 60000 ∧
    ∀ h st, s.station? h = some st → deadlineNear s.clock.frame st

/-- Nothing is due that the last boundary has left: every claim deadline, linger deadline, drain and surge end that it
brought has been taken (R30, R46, R83, R14; log 6). -/
abbrev State.settled (s : State) : Prop :=
  (∀ e ∈ s.stations, claimDue s.clock.frame e.2 = false ∧ lingerDue s.clock.frame e.2 = false) ∧
    (∀ x, drainDue s.clock.frame (s.stream x).state = false) ∧
    ∀ g, s.surge = some g → g.endFrame ≠ s.clock.frame

/-! ## Frames -/

/-- Two states of a Port Unit agree on all that a notice does not reach: a notice changes the queue, the tail and the
attention requests (R162, R163). -/
structure PortFrame (u v : PortUnit) : Prop where
  role : v.role = u.role
  state : v.state = u.state
  producer : v.producer = u.producer
  consumer : v.consumer = u.consumer
  ring : v.ring = u.ring
  head : v.head = u.head
  enable : v.enable = u.enable
  overlong : v.overlong = u.overlong

/-- Two stations agree on all but the states of their subscriptions. -/
structure StationFrame (a b : Station) : Prop where
  address : b.address = a.address
  state : b.state = a.state
  serving : b.serving = a.serving
  sequence : b.sequence = a.sequence
  level : b.level = a.level
  ticket : b.ticket = a.ticket
  streams : b.subs.map (·.stream) = a.subs.map (·.stream)

/-- `t` is `s` but for what the joins, leaves, level moves and evaluations of the stations `hs` on the carriages `cs`
change (R100, R110 to R114): the states of those stations' subscriptions, those carriages with their places on their
cells' lists, the totals of their streams, and notices to REPLAY ports and to the owners of the carriages' cells. -/
structure SubscriptionFrame (hs : Handle → Prop) (cs : CellId → StreamId → Prop) (s t : State) : Prop where
  device : t.device = s.device
  venue : t.venue = s.venue
  clock : t.clock = s.clock
  latch : t.latch = s.latch
  surge : t.surge = s.surge
  addressMap : t.addressMap = s.addressMap
  handles : t.handles = s.handles
  tickets : t.tickets = s.tickets
  ticketMap : t.ticketMap = s.ticketMap
  loaded : t.loaded = s.loaded
  zones : t.zones = s.zones
  sectors : t.sectors = s.sectors
  plans : t.plans = s.plans
  pass : t.pass = s.pass
  startSector : t.startSector = s.startSector
  arbiter : t.arbiter = s.arbiter
  answer : t.answer = s.answer
  pending : t.pending = s.pending
  stations : ∀ h, ¬hs h → t.station? h = s.station? h
  own : ∀ h a, s.station? h = some a → ∃ b, t.station? h = some b ∧ StationFrame a b
  free : ∀ h, s.station? h = none → t.station? h = none
  carriages : ∀ c x, ¬cs c x → t.carriage? c x = s.carriage? c x
  lists : ∀ c x, ¬cs c x → (x ∈ (t.rosterEntry c).carriages ↔ x ∈ (s.rosterEntry c).carriages)
  counts : ∀ c, (t.rosterEntry c).count = (s.rosterEntry c).count ∧
    (t.rosterEntry c).pendingIn = (s.rosterEntry c).pendingIn
  streams : ∀ x, (t.stream x).state = (s.stream x).state ∧ (t.stream x).held = (s.stream x).held
  totals : ∀ x, (∀ c, ¬cs c x) → t.stream x = s.stream x
  ports : ∀ p, PortFrame (s.port p) (t.port p)
  quiet : ∀ p, isReplayPort (s.port p) = false → (∀ c x, cs c x → ownsCell (s.port p) c = false) →
    t.port p = s.port p

/-- The carriages that an evaluation of a station's list reaches: those of its streams in its serving cell (R110). -/
def carriagesOf (st : Station) (c : CellId) (x : StreamId) : Prop :=
  c = st.serving ∧ x ∈ st.subs.map (·.stream)

/-- The state of an entry as the first three checks of R98 decide it; where they pass, check 4 leaves it ACTIVE or
SUSPENDED NO_CARRIAGE. -/
def State.decided (s : State) (st : Station) (e : Subscription) : Prop :=
  if isLingering st.state then e.state = .suspended .lingering
  else if s.entitled st e.stream = false then e.state = .suspended .entitlement
  else if s.seated st e.stream = false then e.state = .suspended .away
  else e.state = .active ∨ e.state = .suspended .noCarriage

/-- Every entry on the list of station `h` stands as its checks decide it (R98, R100). -/
def State.evaluatedAt (s : State) (h : Handle) : Prop :=
  ∀ st e, s.station? h = some st → e ∈ st.subs → s.decided st e

/-! ## Commands in a ring -/

/-- Nothing that the last boundary has left is due any more, the Port Unit of `p` finds the command `cmd` to take, and its
code is that of `c` (R155, R167). -/
abbrev State.posts (s : State) (p : PortId) (c : Command) (cmd : Cmd) : Prop :=
  s.settled ∧ takeable (s.port p) = some cmd ∧ cmd.code = commandCode c

/-- The command that the Port Unit of `p` takes is `cmd`, a `c`, and it passes the checks of its length, of the port's
role and of the device state (R1, R156). -/
abbrev State.passes (s : State) (p : PortId) (c : Command) (cmd : Cmd) : Prop :=
  s.posts p c cmd ∧ lengthOk c cmd.elements.length = true ∧ permits (s.port p) c = true ∧
    stateRefusal s.device c = none

/-- The row of spec/opcode_table.json by which the Port Unit of `p` takes a command; an OPEN_MATCH is taken at `now`. -/
def rowOf (c : Command) (p : PortId) (now : Instant) : Instr :=
  match c with
  | .declarePort => .declarePort p
  | .setVenue => .setVenue p
  | .openMatch => .openMatch p now
  | .closeMatch => .closeMatch p
  | .readStation => .readStation p
  | .readTicket => .readTicket p
  | .readStream => .readStream p
  | .readCarriage => .readCarriage p
  | .readZone => .readZone p
  | .readCell => .readCell p
  | .associate => .associate p
  | .detach => .detach p
  | .reportLevel => .reportLevel p
  | .claim => .claim p
  | .release => .release p
  | .withdraw => .withdraw p
  | .setSectorPolicy => .setSectorPolicy p
  | .loadTickets => .loadTickets p
  | .admitTicket => .admitTicket p
  | .exitTicket => .exitTicket p
  | .voidTicket => .voidTicket p
  | .setZone => .setZone p
  | .bindTicket => .bindTicket p
  | .unbindTicket => .unbindTicket p
  | .openStream => .openStream p
  | .setStreamRate => .setStreamRate p
  | .closeStream => .closeStream p
  | .subscribe => .subscribe p
  | .unsubscribe => .unsubscribe p
  | .armMoment => .armMoment p

end Sys2Proof.Machine
end

