-- ==== Sys2Proof/WellFormed.lean ====
section
/-! DEFINITION. Which commands are well formed: the operands' types bound most of them; these checks say that each
row is used for the transfers and pins that are its own. -/

namespace Sys2Proof

/-- Whether `addr` names one of the words of port `p`'s own window that have write rows of their own: the producer
index, the notice head and the two attention words (R153). -/
def dedicatedWrite (p : PortId) (addr : WordAddr) : Bool :=
  let o := addr.toNat - p.val * 0x1000
  decide (p.val * 0x1000 ≤ addr.toNat) && (o == 0x600 || o == 0x602 || o == 0x604 || o == 0x605)

/-- Whether `addr` is the port control word of port `p`'s own window (R153). -/
def ownControlWord (p : PortId) (addr : WordAddr) : Bool :=
  addr.toNat == p.val * 0x1000 + 0x606

/-- Whether `addr` lies in the Plan Window, 10000H–2FFFFH (R153). -/
def inPlanWindow (addr : WordAddr) : Bool :=
  decide (0x4000 ≤ addr.toNat) && decide (addr.toNat < 0xC000)

/-- The command stands under its own row: a grant is asked for by some port (R150); a word write is not one of the
writes that have rows of their own, nor a port RESET (R152, R160); a word read is not a Plan Window read (R141). -/
def Instr.wellFormed : Instr → Bool
  | .reset => true
  | .declarePort _ => true
  | .setVenue _ => true
  | .openMatch _ _ => true
  | .closeMatch _ => true
  | .readStation _ => true
  | .readTicket _ => true
  | .readStream _ => true
  | .readCarriage _ => true
  | .readZone _ => true
  | .readCell _ => true
  | .associate _ => true
  | .detach _ => true
  | .reportLevel _ => true
  | .claim _ => true
  | .release _ => true
  | .withdraw _ => true
  | .setSectorPolicy _ => true
  | .loadTickets _ => true
  | .admitTicket _ => true
  | .exitTicket _ => true
  | .voidTicket _ => true
  | .setZone _ => true
  | .bindTicket _ => true
  | .unbindTicket _ => true
  | .openStream _ => true
  | .setStreamRate _ => true
  | .closeStream _ => true
  | .subscribe _ => true
  | .unsubscribe _ => true
  | .armMoment _ => true
  | .frameStrobe _ _ => true
  | .strobeLossExpiry _ => true
  | .dividerExpiry _ => true
  | .momentPulse _ => true
  | .surgeEnd => true
  | .claimDeadline => true
  | .lingerExpiry => true
  | .drainCompletion => true
  | .sectorBuildCompletion => true
  | .busGrant lines => lines != 0
  | .acknowledgeRaised _ => true
  | .grantWithdrawn _ => true
  | .acknowledgeDropped _ => true
  | .planWindowRead _ _ => true
  | .producerIndexWrite _ _ => true
  | .noticeHeadWrite _ _ => true
  | .attentionRequestSet _ _ => true
  | .attentionRequestClear _ _ => true
  | .attentionEnableSet _ _ => true
  | .attentionEnableClear _ _ => true
  | .portReset _ _ => true
  | .wordWrite p addr value => !dedicatedWrite p addr && !(ownControlWord p addr && value.getLsbD 31)
  | .badCodeElement _ => true
  | .overlongChain _ => true
  | .wordRead _ addr => !inPlanWindow addr

end Sys2Proof
end

