-- ==== Sys2Proof/Certificates/Slice0/Obligations.lean ====
section
/-! DEFINITION. The statements for the provers: what the rules of spec/ say the CZ-4160 does, and the invariants that
every step keeps. A command taken from a ring is `cmd`; `s.passes p c cmd` says that the Port Unit of `p` finds it there
and that it passes the checks of R1 and R156; `finishCommand p cmd r` is the state of the reply `r` with the completion
written into the ring (CompletionWritesTheElements says what that changes). -/

open Sys2Proof Sys2Proof.Machine

/-! ## The queue of events -/

/-- A step takes the command at the front of the queue, and idles on an empty queue (log 3). -/
def Obligations.StepRunsFrontCommand : Prop :=
  (∀ (c : Instr) (rest : List Instr) (s : State),
    step { s with pending := c :: rest } = exec c { s with pending := rest }) ∧
  ∀ s : State, s.pending = [] → step s = .next s

/-- Every row has a next state in every state, and no row touches the waiting queue. Every row but the four acts of a
boundary first takes what the last boundary has left due, so that a command, a build or the next boundary finds nothing due
(R30, R46, R83, R143). That a row whose event is not due has a next state too (logs 2 and 24), the queue itself (log 3), and
that what is left is taken in the order claim deadlines, linger expiries, drains, surge end (log 6), are the model's. -/
def Obligations.EveryRowRunsAndKeepsTheQueue : Prop :=
  (∀ (i : Instr) (s : State), ∃ t, exec i s = .next t ∧ t.pending = s.pending) ∧
  ∀ s : State, tableWf s.stations = true →
    ∃ s₁ s₂ s₃ u : State, exec .claimDeadline s = .next s₁ ∧ exec .lingerExpiry s₁ = .next s₂ ∧
      exec .drainCompletion s₂ = .next s₃ ∧ exec .surgeEnd s₃ = .next u ∧ u.settled ∧ (s.settled → u = s) ∧
      ∀ i : Instr, i ≠ .claimDeadline → i ≠ .lingerExpiry → i ≠ .drainCompletion → i ≠ .surgeEnd → exec i s = exec i u

/-- Where the last boundary has left nothing due, a row whose event is not due changes nothing: a command that is not there
to be taken, a command code or an over-long run that is not there to be completed, a transfer or an acknowledge of a port that
has no right to it, an expiry with nothing due or in another clock state, a pulse or a strobe that is ignored (logs 2 and 24;
R7, R8, R13, R151, R155, R156). -/
def Obligations.EventsNotDueChangeNothing : Prop :=
  (∀ s : State, s.settled →
    (∀ (c : Command) (p : PortId) (now : Instant),
      (∀ cmd, takeable (s.port p) = some cmd → cmd.code ≠ commandCode c) → exec (rowOf c p now) s = .next s) ∧
    (∀ p : PortId, (∀ cmd, takeable (s.port p) = some cmd → ∃ c, cmd.code = commandCode c) →
      exec (.badCodeElement p) s = .next s) ∧
    (∀ p : PortId, (s.port p).state = .quarantined ∨ posted (s.port p) = 0 ∨
        ((s.port p).overlong = none ∧ (posted (s.port p) < 5 ∨ ∃ i < 4, chained (s.port p) i = false)) →
      exec (.overlongChain p) s = .next s) ∧
    (∀ p : PortId, s.arbiter.holder ≠ some p →
      exec (.acknowledgeDropped p) s = .next s ∧
      (∀ w, exec (.planWindowRead p w) s = .next s) ∧ (∀ a, exec (.wordRead p a) s = .next s) ∧
      (∀ a v, exec (.wordWrite p a v) s = .next s) ∧ (∀ v, exec (.producerIndexWrite p v) s = .next s) ∧
      (∀ v, exec (.noticeHeadWrite p v) s = .next s) ∧
      ∀ b, exec (.attentionRequestSet p b) s = .next s ∧ exec (.attentionRequestClear p b) s = .next s ∧
        exec (.attentionEnableSet p b) s = .next s ∧ exec (.attentionEnableClear p b) s = .next s ∧
        exec (.portReset p b) s = .next s) ∧
    (∀ p : PortId, s.arbiter.grant ≠ some p →
      exec (.acknowledgeRaised p) s = .next s ∧ exec (.grantWithdrawn p) s = .next s) ∧
    (s.clock.state = .stopped →
      (∀ now early, exec (.frameStrobe now early) s = .next s) ∧
      ∀ early, exec (.strobeLossExpiry early) s = .next s ∧ exec (.dividerExpiry early) s = .next s) ∧
    (s.clock.state = .internal → ∀ early, exec (.strobeLossExpiry early) s = .next s) ∧
    (s.clock.state = .external → ∀ early, exec (.dividerExpiry early) s = .next s) ∧
    (∀ now early, now < s.clock.lastBoundary + 2560000 ∨ (s.clock.state = .internal ∧ s.venue.frameSource = .internal) →
      exec (.frameStrobe now early) s = .next s) ∧
    (∀ now : Instant, (∀ v m, s.latch ≠ .armed v m) → exec (.momentPulse now) s = .next s) ∧
    (s.pass = none → exec .sectorBuildCompletion s = .next s)) ∧
  (∀ s : State, (∀ g, s.surge = some g → g.endFrame ≠ s.clock.frame) → exec .surgeEnd s = .next s) ∧
  (∀ s : State, (∀ e ∈ s.stations, claimDue s.clock.frame e.2 = false) → exec .claimDeadline s = .next s) ∧
  (∀ s : State, (∀ e ∈ s.stations, lingerDue s.clock.frame e.2 = false) → exec .lingerExpiry s = .next s) ∧
  ∀ s : State, (∀ x, drainDue s.clock.frame (s.stream x).state = false) → exec .drainCompletion s = .next s

/-- RESET gives every record its value after RESET, and keeps the waiting events (R1, R2, R4, R7, R12, R18, R56, R61,
R108, R138, R150, R161). The values that the spec does not give — the instants of the last boundary and strobe, the REQ lines
as sampled, the last bus answer, and no over-long run — are the model's choice (log 8). -/
def Obligations.ResetReturnsEveryRecord : Prop :=
  ∀ s : State, ∃ t, exec .reset s = .next t ∧ t = { State.reset with pending := s.pending } ∧
    t.device = .setup ∧ t.venue = ⟨32, 32, 160, 3, 8, 24000, 2000, .external⟩ ∧
    t.clock.state = .stopped ∧ t.clock.frame = 0 ∧ t.latch = .disarmed ∧ t.surge = none ∧
    t.stations = [] ∧ t.addressMap = [] ∧ popHandle t.handles = some (0, ⟨[], 1⟩) ∧ handlesFree t.handles = 65536 ∧
    (∀ c, t.rosterEntry c = ⟨0, 0, []⟩) ∧ t.tickets = [] ∧ t.ticketMap = [] ∧ t.loaded = 0 ∧
    (∀ z, t.zone z = ⟨.closed, 0, 0, 0⟩) ∧ (∀ x, t.stream x = ⟨.idle, 0, 0, 0⟩) ∧
    t.carriages = [] ∧ t.freeCarriages = 4096 ∧ (∀ sec, t.sector sec = ⟨4, .normal, .stable, none⟩) ∧
    (∀ c, t.planEntry c = ⟨⟨4, 4, [], 72⟩, none, false⟩) ∧ t.pass = none ∧ t.startSector = 0 ∧
    (∀ p, t.port p = ⟨.none, .active, 0, 0, [], 0, 0, [], 0, 0, none⟩ ∧ attn (t.port p) = false) ∧
    t.arbiter.holder = none ∧ t.arbiter.grant = none ∧ t.arbiter.lastHolder = 3

/-! ## The Coordination Bus (chapter 10) -/

/-- The bus is granted to the first requesting port in the order last holder + 1, + 2, + 3, then the last holder, when
there is no holder and no outstanding grant; a granted port that acknowledges holds the bus; one that drops its request
loses the grant; a holder that drops its acknowledge frees the bus (R150, R151). That the REQ lines come with the events is
the model's choice (log 24). -/
def Obligations.BusIsGrantedInRotation : Prop :=
  (∀ (s : State) (lines : BitVec 4) (k : Fin 4), s.settled → s.arbiter.holder = none → s.arbiter.grant = none →
    lines.getLsbD (s.arbiter.lastHolder + 1 + k).val = true →
    (∀ j < k, lines.getLsbD (s.arbiter.lastHolder + 1 + j).val = false) →
    exec (.busGrant lines) s =
      .next { s with arbiter := ⟨none, some (s.arbiter.lastHolder + 1 + k), s.arbiter.lastHolder, lines⟩ }) ∧
  (∀ (s : State) (lines : BitVec 4), s.settled → s.arbiter.holder ≠ none ∨ s.arbiter.grant ≠ none →
    exec (.busGrant lines) s = .next { s with arbiter := { s.arbiter with request := lines } }) ∧
  (∀ (s : State) (p : PortId), s.settled → s.arbiter.grant = some p →
    exec (.acknowledgeRaised p) s = .next { s with arbiter := ⟨some p, none, p, s.arbiter.request⟩ } ∧
    ∃ lines : BitVec 4, lines.getLsbD p.val = false ∧
      (∀ q : PortId, q ≠ p → lines.getLsbD q.val = s.arbiter.request.getLsbD q.val) ∧
      exec (.grantWithdrawn p) s = .next { s with arbiter := ⟨s.arbiter.holder, none, s.arbiter.lastHolder, lines⟩ }) ∧
  ∀ (s : State) (p : PortId), s.settled → s.arbiter.holder = some p →
    exec (.acknowledgeDropped p) s = .next { s with arbiter := { s.arbiter with holder := none } }

/-- The holder's reads: every word of its own window as it stands, with the port control word of R170, and a word of a
plan entry, laid out as R169 says, which is answered RETRY when its cell is in the venue and its sector is REWRITING (R141,
R152, R153, R169, R170). That the entries of cells 512–1,023 stand at 20000H–2FFFFH, as R169 has it, against the sentence of
R153 that these words belong to no entry, is the model's choice (log 11). -/
def Obligations.HolderReadsItsWindowAndThePlans : Prop :=
  ∀ (s : State) (p : PortId), s.settled → s.arbiter.holder = some p →
    let u := s.port p
    let reads (o : Nat) (w : Word) : Prop :=
      exec (.wordRead p (BitVec.ofNat 22 (0x1000 * p.val + o))) s = .next { s with answer := some (.ackRead w) }
    let runs (e : PlanEntry) : List Nat :=
      [e.plan.control * 2 ^ 16] ++ (if e.plan.ticket = 0 then [] else [1 * 2 ^ 30 + e.plan.ticket * 2 ^ 16]) ++
        e.plan.replays.map (fun r => 2 * 2 ^ 30 + r.slots * 2 ^ 16 + r.stream.val * 2 ^ 8 + r.level.val) ++
        (if e.plan.general = 0 then [] else [3 * 2 ^ 30 + e.plan.general * 2 ^ 16])
    let word (e : PlanEntry) (j : Nat) : Word :=
      if j = 0 then
        match e.frame with
        | none => 0
        | some f => f
      else if j = 1 then
        BitVec.ofNat 32 ((if e.frame = none then 0 else 2 ^ 31) + (if e.held then 2 ^ 30 else 0) + (runs e).length % 32)
      else if j ≤ 20 then BitVec.ofNat 32 ((runs e).getD (j - 2) 0) else 0
    (u.state = .active →
      (∀ k < 1024, reads k (loadWord u.ring k)) ∧ (∀ k < 512, reads (0x400 + k) (loadWord u.queue k)) ∧
      reads 0x600 (BitVec.ofNat 32 u.producer.toNat) ∧ reads 0x601 (BitVec.ofNat 32 u.consumer.toNat) ∧
      reads 0x602 (BitVec.ofNat 32 u.head.toNat) ∧ reads 0x603 (BitVec.ofNat 32 u.tail.toNat) ∧
      reads 0x604 (BitVec.ofNat 32 u.request.toNat) ∧ reads 0x605 (BitVec.ofNat 32 u.enable.toNat) ∧
      ∀ (c : CellId) (j : Fin 32),
        exec (.planWindowRead p (BitVec.ofNat 15 (32 * c.val + j.val))) s =
          .next { s with
            answer :=
              if s.inVenue c = true ∧ (s.sector (sectorOf c)).planState = .rewriting then some .retry
              else some (.ackRead (word (s.planEntry c) j.val)) }) ∧
    reads 0x606 (BitVec.ofNat 32 (deviceStateCode s.device * 2 ^ 28 + portStateCode u.state * 2 ^ 24 +
      roleCode u.role * 2 ^ 16 +
      match u.role with
      | .cell first last => first.val * 2 ^ 8 + last.val
      | .none | .gate | .replay => 0))

/-- A transfer of an ACTIVE holder answered ERROR is a bus fault: with FAULT clear a FAULT notice is written and FAULT is
set, with FAULT set the port enters QUARANTINED; the word addressed keeps its value. A transfer of a QUARANTINED holder
other than to its own port control word, be it to the Plan Window, an index or an attention word, is answered ERROR and changes
nothing (R152, R154, R158, R159). Where in the FAULT
notice the direction stands is the model's reading (log 35). -/
def Obligations.ErrorFaultsAndThenQuarantines : Prop :=
  ∀ (s : State) (p : PortId), s.settled → s.arbiter.holder = some p →
    let u := s.port p
    let fault (a : WordAddr) (write : Bool) : State :=
      State.setPort { s with answer := some .error } p
        (if u.state = .quarantined then u
         else if u.request.getLsbD 3 then { u with state := .quarantined }
         else
          let v := deliver 0x16
            [BitVec.ofNat 32 (0x16 * 2 ^ 24 + 4 * a.toNat), 0, s.clock.frame, if write then 2 ^ 16 else 0]
            s.clock.frame u
          { v with request := v.request ||| 8 })
    (∀ a : WordAddr,
      (a.toNat < 0x1000 * p.val ∨ 0x1000 * p.val + 0x607 ≤ a.toNat) → (a.toNat < 0x4000 ∨ 0xC000 ≤ a.toNat) →
      exec (.wordRead p a) s = .next (fault a false) ∧ ∀ v, exec (.wordWrite p a v) s = .next (fault a true)) ∧
    (∀ (a : WordAddr) (v : Word), 0x4000 ≤ a.toNat → a.toNat < 0xC000 → exec (.wordWrite p a v) s = .next (fault a true)) ∧
    (∀ (o : Nat) (v : Word), o = 0x601 ∨ o = 0x603 ∨ (o < 1024 ∧ ∃ i < posted u, ringElement u i = o / 16) →
      exec (.wordWrite p (BitVec.ofNat 22 (0x1000 * p.val + o)) v) s =
        .next (fault (BitVec.ofNat 22 (0x1000 * p.val + o)) true)) ∧
    (∀ v : Word, 127 < v.toNat ∨ 63 < (v.setWidth 7 - u.consumer).toNat ∨ (v.setWidth 7 - u.consumer).toNat < posted u →
      exec (.producerIndexWrite p v) s = .next (fault (BitVec.ofNat 22 (0x1000 * p.val + 0x600)) true)) ∧
    (u.state = .quarantined →
      let turnedAway (i : Instr) : Prop := exec i s = .next { s with answer := some .error }
      (∀ a : WordAddr, a.toNat ≠ 0x1000 * p.val + 0x606 →
        turnedAway (.wordRead p a) ∧ ∀ v, turnedAway (.wordWrite p a v)) ∧
      (∀ w, turnedAway (.planWindowRead p w)) ∧
      (∀ v, turnedAway (.producerIndexWrite p v) ∧ turnedAway (.noticeHeadWrite p v)) ∧
      ∀ b, turnedAway (.attentionRequestSet p b) ∧ turnedAway (.attentionRequestClear p b) ∧
        turnedAway (.attentionEnableSet p b) ∧ turnedAway (.attentionEnableClear p b))

/-- The holder's writes that are answered ACK, apart from those with a statement of their own. A ring word of an element
that is not posted is replaced, and no other; a Notice Queue word and the port control word with its reset bit clear are
left. A producer index from 0 to 127 that keeps the posted count from falling and at or below 63 is taken; bits 7–0 of a
notice head write become the head when they free no more than is held, and otherwise every held entry is freed (R152, R153,
R154, R160, R162). -/
def Obligations.HolderWritesRingAndIndexWords : Prop :=
  ∀ (s : State) (p : PortId) (v : Word), s.settled → s.arbiter.holder = some p →
    let u := s.port p
    (v.getLsbD 31 = false →
      exec (.wordWrite p (BitVec.ofNat 22 (0x1000 * p.val + 0x606)) v) s = .next { s with answer := some .ackWrite }) ∧
    (u.state = .active →
      (∀ k < 1024, (∀ i < posted u, ringElement u i ≠ k / 16) →
        ∃ ring, exec (.wordWrite p (BitVec.ofNat 22 (0x1000 * p.val + k)) v) s =
            .next { s.setPort p { u with ring := ring } with answer := some .ackWrite } ∧
          loadWord ring k = v ∧ ∀ j, j ≠ k → loadWord ring j = loadWord u.ring j) ∧
      (∀ k < 512,
        exec (.wordWrite p (BitVec.ofNat 22 (0x1000 * p.val + 0x400 + k)) v) s =
          .next { s with answer := some .ackWrite }) ∧
      (v.toNat ≤ 127 → (v.toNat + 128 - u.consumer.toNat) % 128 ≤ 63 →
        posted u ≤ (v.toNat + 128 - u.consumer.toNat) % 128 →
        ∃ u', exec (.producerIndexWrite p v) s = .next { s.setPort p u' with answer := some .ackWrite } ∧
          u' = { u with producer := BitVec.ofNat 7 v.toNat } ∧
          posted u' = (v.toNat + 128 - u.consumer.toNat) % 128) ∧
      ∃ u', exec (.noticeHeadWrite p v) s = .next { s.setPort p u' with answer := some .ackWrite } ∧
        u' = { u with head := u'.head } ∧
        let freed := (v.toNat + 256 - u.head.toNat) % 256
        if freed ≤ heldNotices u then
          u'.head.toNat = v.toNat % 256 ∧ heldNotices u' = heldNotices u - freed
        else u'.head = u.tail ∧ heldNotices u' = 0)

/-- The attention writes of an ACTIVE holder: the set form sets each bit written as 1 and the clear form clears it, in
the request word and in the enable word, which alone has MASTER; the other bits are left as they were (R165). -/
def Obligations.AttentionWritesSetAndClear : Prop :=
  ∀ (s : State) (p : PortId) (bits : BitVec 31), s.settled → s.arbiter.holder = some p → (s.port p).state = .active →
    let u := s.port p
    ∃ r₁ r₂ : BitVec 4, ∃ e₁ e₂ : BitVec 5,
      exec (.attentionRequestSet p bits) s =
        .next { s.setPort p { u with request := r₁ } with answer := some .ackWrite } ∧
      exec (.attentionRequestClear p bits) s =
        .next { s.setPort p { u with request := r₂ } with answer := some .ackWrite } ∧
      exec (.attentionEnableSet p bits) s =
        .next { s.setPort p { u with enable := e₁ } with answer := some .ackWrite } ∧
      exec (.attentionEnableClear p bits) s =
        .next { s.setPort p { u with enable := e₂ } with answer := some .ackWrite } ∧
      (∀ i < 4, r₁.getLsbD i = (u.request.getLsbD i || bits.getLsbD i) ∧
        r₂.getLsbD i = (u.request.getLsbD i && !bits.getLsbD i)) ∧
      ∀ i < 5, e₁.getLsbD i = (u.enable.getLsbD i || bits.getLsbD i) ∧
        e₂.getLsbD i = (u.enable.getLsbD i && !bits.getLsbD i)

/-- ATTN is asserted exactly while MASTER is enabled and a request bit and its enable bit are both set. At a QUARANTINED
port it stays asserted until a port RESET, which drops the line: every other row but RESET leaves the enable word and takes
no request away, and a boundary sets FRAME (R166). -/
def Obligations.AttnFollowsRequestAndEnable : Prop :=
  (∀ u : PortUnit, attn u = true ↔
    u.enable.getLsbD 4 = true ∧ ∃ i < 4, u.request.getLsbD i = true ∧ u.enable.getLsbD i = true) ∧
  (∀ (i : Instr) (s t : State) (p : PortId), (s.port p).state = .quarantined → i.wellFormed = true → i ≠ .reset →
    (∀ rest, i ≠ .portReset p rest) → exec i s = .next t →
    (t.port p).enable = (s.port p).enable ∧ (attn (s.port p) = true → attn (t.port p) = true)) ∧
  (∀ (s : State) (p : PortId) (now : Instant) (early : List BoundaryAct),
    ((s.boundary now early).port p).request.getLsbD 2 = true) ∧
  ∀ (s : State) (p : PortId) (rest : BitVec 31), s.arbiter.holder = some p →
    ∃ t, exec (.portReset p rest) s = .next t ∧ (t.port p).request = 0 ∧ (t.port p).enable = 0 ∧ attn (t.port p) = false

/-- A port RESET, in either port state: the port becomes ACTIVE, its indexes 0, its queue empty, its attention words
clear; the ring and queue contents, the role and everything outside the port are kept (R160). That it ends an over-long
run is the model's choice (log 22). -/
def Obligations.PortResetClearsThePort : Prop :=
  ∀ (s : State) (p : PortId) (rest : BitVec 31), s.settled → s.arbiter.holder = some p →
    let u := s.port p
    ∃ t, exec (.portReset p rest) s = .next t ∧
      t = { s.setPort p ⟨u.role, .active, 0, 0, u.ring, 0, 0, u.queue, 0, 0, none⟩ with answer := some .ackWrite } ∧
      posted (t.port p) = 0 ∧ heldNotices (t.port p) = 0 ∧ attn (t.port p) = false

/-- While a port is QUARANTINED no row but RESET and its own port RESET changes anything of the port but the FRAME
request, which boundaries go on setting (R159, R165). -/
def Obligations.QuarantineFreezesThePort : Prop :=
  ∀ (i : Instr) (s t : State) (p : PortId), (s.port p).state = .quarantined → i.wellFormed = true → i ≠ .reset →
    (∀ rest, i ≠ .portReset p rest) → exec i s = .next t →
    t.port p = s.port p ∨ t.port p = { s.port p with request := (s.port p).request ||| 4 }

/-! ## The Command Rings (chapter 10) -/

/-- A command is taken exactly when its one to four elements are posted: every element but the last carries CHAIN; the
port is ACTIVE and no over-long run is being continued. Its code, tag and NOTIFY flag are the first element's (R155,
R159). -/
def Obligations.CommandIsTakenWhole : Prop :=
  (∀ (u : PortUnit) (cmd : Cmd), takeable u = some cmd →
    u.state = .active ∧ u.overlong = none ∧ 1 ≤ cmd.elements.length ∧ cmd.elements.length ≤ 4 ∧ cmd.elements.length ≤ posted u ∧
    (∀ i, i + 1 < cmd.elements.length → chained u i = true) ∧ chained u (cmd.elements.length - 1) = false ∧
    cmd.code = (elementWord u (elementIndex u.consumer) 0).setWidth 8 ∧
    cmd.tag = elementWord u (elementIndex u.consumer) 1 ∧
    cmd.notify = (elementWord u (elementIndex u.consumer) 0).getLsbD 29 ∧
    ∀ i < cmd.elements.length, ∀ j < 16, cmd.word i j = elementWord u ((elementIndex u.consumer + i) % 64) j) ∧
  ∀ (u : PortUnit) (n : Nat), u.state = .active → u.overlong = none → 1 ≤ n → n ≤ 4 → n ≤ posted u →
    (∀ i, i + 1 < n → chained u i = true) → chained u (n - 1) = false →
    ∃ cmd, takeable u = some cmd ∧ cmd.elements.length = n

/-- A command whose code is its row's is checked for its number of elements, its port's role and the device state, in
that order, and the first check that fails completes it with its status and changes no record; `passes` is what the commands'
own rules are stated for (R1, R156). The codes are those of R167. -/
def Obligations.PortUnitChecksInOrder : Prop :=
  (∀ (c : Command) (p : PortId) (now : Instant) (s : State) (cmd : Cmd), s.posts p c cmd →
    let n := cmd.elements.length
    let role := (s.port p).role
    let badLength : Prop := match c with
      | .setVenue => n ≠ 2
      | .loadTickets => False
      | _ => n ≠ 1
    let mayIssue : Prop := match c with
      | .declarePort => True
      | .setVenue | .openMatch | .closeMatch | .readStation | .readTicket | .readStream | .readCarriage | .readZone
      | .readCell => role ≠ .none
      | .associate | .detach | .reportLevel | .claim | .release | .withdraw | .setSectorPolicy =>
        ∃ first last, role = .cell first last
      | .loadTickets | .admitTicket | .exitTicket | .voidTicket | .setZone | .bindTicket | .unbindTicket => role = .gate
      | .openStream | .setStreamRate | .closeStream | .subscribe | .unsubscribe | .armMoment => role = .replay
    let setupOnly : Prop := c = .declarePort ∨ c = .setVenue ∨ c = .openMatch
    let either : Prop := c = .loadTickets ∨ c = .readStation ∨ c = .readTicket ∨ c = .readStream ∨
      c = .readCarriage ∨ c = .readZone ∨ c = .readCell
    (badLength → exec (rowOf c p now) s = .next (finishCommand p cmd ⟨.badLength, [], s⟩)) ∧
    (¬badLength → ¬mayIssue → exec (rowOf c p now) s = .next (finishCommand p cmd ⟨.notPermitted, [], s⟩)) ∧
    (¬badLength → mayIssue → s.device = .service → setupOnly →
      exec (rowOf c p now) s = .next (finishCommand p cmd ⟨.notInSetup, [], s⟩)) ∧
    (¬badLength → mayIssue → s.device = .setup → ¬setupOnly → ¬either →
      exec (rowOf c p now) s = .next (finishCommand p cmd ⟨.notOpen, [], s⟩)) ∧
    (s.passes p c cmd ↔
      ¬badLength ∧ mayIssue ∧ (s.device = .service → ¬setupOnly) ∧ (s.device = .setup → setupOnly ∨ either))) ∧
  [Command.declarePort, .setVenue, .openMatch, .closeMatch, .readStation, .readTicket, .readStream, .readCarriage,
      .readZone, .readCell].map (fun c => (commandCode c).toNat) = [1, 2, 3, 4, 5, 6, 7, 8, 9, 10] ∧
  [Command.associate, .detach, .reportLevel, .claim, .release, .withdraw, .setSectorPolicy].map
      (fun c => (commandCode c).toNat) = [0x10, 0x11, 0x12, 0x13, 0x14, 0x15, 0x16] ∧
  [Command.loadTickets, .admitTicket, .exitTicket, .voidTicket, .setZone, .bindTicket, .unbindTicket].map
      (fun c => (commandCode c).toNat) = [0x20, 0x21, 0x22, 0x23, 0x24, 0x25, 0x26] ∧
  [Command.openStream, .setStreamRate, .closeStream, .subscribe, .unsubscribe, .armMoment].map
      (fun c => (commandCode c).toNat) = [0x30, 0x31, 0x32, 0x33, 0x34, 0x35]

/-- The completion of a command of one to four elements: in each element DONE and FAILED, the status code, and the result
words, which are 0 in all but the first; the code, tag, flags and operands and every other ring word are left; the
consumer index passes them all; RING is set when the command carries NOTIFY; nothing else changes (R157). The items of a
result stand in order from the high byte of word 8 down, one that would cross a word boundary, and an address or number, at
the next word, and unused bytes are 0 (R167). That a result which does not fit the eight words in this way is written across
word boundaries where it would otherwise overrun, so that no item is lost, that an address or number stands low half
first in a result as it does in operands, and what else R167 leaves open of the items, is the model's (logs 12 to 16 and 34). -/
def Obligations.CompletionWritesTheElements : Prop :=
  (∀ (p : PortId) (cmd : Cmd) (st : Status) (items : List Item) (t : State),
    1 ≤ cmd.elements.length → cmd.elements.length ≤ 4 →
    let u := t.port p
    let n := cmd.elements.length
    ∃ v, finishCommand p cmd ⟨st, items, t⟩ = t.setPort p v ∧
      v = { u with ring := v.ring, consumer := u.consumer + BitVec.ofNat 7 n,
                   request := if cmd.notify then u.request ||| 2 else u.request } ∧
      (∀ i < n,
        let e := ringElement u i
        let old := elementWord u e 0
        let new := elementWord v e 0
        new.getLsbD 31 = true ∧ (new.getLsbD 30 = true ↔ st ≠ .ok ∧ st ≠ .accepted) ∧
        (∀ b < 8, new.getLsbD (16 + b) = (statusCode st).getLsbD b) ∧
        (∀ b < 32, b ≠ 31 → b ≠ 30 → ¬(16 ≤ b ∧ b ≤ 23) → new.getLsbD b = old.getLsbD b) ∧
        (∀ j, 1 ≤ j → j < 8 → elementWord v e j = elementWord u e j) ∧
        ∀ j < 8, elementWord v e (8 + j) = if i = 0 then (resultWords items).getD j 0 else 0) ∧
      ∀ k, (∀ i < n, ringElement u i ≠ k / 16) → loadWord v.ring k = loadWord u.ring k) ∧
  (∀ items : List Item,
    let size (i : Item) : Nat := match i with
      | .bytes n _ => n
      | .wide _ => 8
    let alignedEnd (pos : Nat) (i : Item) : Nat := match i with
      | .bytes n _ => (if pos % 4 + n ≤ 4 then pos else (pos + 3) / 4 * 4) + n
      | .wide _ => (pos + 3) / 4 * 4 + 8
    let closeEnd (pos : Nat) (i : Item) : Nat := match i with
      | .bytes n _ => pos + n
      | .wide _ => (pos + 3) / 4 * 4 + 8
    let byte (k : Nat) : Nat := ((resultWords items).getD (k / 4) 0).toNat / 256 ^ (3 - k % 4) % 256
    let standsAt (q : Nat) (i : Item) : Prop := match i with
      | .bytes n v => ∀ j < n, byte (q + j) = v / 256 ^ (n - 1 - j) % 256
      | .wide v => ∀ j < 4, byte (q + j) = v.toNat / 256 ^ (3 - j) % 256 ∧ byte (q + 4 + j) = v.toNat / 256 ^ (7 - j) % 256
    (resultWords items).length = 8 ∧
    (items.foldl alignedEnd 0 ≤ 32 →
      (∀ before i after, items = before ++ i :: after → standsAt (alignedEnd (before.foldl alignedEnd 0) i - size i) i) ∧
      ∀ k < 32,
        (∀ before i after, items = before ++ i :: after →
          k < alignedEnd (before.foldl alignedEnd 0) i - size i ∨ alignedEnd (before.foldl alignedEnd 0) i ≤ k) →
        byte k = 0) ∧
    (items.foldl closeEnd 0 ≤ 32 →
      ∃ place : Nat → Nat, ∀ n i, items[n]? = some i → place n + size i ≤ 32 ∧ standsAt (place n) i ∧
        ∀ m j, m < n → items[m]? = some j → place m + size j ≤ place n)) ∧
  [Status.ok, .accepted, .badCode, .badLength, .badOperand, .notPermitted, .notOpen, .notInSetup, .overlap,
      .unownedSector, .notOwner, .tableFull, .cellFull, .unknownStation, .already, .notAssociated, .sameCell, .contested,
      .stale, .noClaim, .notServing, .notClaimant, .unknownTicket, .duplicate, .gatesClosed, .wrongZone, .noReentry,
      .voided, .zoneFull, .notAdmitted, .boundElsewhere, .stationBound, .streamBusy, .streamClosed, .subLimit,
      .notSubscribed, .alreadyIn].map (fun st => (statusCode st).toNat) = List.range 37 ∧
  ([deviceStateCode .setup, deviceStateCode .service] = [0, 1] ∧ [portStateCode .active, portStateCode .quarantined] = [0, 1] ∧
    (∀ a b, [roleCode .none, roleCode (.cell a b), roleCode .gate, roleCode .replay] = [0, 1, 2, 3]) ∧
    [ticketClassCode .basic, ticketClassCode .premium] = [1, 2] ∧
    [streamClassCode .anyone, streamClassCode .basic, streamClassCode .premium] = [0, 1, 2] ∧
    [zoneStateCode .closed, zoneStateCode .opened, zoneStateCode .exitOnly] = [0, 1, 2] ∧
    [priorityCode .normal, priorityCode .priority] = [0, 1] ∧
    (∀ c d g, [stationStateCode .associated, stationStateCode (.inHandover c d g), stationStateCode (.lingering d g)] =
      [0, 1, 2]) ∧
    [entryStateCode .issued, entryStateCode .admitted, entryStateCode .exited, entryStateCode .voided] = [0, 1, 2, 3] ∧
    (∀ i g f, [streamStateCode .idle, streamStateCode (.live i), streamStateCode (.draining i g f)] = [0, 1, 2]) ∧
    [reasonCode .lingering, reasonCode .entitlement, reasonCode .away, reasonCode .noCarriage] = [0, 1, 2, 3] ∧
    [modeCode .unicast, modeCode .multicast, modeCode .held] = [0, 1, 2])

/-- A command whose code is none of the part's is completed BAD_CODE and changes no record; five posted elements with the
first four carrying CHAIN are completed BAD_LENGTH, each with zero results, whatever the fifth carries, and with them
every posted element that continues the run, to the first with CHAIN clear; a run that the posted elements do not end goes on
in the same way when more are posted. Tags, operands and every other ring word are left (R155, R156, R157). That each element
of the run sets RING as the run's first element asks with NOTIFY, that one event completes every posted element of
the run, and that the run is remembered between, is the model's (log 22). -/
def Obligations.UnknownCodesAndOverlongRunsAreCompleted : Prop :=
  ∀ (p : PortId) (s : State), s.settled →
    let u := s.port p
    let continued (n : Nat) : Prop :=
      n ≤ posted u ∧ posted u ≤ 63 ∧ (n = posted u ∨ chained u (n - 1) = false)
    let completes (n : Nat) (notify : Bool) : Prop :=
      ∃ v, exec (.overlongChain p) s = .next (s.setPort p v) ∧
        v = { u with ring := v.ring, consumer := u.consumer + BitVec.ofNat 7 n
                     overlong := if chained u (n - 1) then some notify else none
                     request := if notify then u.request ||| 2 else u.request } ∧
        (∀ i < n, elementWord v (ringElement u i) 0 = completedWord (elementWord u (ringElement u i) 0) .badLength ∧
          (∀ j, 1 ≤ j → j < 8 → elementWord v (ringElement u i) j = elementWord u (ringElement u i) j) ∧
          ∀ j < 8, elementWord v (ringElement u i) (8 + j) = 0) ∧
        ∀ k, (∀ i < n, ringElement u i ≠ k / 16) → loadWord v.ring k = loadWord u.ring k
    (∀ cmd, takeable u = some cmd → (∀ c, cmd.code ≠ commandCode c) →
      exec (.badCodeElement p) s = .next (finishCommand p cmd ⟨.badCode, [], s⟩)) ∧
    (∀ n, u.state = .active → u.overlong = none → (∀ i < 4, chained u i = true) → 5 ≤ n → continued n →
      (∀ i, 4 ≤ i → i + 1 < n → chained u i = true) → completes n (notifying u 0)) ∧
    ∀ (notify : Bool), u.state = .active → u.overlong = some notify →
      (posted u = 0 → exec (.overlongChain p) s = .next s) ∧
      ∀ n, 1 ≤ n → continued n → (∀ i, i + 1 < n → chained u i = true) → completes n notify

/-! ## The Notice Queues (chapter 11) -/

/-- A notice for an ACTIVE port is written into the entry at the tail when more than one entry is free; when one is free,
OVERFLOW is written there in its place; when none is free, the count and the mask of the last entry, the OVERFLOW, take it.
Each sets NOTICE. At a QUARANTINED port it is discarded (R159, R162, R163, R168). The record of each kind is that of R168, its
subjects filled from the high bit down; where R168 gives no widths the value stands as a plain number, the reason before of an
entry that was ACTIVE and the cap of a CARRIAGE_MODE without a test are free values, and the sum of the latter is 0 (logs 18,
19 and 35). -/
def Obligations.NoticesFillTheQueueUpToAnOverflow : Prop :=
  (∀ (kind : Nat) (w₀ w₁ w₂ w₃ : Word) (now : FrameNo) (u : PortUnit), kind < 32 →
    let v := deliver kind [w₀, w₁, w₂, w₃] now u
    let entry (m : PortUnit) (e j : Nat) : Word := loadWord m.queue (4 * e + j)
    let at_ := u.tail.toNat % 128
    let last := (u.tail - 1).toNat % 128
    (u.state = .quarantined → v = u) ∧
    (u.state = .active → heldNotices u ≤ 128 →
      v = { u with queue := v.queue, tail := v.tail, request := u.request ||| 1 } ∧
      (heldNotices u < 127 →
        v.tail = u.tail + 1 ∧ entry v at_ 0 = w₀ ∧ entry v at_ 1 = w₁ ∧ entry v at_ 2 = w₂ ∧ entry v at_ 3 = w₃ ∧
        ∀ e j, e ≠ at_ → j < 4 → entry v e j = entry u e j) ∧
      (heldNotices u = 127 →
        v.tail = u.tail + 1 ∧ heldNotices v = 128 ∧ entry v at_ 0 = 0x17000001 ∧ entry v at_ 1 = 0 ∧
        entry v at_ 2 = now ∧ entry v at_ 3 = BitVec.ofNat 32 (2 ^ kind) ∧
        ∀ e j, e ≠ at_ → j < 4 → entry v e j = entry u e j) ∧
      (heldNotices u = 128 →
        v.tail = u.tail ∧
        (entry v last 0).toNat = 0x17 * 2 ^ 24 + min ((entry u last 0).toNat % 2 ^ 24 + 1) 16777215 ∧
        entry v last 1 = entry u last 1 ∧ entry v last 2 = entry u last 2 ∧
        entry v last 3 = entry u last 3 ||| BitVec.ofNat 32 (2 ^ kind) ∧
        ∀ e j, e ≠ last → j < 4 → entry v e j = entry u e j))) ∧
  ∀ (tag : Tag) (frame now : FrameNo),
    let writes (n : Notice) (kind subject1 subject2 detail : Nat) : Prop :=
      noticeKind n = kind ∧ noticeRecord n tag frame now =
        [BitVec.ofNat 32 (kind * 2 ^ 24 + subject1), tag, frame, BitVec.ofNat 32 (subject2 * 2 ^ 16 + detail)]
    (∀ (h : Handle) (q : BitVec 8) (a b : CellId) (left : Nat), h < 65536 → left < 64 →
      let subject := h * 2 ^ 8 + q.toNat
      writes (.releaseRequest h q a b (now + 1 + BitVec.ofNat 32 left)) 0x01 subject (a.val * 2 ^ 6 + left) (b.val * 2 ^ 6) ∧
      writes (.handoverDone h q a b false) 0x02 subject (a.val * 2 ^ 6) (b.val * 2 ^ 6) ∧
      writes (.handoverDone h q a b true) 0x02 subject (a.val * 2 ^ 6 + 2 ^ 5) (b.val * 2 ^ 6) ∧
      writes (.handoverForced h q a b) 0x03 subject (a.val * 2 ^ 6) (b.val * 2 ^ 6) ∧
      writes (.claimWithdrawn h q a b) 0x04 subject (a.val * 2 ^ 6) (b.val * 2 ^ 6) ∧
      writes (.claimLapsed h q a b) 0x05 subject (a.val * 2 ^ 6) (b.val * 2 ^ 6) ∧
      writes (.lingerExpired h a) 0x06 (h * 2 ^ 8) (a.val * 2 ^ 6) 0) ∧
    (∀ (h : Handle) (x : StreamId) (c : CellId) (r before : Reason), h < 65536 →
      let subject := h * 2 ^ 8 + x.val * 2 ^ 4
      (∃ free < 4, writes (.subSuspended h x r .active c) 0x07 (subject + reasonCode r * 2 ^ 2)
        (2 ^ 15 + free * 2 ^ 13 + c.val * 2 ^ 3) 0) ∧
      writes (.subSuspended h x r (.suspended before) c) 0x07 (subject + reasonCode r * 2 ^ 2)
        (reasonCode before * 2 ^ 13 + c.val * 2 ^ 3) 0 ∧
      writes (.subResumed h x before c) 0x08 (subject + reasonCode before * 2 ^ 2) (c.val * 2 ^ 6) 0 ∧
      writes (.subRemoved h x false) 0x09 subject 0 0 ∧ writes (.subRemoved h x true) 0x09 subject 0 1) ∧
    (∀ (x : StreamId) (subscriptions carriages : Nat), subscriptions < 2 ^ 17 → carriages < 2 ^ 11 →
      writes (.streamEnded subscriptions carriages x) 0x0A (subscriptions * 2 ^ 7 + x.val * 2 ^ 3) (carriages * 2 ^ 5) 0) ∧
    (∀ (c : CellId) (x : StreamId) (count : Nat) (before : Mode) (starved : Bool) (l : Level), count < 256 →
      let subject := c.val * 2 ^ 14 + x.val * 2 ^ 10 + count * 2 ^ 2
      let flag := if starved then 2 ^ 13 else 0
      (∀ after : Option Mode,
        let mode := match after with
          | some m => modeCode m * 2 ^ 14
          | none => 3 * 2 ^ 14
        (∀ sum cap : Nat, sum < 2 ^ 13 → cap < 128 →
          writes (.carriageMode c x count before after starved (some (sum, cap)) l) 0x0B (subject + modeCode before)
            (mode + flag + 2 ^ 12 + l.val * 2 ^ 9 + cap * 2 ^ 2) (sum * 2 ^ 3)) ∧
        ∃ free < 128, writes (.carriageMode c x count before after starved none l) 0x0B (subject + modeCode before)
          (mode + flag + l.val * 2 ^ 9 + free * 2 ^ 2) 0) ∧
      ∀ cost sum cap : Nat, cost < 512 → sum < 2 ^ 13 → cap < 128 →
        writes (.carriageHeld c x count cost sum cap l) 0x0C subject (cost * 2 ^ 7 + cap) (sum * 2 ^ 3 + l.val)) ∧
    (∀ (c : CellId) (x : StreamId) (l : Level) (g w b rate : Nat), g < 64 → w < 65536 → b < 65536 → rate < 65536 →
      let subject := c.val * 2 ^ 14 + x.val * 2 ^ 10 + l.val * 2 ^ 7 + g * 2
      writes (.starved c x l g w rate) 0x0D subject w rate ∧ writes (.recovered c x l g b rate) 0x0E subject b rate) ∧
    (∀ (t : TicketHandle) (h : Handle), t < 2 ^ 17 → h < 65536 →
      writes (.bindingCleared t h .unbind) 0x0F (t * 2 ^ 7) h 0 ∧ writes (.bindingCleared t h .move) 0x0F (t * 2 ^ 7) h 1 ∧
      writes (.bindingCleared t h .voiding) 0x0F (t * 2 ^ 7) h 2 ∧ writes (.bindingCleared t h .expiry) 0x0F (t * 2 ^ 7) h 3) ∧
    (∀ (n : Nat) (first completed : SectorId), n < 64 →
      writes (.overrun n first completed) 0x10 (n * 2 ^ 18) (first.val * 2 ^ 11) (completed.val * 2 ^ 11)) ∧
    (∀ (slot : Nat) (value mask : SectorId), slot < 128 →
      writes (.moment slot value mask) 0x11 (slot * 2 ^ 17) (value.val * 2 ^ 11 + mask.val * 2 ^ 6) 0) ∧
    writes .clockFallback 0x12 0 0 0 ∧ writes .clockRestored 0x13 0 0 0 ∧ writes .matchOpen 0x14 0 0 0 ∧
    writes .matchClosed 0x15 0 0 0 ∧
    ∀ a : WordAddr, writes (.fault a false) 0x16 (4 * a.toNat) 0 0 ∧ writes (.fault a true) 0x16 (4 * a.toNat) 1 0

/-! ## Match Control and the Frame Clock (chapter 1) -/

/-- DECLARE_PORT gives the port a role, and a CELL port its range, in place of the earlier declaration; a bad role, an
inverted range or a range beyond the sectors in use is refused BAD_OPERAND, and a range that shares a sector with another
CELL port's is refused OVERLAP with the lowest such port and sector (R2). -/
def Obligations.DeclarePortReplacesTheDeclaration : Prop :=
  ∀ (s : State) (p : PortId) (cmd : Cmd), s.passes p .declarePort cmd →
    let replies (st : Status) (items : List Item) (t : State) : Prop :=
      exec (.declarePort p) s = .next (finishCommand p cmd ⟨st, items, t⟩)
    let declares (r : Role) : Prop :=
      replies .ok [.bytes 1 (roleCode (s.port p).role)] (s.setPort p { s.port p with role := r })
    (cmd.op 2 = 0 → declares .none) ∧ (cmd.op 2 = 2 → declares .gate) ∧ (cmd.op 2 = 3 → declares .replay) ∧
    (3 < (cmd.op 2).toNat → replies .badOperand [] s) ∧
    (cmd.op 2 = 1 → (cmd.op 4).toNat < (cmd.op 3).toNat ∨ s.venue.sectorsInUse ≤ (cmd.op 4).toNat →
      replies .badOperand [] s) ∧
    ∀ a b : SectorId, cmd.op 2 = 1 → (cmd.op 3).toNat = a.val → (cmd.op 4).toNat = b.val → a ≤ b →
      b.val < s.venue.sectorsInUse →
      ((∀ q sec, q ≠ p → a ≤ sec → sec ≤ b → ownsSector (s.port q) sec = false) → declares (.cell a b)) ∧
      ∀ q sec, q ≠ p → a ≤ sec → sec ≤ b → ownsSector (s.port q) sec = true →
        (∀ q' sec', q' < q → q' ≠ p → a ≤ sec' → sec' ≤ b → ownsSector (s.port q') sec' = false) →
        (∀ sec', a ≤ sec' → sec' < sec → ownsSector (s.port q) sec' = false) →
        replies .overlap [.bytes 1 q.val, .bytes 1 sec.val] s

/-- SET_VENUE replaces all eight values at once, five of them brought into their ranges, and reports each as taken with a
mark for each that was clamped; the three values that are not clamped, and a CELL range beyond the new number of sectors,
are refused BAD_OPERAND with the venue unchanged (R3). That the result's marks stand in one byte, the first item's in
bit 0, and that operand ranges are tested before the port ranges, is the model's (logs 14, 26). -/
def Obligations.SetVenueTakesItsEightValues : Prop :=
  ∀ (s : State) (p : PortId) (cmd : Cmd), s.passes p .setVenue cmd →
    let replies (st : Status) (items : List Item) (t : State) : Prop :=
      exec (.setVenue p) s = .next (finishCommand p cmd ⟨st, items, t⟩)
    let w (k j : Nat) : Nat := (cmd.word k j).toNat
    let beyond (q : PortId) : Prop := ∃ first last, (s.port q).role = .cell first last ∧ w 0 2 ≤ last.val
    let cellLimit := max 1 (min 255 (w 0 4))
    let threshold := max 1 (min 32 (w 0 5))
    let window := max 2 (min 64 (w 1 2))
    let linger := max 200 (min 60000 (w 1 3))
    let surge := min 4000 (w 1 4)
    (1 ≤ w 0 2 → w 0 2 ≤ 32 → 1 ≤ w 0 3 → w 0 3 ≤ 32 → w 1 5 ≤ 1 → (∀ q, ¬beyond q) →
      let source := if w 1 5 = 0 then FrameSource.external else .internal
      replies .ok
        [.bytes 1 (w 0 2), .bytes 1 (w 0 3), .bytes 1 cellLimit, .bytes 1 threshold, .bytes 1 window, .bytes 2 linger,
          .bytes 2 surge, .bytes 1 (w 1 5),
          itemMarks [false, false, decide (cellLimit ≠ w 0 4), decide (threshold ≠ w 0 5), decide (window ≠ w 1 2),
            decide (linger ≠ w 1 3), decide (surge ≠ w 1 4), false]]
        { s with venue := ⟨w 0 2, w 0 3, cellLimit, threshold, window, linger, surge, source⟩ }) ∧
    (w 0 2 = 0 ∨ 32 < w 0 2 ∨ w 0 3 = 0 ∨ 32 < w 0 3 ∨ 1 < w 1 5 → replies .badOperand [] s) ∧
    ∀ q, 1 ≤ w 0 2 → w 0 2 ≤ 32 → 1 ≤ w 0 3 → w 0 3 ≤ 32 → w 1 5 ≤ 1 → beyond q → (∀ q' < q, ¬beyond q') →
      replies .badOperand [.bytes 1 q.val] s

/-- OPEN_MATCH, every sector in use being owned and the start sector 0 as RESET and CLOSE_MATCH leave it: SERVICE, the
clock at frame 0 from this instant in the configured source, every plan the default one with CONTROL 8, frame 0 and the
held mark, and the pass for frame 1 begun at sector 0; then MATCH_OPEN to every declared port. Otherwise it is refused
UNOWNED_SECTOR with the lowest unowned sector (R5, R142, R149). That every sector record then shows built-for frame 0,
that the instant is carried by the command, and that MATCH_OPEN carries its tag, are the model's (logs 28, 4, 21). -/
def Obligations.OpenMatchStartsTheMatch : Prop :=
  ∀ (s : State) (p : PortId) (now : Instant) (cmd : Cmd), s.passes p .openMatch cmd →
    let owned (sec : SectorId) : Prop := ∃ q, ownsSector (s.port q) sec = true
    (1 ≤ s.venue.sectorsInUse → s.startSector = 0 → (∀ sec, sec.val < s.venue.sectorsInUse → owned sec) →
      ∃ (t : State) (rest : List SectorId), exec (.openMatch p now) s =
          .next (finishCommand p cmd ⟨.ok, [], t.notify isDeclared .matchOpen cmd.tag⟩) ∧
        t = { s with
              device := .service
              clock :=
                ⟨match s.venue.frameSource with
                  | .external => .external
                  | .internal => .internal, 0, now, now⟩
              plans := t.plans, sectors := t.sectors, pass := some ⟨1, 0, rest⟩ } ∧
        rest.Pairwise (· < ·) ∧ (∀ sec, sec ∈ rest ↔ 0 < sec.val ∧ sec.val < s.venue.sectorsInUse) ∧
        (∀ c, t.planEntry c =
          ⟨⟨8, (s.sector (sectorOf c)).reservation, [], 72 - (s.sector (sectorOf c)).reservation⟩, some 0, true⟩) ∧
        ∀ sec, t.sector sec =
          { s.sector sec with planState := if sec = 0 then .rewriting else .stable, builtFor := some 0 }) ∧
    ∀ sec, sec.val < s.venue.sectorsInUse → ¬owned sec → (∀ sec' < sec, owned sec') →
      exec (.openMatch p now) s = .next (finishCommand p cmd ⟨.unownedSector, [.bytes 1 sec.val], s⟩)

/-- CLOSE_MATCH clears every station, ticket, zone, stream and carriage record, stops the clock at its last count, ends
latch, surge and pass, and returns every plan to the default one; it keeps the venue, the sector policies and, but for
MATCH_CLOSED, the ports (R6). That MATCH_CLOSED carries the command's tag is the model's reading (log 21). -/
def Obligations.CloseMatchClearsTheMatch : Prop :=
  ∀ (s : State) (p : PortId) (cmd : Cmd), s.passes p .closeMatch cmd →
    ∃ t : State, exec (.closeMatch p) s =
        .next (finishCommand p cmd ⟨.ok, [], t.notify isDeclared .matchClosed cmd.tag⟩) ∧
      t = { State.reset with
            venue := s.venue, clock := { s.clock with state := .stopped }, plans := t.plans, sectors := t.sectors
            ports := s.ports, arbiter := s.arbiter, answer := s.answer, pending := s.pending } ∧
      (∀ c, t.planEntry c =
        ⟨⟨4, (s.sector (sectorOf c)).reservation, [], 76 - (s.sector (sectorOf c)).reservation⟩, none, false⟩) ∧
      ∀ sec, t.sector sec = { s.sector sec with planState := .stable, builtFor := none }

/-- What makes a boundary: in EXTERNAL a strobe 2.56 ms or more after the last boundary, and the loss of strobes for
20.48 ms, which enters INTERNAL with CLOCK_FALLBACK; in INTERNAL the divider, and, with the source EXTERNAL, a strobe that
passes the guard, which restores EXTERNAL with CLOCK_RESTORED; every other strobe is ignored (R8, R9, R10). That instants
are nanoseconds carried by the events, that the two clock notices carry tag 0, and that they are written after the notices of
the boundary and with the new frame, are the model's (logs 4, 21 and 36). -/
def Obligations.StrobesAndExpiriesMakeBoundaries : Prop :=
  ∀ (s : State) (now : Instant) (early : List BoundaryAct), s.settled →
    let clocked (t : State) (c : ClockState) (strobe : Instant) : State :=
      { t with clock := { t.clock with state := c, lastStrobe := strobe } }
    (now < s.clock.lastBoundary + 2560000 → exec (.frameStrobe now early) s = .next s) ∧
    (s.clock.state = .external → s.clock.lastBoundary + 2560000 ≤ now →
      exec (.frameStrobe now early) s = .next (clocked (s.boundary now early) .external now)) ∧
    (s.clock.state = .internal → s.venue.frameSource = .external → s.clock.lastBoundary + 2560000 ≤ now →
      exec (.frameStrobe now early) s =
        .next ((clocked (s.boundary now early) .external now).notify isDeclared .clockRestored 0)) ∧
    (s.clock.state = .internal → s.venue.frameSource = .internal → exec (.frameStrobe now early) s = .next s) ∧
    (s.clock.state = .external →
      exec (.strobeLossExpiry early) s =
        .next ((clocked (s.boundary (s.clock.lastStrobe + 20480000) early) .internal s.clock.lastStrobe).notify
          isDeclared .clockFallback 0)) ∧
    (s.clock.state = .internal →
      exec (.dividerExpiry early) s = .next (s.boundary (s.clock.lastBoundary + 5120000) early))

/-- A boundary advances the frame counter by one, sets FRAME at every port, lets the owners act that the sender puts before
the Plan Engine, and begins the pass that builds the frame after the new one, over every sector in use from the start sector
on, in ascending order and then from 0. A pass still running is ended: the sector it was building completes its build; the
sectors it had not built are held, each cell with its plan adjusted (BuildTermsCapAndGrants says how) and each carriage charged
with the slots of its run in that plan, or 0; and when there is one, OVERRUN with the frame, the number held, the first of them
and the sector completed is written to every CELL port, under tag 0. The next pass begins after the sector completed, at the
first held. The plans of every other sector and its built-for frame stand, and every sector keeps its policy (R11, R142, R144, R145, R146, R147). The order of the other owners' acts is
the sender's, and an act is all that is due of its owner (log 5); that the notices of the holds come in the order of the pass
(log 29), that a run stays with a carriage admitted anew (log 41), and where the fields of OVERRUN stand (log 35), are the
model's readings. -/
def Obligations.BoundaryAdvancesTheFrame : Prop :=
  (∀ v : State, exec .claimDeadline v = .next (v.act .claimDeadline) ∧ exec .lingerExpiry v = .next (v.act .lingerExpiry) ∧
    exec .drainCompletion v = .next (v.act .drainCompletion) ∧ exec .surgeEnd v = .next (v.act .surgeEnd) ∧
    ∀ f sec, v.settled → v.pass = some ⟨f, sec, []⟩ →
      exec .sectorBuildCompletion v = .next { v.completeBuild f sec with pass := none }) ∧
  ∀ (s : State) (now : Instant) (early : List BoundaryAct), s.passOk →
    let t := s.boundary now early
    let f := s.clock.frame + 1
    let u := early.foldl State.act
      { s with
        clock := { s.clock with frame := f, lastBoundary := now }
        ports := s.ports.mapUnits fun p => { p with request := p.request ||| 4 } }
    t.clock = { s.clock with frame := f, lastBoundary := now } ∧
    (∀ p, (t.port p).request.getLsbD 2 = true ∧ (t.port p).role = (s.port p).role) ∧
    (∃ above below, t.pass = some ⟨f + 1, t.startSector, above ++ below⟩ ∧
      above.Pairwise (· < ·) ∧ below.Pairwise (· < ·) ∧ t.startSector.val < s.venue.sectorsInUse ∧
      (∀ sec, sec ∈ above ↔ t.startSector < sec ∧ sec.val < s.venue.sectorsInUse) ∧
      ∀ sec, sec ∈ below ↔ sec < t.startSector) ∧
    (∀ sec, t.sector sec =
      { s.sector sec with
        planState := if sec = t.startSector then .rewriting else .stable
        builtFor := match s.pass with
          | none => (s.sector sec).builtFor
          | some pass => if sec ∈ pass.building :: pass.rest then some f else (s.sector sec).builtFor }) ∧
    match s.pass with
    | none => t = { u with pass := t.pass, sectors := t.sectors } ∧ t.plans = s.plans ∧ t.startSector = s.startSector
    | some pass =>
      let late := u.completeBuild f pass.building
      let held := pass.rest.foldl (State.holdSector f) late
      t = { u with
            carriages := t.carriages, plans := t.plans, sectors := t.sectors, pass := t.pass
            startSector := t.startSector, ports := t.ports } ∧
      (t.startSector.val = if pass.building.val + 1 < s.venue.sectorsInUse then pass.building.val + 1 else 0) ∧
      (∀ first more, pass.rest = first :: more → t.startSector = first) ∧
      (∀ p, PortFrame (u.port p) (held.port p) ∧
        t.port p =
          if pass.rest ≠ [] ∧ isCellPort (s.port p) = true then
            deliver 0x10
              [BitVec.ofNat 32 (0x10 * 2 ^ 24 + pass.rest.length * 2 ^ 18), 0, f,
                BitVec.ofNat 32 (t.startSector.val * 2 ^ 27 + pass.building.val * 2 ^ 11)] f (held.port p)
          else held.port p) ∧
      ∀ c,
        if s.inVenue c = true ∧ sectorOf c ∈ pass.rest then
          t.planEntry c = ⟨u.heldPlan f c (s.planEntry c).plan, some f, true⟩ ∧
          (t.sector (sectorOf c)).builtFor = some f ∧
          (u.carriageListsOk → ∀ (x : StreamId) (k : Carriage), u.carriage? c x = some k →
            let run := (t.planEntry c).plan.replays.find? fun r => decide (r.stream = x)
            let g : Nat := (run.map (·.slots)).getD 0
            let d : Int := u.demand x
            let b := k.balance + (g : Int) * (payload k.minLevel : Int) - d
            t.carriage? c x = some (
              if k.mode = .multicast then
                { k with
                  lastGrant := g, balance := max (-4 * d) b
                  starved := if b < -4 * d then true else k.starved && decide (b < 0) }
              else { k with lastGrant := 0 }))
        else if s.inVenue c = true ∧ sectorOf c = pass.building then
          t.planEntry c = late.planEntry c ∧ (t.planEntry c).frame = some f ∧ (t.planEntry c).held = false ∧
          (t.sector (sectorOf c)).builtFor = some f ∧ ∀ x, t.carriage? c x = late.carriage? c x
        else t.planEntry c = s.planEntry c ∧ ∀ x, t.carriage? c x = u.carriage? c x

/-- A MOMENT pulse at the ARMED latch is latched with the frame and the slot position, opens a surge in place of any other
when the surge length is above 0, and is reported to every declared port; in DISARMED and LATCHED it is ignored (R13). That
the instant is in nanoseconds and the tag of MOMENT 0 is the model's (logs 4, 21). -/
def Obligations.MomentPulseIsLatched : Prop :=
  ∀ (s : State) (now : Instant), s.settled →
    (∀ value mask, s.latch = .armed value mask →
      let frame := s.clock.frame
      let slot := min 79 ((now - s.clock.lastBoundary) / 64000)
      let surge := if s.venue.surgeLength = 0 then s.surge
        else some ⟨value, mask, BitVec.ofNat 32 (frame.toNat + s.venue.surgeLength)⟩
      let word0 := BitVec.ofNat 32 (0x11 * 2 ^ 24 + slot * 2 ^ 17)
      let word3 := BitVec.ofNat 32 (value.val * 2 ^ 27 + mask.val * 2 ^ 22)
      ∃ t, exec (.momentPulse now) s = .next t ∧
        t = { s with latch := .latched value mask frame slot, surge := surge, ports := t.ports } ∧
        ∀ p, t.port p =
          if isDeclared (s.port p) then deliver 0x11 [word0, 0, frame, word3] frame (s.port p) else s.port p) ∧
    ((s.latch = .disarmed ∨ ∃ v m f slot, s.latch = .latched v m f slot) → exec (.momentPulse now) s = .next s)

/-- ARM_MOMENT arms the latch with the scope, reporting the state it was in and, in LATCHED, the latched frame and slot
position; a scope value or mask above 31 is refused. An open surge is untouched by it, and ends at the boundary that
brings the counter to its end frame (R12, R14). That the items of LATCHED are left out in the other states is the model's
choice (log 13). -/
def Obligations.ArmMomentAndSurgeEnd : Prop :=
  (∀ (s : State) (p : PortId) (cmd : Cmd), s.passes p .armMoment cmd →
    (∀ value mask : SectorId, (cmd.op 2).toNat = value.val → (cmd.op 3).toNat = mask.val →
      exec (.armMoment p) s = .next (finishCommand p cmd
        ⟨.ok,
          match s.latch with
          | .disarmed => [.bytes 1 0]
          | .armed _ _ => [.bytes 1 1]
          | .latched _ _ frame slot => [.bytes 1 2, .bytes 4 frame.toNat, .bytes 1 slot],
          { s with latch := .armed value mask }⟩)) ∧
    (31 < (cmd.op 2).toNat ∨ 31 < (cmd.op 3).toNat →
      exec (.armMoment p) s = .next (finishCommand p cmd ⟨.badOperand, [], s⟩))) ∧
  ∀ (s : State) (g : Surge), s.surge = some g → g.endFrame = s.clock.frame →
    exec .surgeEnd s = .next { s with surge := none }

/-! ## Stations (chapter 2) -/

/-- An ASSOCIATE that passes its checks takes an unknown address as a new record under the handle on top of the stack, at
sequence 0 with an empty list, and revives the record of a LINGERING address at the given cell, where its list is
evaluated under the ASSOCIATE's tag; the cell's count rises by one (R24, R25). -/
def Obligations.AssociateCreatesOrRevives : Prop :=
  ∀ (s : State) (p : PortId) (cmd : Cmd) (a : BitVec 48) (c : CellId) (l : Level), s.passes p .associate cmd →
    a.toNat = (cmd.op 2).toNat + 2 ^ 32 * (cmd.op 3).toNat → (cmd.op 4).toNat = c.val → s.inVenue c = true →
    l.val = min 7 ((cmd.op 5).toNat % 256) → ownsCell (s.port p) c = true →
    (s.rosterEntry c).count + (s.rosterEntry c).pendingIn < s.venue.cellLimit →
    let mark := itemMarks [decide (7 < (cmd.op 5).toNat % 256)]
    let counted (t : State) : Prop :=
      (t.rosterEntry c).count = (s.rosterEntry c).count + 1 ∧
      (t.rosterEntry c).pendingIn = (s.rosterEntry c).pendingIn ∧
      ∀ d, d ≠ c → (t.rosterEntry d).count = (s.rosterEntry d).count ∧
        (t.rosterEntry d).pendingIn = (s.rosterEntry d).pendingIn
    (∀ (h : Handle) (rest : HandleStack), s.stationByAddress a = none → popHandle s.handles = some (h, rest) →
      ∃ t : State, exec (.associate p) s = .next (finishCommand p cmd
          ⟨.ok, [.bytes 1 0, .bytes 2 h, .bytes 1 0, .bytes 1 l.val, mark], t⟩) ∧
        t = { s with handles := rest, stations := t.stations, addressMap := t.addressMap, roster := t.roster } ∧
        t.station? h = some ⟨a, .associated, c, 0, l, none, []⟩ ∧ (∀ g, g ≠ h → t.station? g = s.station? g) ∧
        (∀ b : BitVec 48, tableFind t.addressMap b.toNat = if b = a then some h else tableFind s.addressMap b.toNat) ∧
        counted t ∧ ∀ d, (t.rosterEntry d).carriages = (s.rosterEntry d).carriages) ∧
    ∀ (h : Handle) (st : Station), s.stationByAddress a = some (h, st) → isLingering st.state = true →
      let st' := { st with state := .associated, serving := c, level := l }
      ∃ t : State, exec (.associate p) s = .next (finishCommand p cmd
          ⟨.ok, [.bytes 1 1, .bytes 2 h, .bytes 1 st.sequence.toNat, .bytes 1 l.val, mark, .bytes 1 (t.activeOf h)], t⟩) ∧
        t = ((s.setStation h st').setRoster c { s.rosterEntry c with count := (s.rosterEntry c).count + 1 }).evaluate h
          cmd.tag ∧
        SubscriptionFrame (· = h) (carriagesOf st') ((s.setStation h st').addCount c) t ∧ counted t ∧
        ((st.subs.map (·.stream)).Nodup → t.evaluatedAt h)

/-- The checks of ASSOCIATE in their order, each refusal leaving every record as it was: a bad address or a cell outside
the venue, a cell of another port, an address known and not LINGERING, a full cell, an empty Handle Stack (R20, R21,
R23). -/
def Obligations.AssociateRefusesInOrder : Prop :=
  ∀ (s : State) (p : PortId) (cmd : Cmd), s.passes p .associate cmd →
    let refused (st : Status) (items : List Item) : Prop :=
      exec (.associate p) s = .next (finishCommand p cmd ⟨st, items, s⟩)
    (2 ^ 16 ≤ (cmd.op 3).toNat → refused .badOperand []) ∧
    ((∀ c : CellId, (cmd.op 4).toNat = c.val → s.inVenue c = false) → refused .badOperand []) ∧
    ∀ (a : BitVec 48) (c : CellId), a.toNat = (cmd.op 2).toNat + 2 ^ 32 * (cmd.op 3).toNat →
      (cmd.op 4).toNat = c.val → s.inVenue c = true →
      if ownsCell (s.port p) c = false then refused .notOwner []
      else
        match s.stationByAddress a with
        | some (h, st) =>
          if isLingering st.state = false then refused .already [.bytes 2 h, .bytes 2 st.serving.val]
          else s.hasRoom c = false → refused .cellFull []
        | none =>
          (s.hasRoom c = false → refused .cellFull []) ∧
          (s.hasRoom c = true → popHandle s.handles = none → refused .tableFull [])

/-- A DETACH is refused for a handle that is not live, a LINGERING station, a serving cell of another port, and another
sequence, in this order, and changes nothing. Of an ASSOCIATED station it puts the station into linger under the DETACH's tag:
the count falls by one, every subscription becomes SUSPENDED LINGERING, and the rest of the record is kept (R27, R28). -/
def Obligations.DetachStartsTheLinger : Prop :=
  ∀ (s : State) (p : PortId) (cmd : Cmd), s.passes p .detach cmd →
    let refused (st : Status) (items : List Item) : Prop :=
      exec (.detach p) s = .next (finishCommand p cmd ⟨st, items, s⟩)
    ((∀ h, (cmd.op 2).toNat = h → h < 65536 → s.station? h = none) → refused .unknownStation []) ∧
    ∀ (h : Handle) (st : Station), (cmd.op 2).toNat = h → h < 65536 → s.station? h = some st →
      if isLingering st.state = true then refused .notAssociated []
      else if ownsCell (s.port p) st.serving = false then refused .notServing []
      else if (cmd.op 3).toNat ≠ st.sequence.toNat then refused .stale [.bytes 1 st.sequence.toNat]
      else st.state = .associated →
        let deadline := s.clock.frame + BitVec.ofNat 32 s.venue.lingerTime
        let u := (s.setStation h { st with state := .lingering deadline cmd.tag }).subCount st.serving
        ∃ t : State, exec (.detach p) s = .next (finishCommand p cmd
            ⟨.ok, [.bytes 4 deadline.toNat, .bytes 1 st.sequence.toNat], t⟩) ∧
          t = u.evaluate h cmd.tag ∧ SubscriptionFrame (· = h) (carriagesOf st) u t ∧
          (t.rosterEntry st.serving).count = (s.rosterEntry st.serving).count - 1 ∧
          ∃ st', t.station? h = some st' ∧ StationFrame { st with state := .lingering deadline cmd.tag } st' ∧
            ((st.subs.map (·.stream)).Nodup → ∀ e ∈ st'.subs, e.state = .suspended .lingering)

/-- REPORT_LEVEL of a handle that is not live is refused UNKNOWN_STATION, and from a port that owns neither the serving nor
the claimant cell NOT_SERVING. Otherwise it replaces the level; each ACTIVE subscription of a station that is not LINGERING
moves in its carriage's histogram, in list order, and nothing else of the station changes. A level equal to the one before
changes nothing (R32, R33). What a join, a leave and a level move do with a carriage: the count, the histogram, the min level,
a MULTICAST balance at or above a changed P lowered to P − 1, and then the mode evaluation; a carriage that is absent is created
UNICAST at its place in grant order, one left by its last member is removed with CARRIAGE_MODE unless it was UNICAST; the
stream's totals follow (R77, R109 to R113). The min level that this CARRIAGE_MODE gives is the model's reading (log 20). -/
def Obligations.ReportLevelMovesTheHistograms : Prop :=
  (∀ (s : State) (p : PortId) (cmd : Cmd), s.passes p .reportLevel cmd →
    let refused (st : Status) : Prop := exec (.reportLevel p) s = .next (finishCommand p cmd ⟨st, [], s⟩)
    ((∀ h, (cmd.op 2).toNat = h → h < 65536 → s.station? h = none) → refused .unknownStation) ∧
    ∀ (h : Handle) (st : Station) (l : Level), (cmd.op 2).toNat = h → h < 65536 → s.station? h = some st →
      l.val = min 7 ((cmd.op 3).toNat % 256) →
      let may : Prop := ownsCell (s.port p) st.serving = true ∨
        ∃ c deadline tag, st.state = .inHandover c deadline tag ∧ ownsCell (s.port p) c = true
      (¬may → refused .notServing) ∧
      (may → ∃ t : State, exec (.reportLevel p) s = .next (finishCommand p cmd
          ⟨.ok, [.bytes 1 st.level.val, .bytes 1 l.val, itemMarks [decide (7 < (cmd.op 3).toNat % 256)]], t⟩) ∧
        (l = st.level → t = s) ∧
        (l ≠ st.level → isLingering st.state = true → t = s.setStation h { st with level := l }) ∧
        (l ≠ st.level → isLingering st.state = false →
          t = st.subs.foldl
            (fun v e => if e.state = .active then v.moveLevel st.serving e.stream st.level l cmd.tag else v)
            (s.setStation h { st with level := l })) ∧
        (l ≠ st.level → t.station? h = some { st with level := l } ∧
          SubscriptionFrame (fun _ => False) (carriagesOf st) (s.setStation h { st with level := l }) t) ∧
        (l ≠ st.level → isLingering st.state = false → (st.subs.map (·.stream)).Nodup →
          ∀ e ∈ st.subs, ∀ k, s.carriage? st.serving e.stream = some k → k.hist.length = 8 →
            if e.state = .active then
              ∃ k', t.carriage? st.serving e.stream = some k' ∧ k'.count = k.count ∧
                k'.minLevel = lowestLevel k'.hist ∧
                ∀ i : Level, k'.hist.getD i.val 0 =
                  if i = l then k.hist.getD i.val 0 + 1
                  else if i = st.level then k.hist.getD i.val 0 - 1 else k.hist.getD i.val 0
            else t.carriage? st.serving e.stream = some k))) ∧
  ∀ (s : State) (c : CellId) (x : StreamId) (l : Level) (tag : Tag),
    let totals (subscribers carriages : Nat) (v : State) : State :=
      v.setStream x { s.stream x with subscribers := subscribers, carriages := carriages }
    let leveled (k k' : Carriage) : Prop :=
      (1 ≤ k'.hist.sum → 0 < k'.hist.getD k'.minLevel.val 0 ∧ ∀ i : Level, i < k'.minLevel → k'.hist.getD i.val 0 = 0) ∧
      k'.mode = k.mode ∧ k'.starved = k.starved ∧ k'.lastGrant = k.lastGrant ∧
      k'.balance = if k.mode = .multicast ∧ payload k'.minLevel ≠ payload k.minLevel then
        min k.balance ((payload k'.minLevel : Int) - 1) else k.balance
    (s.carriage? c x = none →
      (∃ (k' : Carriage) (list : List StreamId),
        s.join c x l tag = (totals ((s.stream x).subscribers + 1) ((s.stream x).carriages + 1)
          ((s.setCarriage c x k').setRoster c { s.rosterEntry c with carriages := list })).evalMode c x tag ∧
        k' = ⟨1, (List.range 8).map fun i => if i = l.val then 1 else 0, l, .unicast, 0, false, 0⟩ ∧
        (∃ before after, (s.rosterEntry c).carriages = before ++ after ∧ list = before ++ x :: after ∧
          (∀ y ∈ before, s.grantsBefore x y = false) ∧ ∀ y rest, after = y :: rest → s.grantsBefore x y = true)) ∧
      s.leave c x l tag = s ∧ ∀ l' : Level, s.moveLevel c x l l' tag = s) ∧
    ∀ k, s.carriage? c x = some k → k.hist.length = 8 →
      (∃ k' : Carriage, s.join c x l tag =
          (totals ((s.stream x).subscribers + 1) (s.stream x).carriages (s.setCarriage c x k')).evalMode c x tag ∧
        k'.count = k.count + 1 ∧ leveled k k' ∧ k'.hist.length = 8 ∧
        ∀ i : Level, k'.hist.getD i.val 0 = k.hist.getD i.val 0 + if i = l then 1 else 0) ∧
      (2 ≤ k.count → ∃ k' : Carriage, s.leave c x l tag =
          ((totals ((s.stream x).subscribers - 1) (s.stream x).carriages s).setCarriage c x k').evalMode c x tag ∧
        k'.count = k.count - 1 ∧ leveled k k' ∧ k'.hist.length = 8 ∧
        ∀ i : Level, k'.hist.getD i.val 0 = k.hist.getD i.val 0 - if i = l then 1 else 0) ∧
      (k.count ≤ 1 →
        let gone := totals ((s.stream x).subscribers - 1) ((s.stream x).carriages - 1)
          ((s.eraseCarriage c x).setRoster c
            { s.rosterEntry c with carriages := (s.rosterEntry c).carriages.filter fun y => decide (y ≠ x) })
        s.leave c x l tag =
          if k.mode = .unicast then gone
          else gone.notify (fun u => isReplayPort u || ownsCell u c)
            (.carriageMode c x 0 k.mode none k.starved none k.minLevel) tag) ∧
      ∀ l' : Level, l' ≠ l → ∃ k' : Carriage, s.moveLevel c x l l' tag = (s.setCarriage c x k').evalMode c x tag ∧
        k'.count = k.count ∧ leveled k k' ∧ k'.hist.length = 8 ∧
        ∀ i : Level, k'.hist.getD i.val 0 =
          if i = l' then k.hist.getD i.val 0 + 1
          else if i = l then k.hist.getD i.val 0 - 1 else k.hist.getD i.val 0

/-! ## Handover (chapter 3) -/

/-- CLAIM, in the order of its checks: BAD_OPERAND for a cell outside the venue, NOT_OWNER for a cell of another port,
UNKNOWN_STATION for a handle that is not live; on a live station STALE, SAME_CELL, NOT_ASSOCIATED for a LINGERING one; in
IN_HANDOVER a repeat of the standing claim or CONTESTED; and for an ASSOCIATED one the claim accepted when the cell has
room, with the deadline, the pending tag, the room and RELEASE_REQUEST, or CELL_FULL. A refusal changes nothing (R38, R39,
R40). -/
def Obligations.ClaimStartsOneHandover : Prop :=
  ∀ (s : State) (p : PortId) (cmd : Cmd), s.passes p .claim cmd →
    let replies (status : Status) (items : List Item) (t : State) : Prop :=
      exec (.claim p) s = .next (finishCommand p cmd ⟨status, items, t⟩)
    ((∀ c : CellId, (cmd.op 3).toNat = c.val → s.inVenue c = false) → replies .badOperand [] s) ∧
    ∀ c : CellId, (cmd.op 3).toNat = c.val → s.inVenue c = true →
      if ownsCell (s.port p) c = false then replies .notOwner [] s
      else
        ((∀ h, (cmd.op 2).toNat = h → h < 65536 → s.station? h = none) → replies .unknownStation [] s) ∧
        ∀ (h : Handle) (st : Station), (cmd.op 2).toNat = h → h < 65536 → s.station? h = some st →
          let seq := st.sequence.toNat
          if (cmd.op 5).getLsbD 0 = true ∧ (cmd.op 4).toNat ≠ seq then replies .stale [.bytes 1 seq] s
          else if c = st.serving then replies .sameCell [] s
          else
            match st.state with
            | .lingering _ _ => replies .notAssociated [] s
            | .inHandover claimant deadline _ =>
              if claimant = c then
                replies .accepted
                  [.bytes 1 1, .bytes 2 st.serving.val, .bytes 2 c.val, .bytes 1 seq, .bytes 4 deadline.toNat] s
              else replies .contested [.bytes 2 claimant.val, .bytes 4 deadline.toNat, .bytes 1 seq] s
            | .associated =>
              if (s.rosterEntry c).count + (s.rosterEntry c).pendingIn < s.venue.cellLimit then
                let deadline := s.clock.frame + BitVec.ofNat 32 s.venue.handoverWindow
                ∃ t : State,
                  replies .accepted
                    [.bytes 1 0, .bytes 2 st.serving.val, .bytes 2 c.val, .bytes 1 seq, .bytes 4 deadline.toNat]
                    (t.notify (fun u => ownsCell u st.serving) (.releaseRequest h st.sequence st.serving c deadline)
                      cmd.tag) ∧
                  t = { s with stations := t.stations, roster := t.roster } ∧
                  t.station? h = some { st with state := .inHandover c deadline cmd.tag } ∧
                  (∀ g, g ≠ h → t.station? g = s.station? g) ∧
                  t.rosterEntry c = { s.rosterEntry c with pendingIn := (s.rosterEntry c).pendingIn + 1 } ∧
                  ∀ d, d ≠ c → t.rosterEntry d = s.rosterEntry d
              else replies .cellFull [] s

/-- RELEASE is refused for a handle that is not live, another sequence, a LINGERING station, a serving cell of another port,
and a station without a claim, in this order, and changes nothing (R44). RELEASE, DETACH of a station IN_HANDOVER, and the claim
deadline of a station whose claimant's port is not QUARANTINED complete the handover: the claimant cell becomes the serving
cell, the sequence rises by one, the station moves from the claimant's pending-in into its count, its ACTIVE entries leave the
old cell's carriages and its list is evaluated at the new one, and the owners of both cells are told, all under the pending tag.
CLAIM_DEADLINE takes every station whose deadline is the present frame, in ascending order of handle (R29, R42, R43, R44,
R46). -/
def Obligations.HandoverCompletionMovesTheStation : Prop :=
  (∀ (s : State) (p : PortId) (cmd : Cmd), s.passes p .release cmd →
    let refused (st : Status) (items : List Item) : Prop :=
      exec (.release p) s = .next (finishCommand p cmd ⟨st, items, s⟩)
    ((∀ h, (cmd.op 2).toNat = h → h < 65536 → s.station? h = none) → refused .unknownStation []) ∧
    ∀ (h : Handle) (st : Station), (cmd.op 2).toNat = h → h < 65536 → s.station? h = some st →
      if (cmd.op 3).toNat ≠ st.sequence.toNat then
        refused .stale [.bytes 1 st.sequence.toNat, .bytes 2 st.serving.val]
      else if isLingering st.state = true then refused .notAssociated []
      else if ownsCell (s.port p) st.serving = false then refused .notServing []
      else st.state = .associated → refused .noClaim []) ∧
  (∀ (s : State) (h : Handle) (st : Station) (c : CellId) (deadline : FrameNo) (tag : Tag),
    s.station? h = some st → st.state = .inHandover c deadline tag → c ≠ st.serving →
    let st' := { st with state := .associated, serving := c, sequence := st.sequence + 1 }
    let moved (t : State) : Prop :=
      t = ((((s.setStation h st').subCount st.serving).addCount c |>.subPending c).leaveOld st.serving st.level tag
        st.subs).evaluateWith h tag false none ∧
      SubscriptionFrame (· = h) (fun d x => (d = st.serving ∨ d = c) ∧ x ∈ st.subs.map (·.stream))
        (((s.setStation h st').subCount st.serving).addCount c |>.subPending c) t ∧
      (t.rosterEntry c).count = (s.rosterEntry c).count + 1 ∧
      (t.rosterEntry c).pendingIn = (s.rosterEntry c).pendingIn - 1 ∧
      (t.rosterEntry st.serving).count = (s.rosterEntry st.serving).count - 1 ∧
      (t.rosterEntry st.serving).pendingIn = (s.rosterEntry st.serving).pendingIn ∧
      ((st.subs.map (·.stream)).Nodup → t.evaluatedAt h)
    let told (t : State) (n : Notice) : State := t.notify (fun u => ownsCell u st.serving || ownsCell u c) n tag
    (∀ v : State, v.leaveOld st.serving st.level tag st.subs =
      (st.subs.filter fun e => decide (e.state = .active)).foldl
        (fun w e => w.leave st.serving e.stream st.level tag) v) ∧
    (∀ (p : PortId) (cmd : Cmd), (cmd.op 2).toNat = h → h < 65536 → (cmd.op 3).toNat = st.sequence.toNat →
      ownsCell (s.port p) st.serving = true →
      (s.passes p .release cmd → ∃ t, moved t ∧
        exec (.release p) s = .next (finishCommand p cmd
          ⟨.ok, [.bytes 2 st.serving.val, .bytes 2 c.val, .bytes 1 (st.sequence + 1).toNat, .bytes 1 (t.activeOf h)],
            told t (.handoverDone h (st.sequence + 1) st.serving c false)⟩)) ∧
      (s.passes p .detach cmd → ∃ t, moved t ∧
        exec (.detach p) s = .next (finishCommand p cmd
          ⟨.ok, [.bytes 1 2, .bytes 2 c.val, .bytes 1 (st.sequence + 1).toNat],
            told t (.handoverDone h (st.sequence + 1) st.serving c true)⟩))) ∧
    ((∀ q, s.ownerOf (sectorOf c) = some q → (s.port q).state = .active) →
      ∃ t, moved t ∧ s.expireClaim h = told t (.handoverForced h (st.sequence + 1) st.serving c))) ∧
  ∀ s : State, tableWf s.stations = true →
    ∃ due : List Handle, due.Pairwise (· < ·) ∧
      (∀ h, h ∈ due ↔ ∃ st c tag, s.station? h = some st ∧ st.state = .inHandover c s.clock.frame tag) ∧
      exec .claimDeadline s = .next (due.foldl State.expireClaim s)

/-- WITHDRAW is refused for a handle that is not live, another sequence, a station without a claim, and a claimant cell of
another port, in this order, and changes nothing. From the claimant cell's port it abandons the claim, and so does the claim
deadline of a station whose claimant's port is QUARANTINED: the station is ASSOCIATED where it was, the claimant's pending-in
falls by one, and only the serving cell's port is told (R45, R46, R47). -/
def Obligations.AbandonedClaimsLeaveTheStation : Prop :=
  (∀ (s : State) (p : PortId) (cmd : Cmd), s.passes p .withdraw cmd →
    let refused (st : Status) (items : List Item) : Prop :=
      exec (.withdraw p) s = .next (finishCommand p cmd ⟨st, items, s⟩)
    ((∀ h, (cmd.op 2).toNat = h → h < 65536 → s.station? h = none) → refused .unknownStation []) ∧
    ∀ (h : Handle) (st : Station), (cmd.op 2).toNat = h → h < 65536 → s.station? h = some st →
      if (cmd.op 3).toNat ≠ st.sequence.toNat then
        refused .stale [.bytes 1 st.sequence.toNat, .bytes 2 st.serving.val]
      else
        match st.state with
        | .associated | .lingering _ _ => refused .noClaim []
        | .inHandover c _ _ => ownsCell (s.port p) c = false → refused .notClaimant []) ∧
  ∀ (s : State) (h : Handle) (st : Station) (c : CellId) (deadline : FrameNo) (tag : Tag),
    s.station? h = some st → st.state = .inHandover c deadline tag →
    let back (t : State) : Prop :=
      t = { s with stations := t.stations, roster := t.roster } ∧
      t.station? h = some { st with state := .associated } ∧ (∀ g, g ≠ h → t.station? g = s.station? g) ∧
      t.rosterEntry c = { s.rosterEntry c with pendingIn := (s.rosterEntry c).pendingIn - 1 } ∧
      ∀ d, d ≠ c → t.rosterEntry d = s.rosterEntry d
    let told (t : State) (n : Notice) : State := t.notify (fun u => ownsCell u st.serving) n tag
    (∀ (p : PortId) (cmd : Cmd), s.passes p .withdraw cmd → (cmd.op 2).toNat = h → h < 65536 →
      (cmd.op 3).toNat = st.sequence.toNat → ownsCell (s.port p) c = true →
      ∃ t, back t ∧ exec (.withdraw p) s = .next (finishCommand p cmd
        ⟨.ok, [.bytes 2 st.serving.val, .bytes 1 st.sequence.toNat],
          told t (.claimWithdrawn h st.sequence st.serving c)⟩)) ∧
    ((∃ q, s.ownerOf (sectorOf c) = some q ∧ (s.port q).state = .quarantined) →
      ∃ t, back t ∧ s.expireClaim h = told t (.claimLapsed h st.sequence st.serving c))

/-- LINGER_EXPIRY frees every record whose linger deadline is the present frame, in ascending order of handle. Of one record:
its subscriptions are taken off the list with SUB_REMOVED each, in list order; a bound ticket loses its station, with
BINDING_CLEARED; the address leaves the map; the handle goes on top of the stack; and LINGER_EXPIRED is written to the owner of
the last serving cell; every notice carries the pending tag, and no count and no carriage changes (R18, R19, R30). -/
def Obligations.LingerExpiryFreesTheRecord : Prop :=
  (∀ s : State, tableWf s.stations = true →
    ∃ due : List Handle, due.Pairwise (· < ·) ∧
      (∀ h, h ∈ due ↔ ∃ st tag, s.station? h = some st ∧ st.state = .lingering s.clock.frame tag) ∧
      exec .lingerExpiry s = .next (due.foldl State.expireLinger s)) ∧
  ∀ (s : State) (h : Handle) (st : Station) (deadline : FrameNo) (tag : Tag), s.stationsOk → s.bindingsOk →
    (st.subs.map (·.stream)).Nodup →
    s.station? h = some st → st.state = .lingering deadline tag →
    let removed := st.subs.foldl (fun v e => v.notify isReplayPort (.subRemoved h e.stream true) tag) s
    let cleared := match st.ticket with
      | none => removed
      | some n => removed.notify isGatePort (.bindingCleared n h .expiry) tag
    let t := s.expireLinger h
    t = { s with stations := t.stations, addressMap := t.addressMap, handles := t.handles, tickets := t.tickets
                 streams := t.streams, ports := t.ports } ∧
    t.ports = (cleared.notify (fun u => ownsCell u st.serving) (.lingerExpired h st.serving) tag).ports ∧
    t.station? h = none ∧ (∀ g, g ≠ h → t.station? g = s.station? g) ∧
    (∀ a : BitVec 48, tableFind t.addressMap a.toNat =
      if a = st.address then none else tableFind s.addressMap a.toNat) ∧
    popHandle t.handles = some (h, s.handles) ∧
    (∀ n k, s.ticket? n = some k →
      t.ticket? n = some (if st.ticket = some n then { k with station := none } else k)) ∧
    (∀ n, s.ticket? n = none → t.ticket? n = none) ∧
    (∀ x, t.stream x =
      if x ∈ st.subs.map (·.stream) then { s.stream x with held := (s.stream x).held - 1 } else s.stream x) ∧
    ∀ p, PortFrame (s.port p) (t.port p)

/-! ## Tickets and gate zones (chapter 4) -/

/-- LOAD_TICKETS with fields in range, new and different numbers and room for them all loads every ticket of its elements
under consecutive handles from the loaded count. The first element with a zone, class, re-entry count or seat out of range
refuses the chain BAD_OPERAND; otherwise the first whose number is loaded already or repeats an earlier element's refuses it
DUPLICATE; otherwise a chain that does not fit is refused TABLE_FULL. A refusal loads nothing (R57, R58, R59). That the failing
index comes first in a refusal's result, what the check names besides after it, and the free records in three bytes, is the
model's choice (log 38). -/
def Obligations.LoadTicketsLoadsTheChain : Prop :=
  ∀ (s : State) (p : PortId) (cmd : Cmd), s.passes p .loadTickets cmd →
    let refused (st : Status) (items : List Item) : Prop :=
      exec (.loadTickets p) s = .next (finishCommand p cmd ⟨st, items, s⟩)
    let n := cmd.elements.length
    let bad (i : Nat) : Prop :=
      let seat := (cmd.word i 4).toNat
      let rest := (cmd.word i 5).toNat
      15 < rest / 2 ^ 24 ∨ rest / 2 ^ 16 % 256 = 0 ∨ 2 < rest / 2 ^ 16 % 256 ∨ 3 < rest / 2 ^ 8 % 256 ∨
        (rest % 2 = 1 ∧ (31 < seat / 2 ^ 24 ∨ 127 < seat / 2 ^ 16 % 256 ∨ 255 < seat % 2 ^ 16))
    let number (i : Nat) : BitVec 64 := cmd.word i 3 ++ cmd.word i 2
    let repeats (i : Nat) : Prop :=
      tableFind s.ticketMap (number i).toNat ≠ none ∨ ∃ j < i, number j = number i
    (∀ i < n, bad i → (∀ j < i, ¬bad j) → refused .badOperand [.bytes 1 i]) ∧
    ((∀ i < n, ¬bad i) → ∀ i < n, (∀ j < i, ¬repeats j) →
      (∀ h, tableFind s.ticketMap (number i).toNat = some h → refused .duplicate [.bytes 1 i, .bytes 3 h]) ∧
      ∀ j < i, tableFind s.ticketMap (number i).toNat = none → number j = number i →
        refused .duplicate [.bytes 1 i, .bytes 1 j]) ∧
    ∀ ts : List Ticket, ts.length = n →
      (∀ (i : Nat) (k : Ticket), ts[i]? = some k →
        k.entry = .issued ∧ k.admission = none ∧ k.station = none ∧ k.reentries ≤ 3 ∧
        cmd.word i 2 = BitVec.ofNat 32 k.number.toNat ∧ cmd.word i 3 = BitVec.ofNat 32 (k.number.toNat / 2 ^ 32) ∧
        (∀ q, k.seat = some q →
          cmd.word i 4 = BitVec.ofNat 32 (q.sector.val * 2 ^ 24 + q.row.val * 2 ^ 16 + q.seat.val)) ∧
        cmd.word i 5 = BitVec.ofNat 32 (k.zone.val * 2 ^ 24 + ticketClassCode k.cls * 2 ^ 16 + k.reentries * 2 ^ 8 +
          2 * bit k.anyZone + bit k.seat.isSome)) →
      (ts.map (·.number)).Nodup → (∀ k ∈ ts, tableFind s.ticketMap k.number.toNat = none) →
      (s.loaded + ts.length ≤ 98304 →
        ∃ t : State, exec (.loadTickets p) s =
            .next (finishCommand p cmd ⟨.ok, [.bytes 3 s.loaded, .bytes 1 ts.length], t⟩) ∧
          t = { s with tickets := t.tickets, ticketMap := t.ticketMap, loaded := s.loaded + ts.length } ∧
          (∀ (i : Nat) (k : Ticket), ts[i]? = some k →
            t.ticket? (s.loaded + i) = some k ∧ tableFind t.ticketMap k.number.toNat = some (s.loaded + i)) ∧
          (∀ n, n < s.loaded ∨ s.loaded + ts.length ≤ n → t.ticket? n = s.ticket? n) ∧
          ∀ n : BitVec 64, n ∉ ts.map (·.number) →
            tableFind t.ticketMap n.toNat = tableFind s.ticketMap n.toNat) ∧
      (98304 < s.loaded + ts.length → refused .tableFull [.bytes 1 (98304 - s.loaded), .bytes 3 (98304 - s.loaded)])

/-- ADMIT at a gate of an OPEN zone with room, of a ticket of that zone or of any zone, ISSUED or EXITED with re-entries
left: the ticket is ADMITTED there now, the zone's occupancy and admitted total rise by one, and the list of a bound
station is evaluated (R63, R64, R65). That a seat stands in a result as three items is the model's choice (log 42). -/
def Obligations.AdmitLetsTheTicketIn : Prop :=
  ∀ (s : State) (p : PortId) (cmd : Cmd) (g : GateId) (z : ZoneId) (t : TicketHandle) (k : Ticket),
    s.passes p .admitTicket cmd → (cmd.op 4).toNat = g.val → z.val = g.val / 16 →
    s.ticketByNumber (cmd.op 3 ++ cmd.op 2) = some (t, k) →
    (s.zone z).state = .opened → (k.anyZone = true ∨ k.zone = z) →
    (k.entry = .issued ∨ (k.entry = .exited ∧ 0 < k.reentries)) →
    ((s.zone z).limit = 0 ∨ (s.zone z).occupancy < (s.zone z).limit) →
    let k' := { k with
      entry := .admitted, admission := some ⟨z, g, s.clock.frame⟩
      reentries := if k.entry = .exited then k.reentries - 1 else k.reentries }
    let u := (s.setTicket t k').setZone z { s.zone z with
      occupancy := (s.zone z).occupancy + 1, admitted := (s.zone z).admitted + 1 }
    ∃ v : State, exec (.admitTicket p) s = .next (finishCommand p cmd
        ⟨.ok, [.bytes 3 t, .bytes 1 (ticketClassCode k.cls)] ++
          (match k.seat with
            | none => [.bytes 1 255, .bytes 1 255, .bytes 1 255]
            | some q => [.bytes 1 q.sector.val, .bytes 1 q.row.val, .bytes 1 q.seat.val]) ++
          [itemMarks [k.anyZone], .bytes 1 k'.reentries, .bytes 1 z.val, .bytes 3 ((s.zone z).occupancy + 1),
            itemOrNone 2 k.station], v⟩) ∧
      (v = match k.station with
        | none => u
        | some h => u.evaluate h cmd.tag) ∧
      SubscriptionFrame (fun h => k.station = some h)
        (fun c x => ∃ h st, k.station = some h ∧ s.station? h = some st ∧ carriagesOf st c x) u v ∧
      ∀ h, k.station = some h → s.listsOk → v.evaluatedAt h

/-- The checks of ADMIT in their order, each refusal leaving every record as it was and carrying, when the number is
known, what the check reports and then the ticket's handle and entry state (R64). The order of these items, and that a
refusal BAD_OPERAND carries them too, are the model's readings (log 17). -/
def Obligations.AdmitRefusesInOrder : Prop :=
  ∀ (s : State) (p : PortId) (cmd : Cmd), s.passes p .admitTicket cmd →
    let refused (st : Status) (items : List Item) : Prop :=
      exec (.admitTicket p) s = .next (finishCommand p cmd ⟨st, items, s⟩)
    match s.ticketByNumber (cmd.op 3 ++ cmd.op 2) with
    | none => refused (if 255 < (cmd.op 4).toNat then .badOperand else .unknownTicket) []
    | some (t, k) =>
      let known : List Item := [.bytes 3 t, .bytes 1 (entryStateCode k.entry)]
      (255 < (cmd.op 4).toNat → refused .badOperand known) ∧
      ∀ (g : GateId) (z : ZoneId), (cmd.op 4).toNat = g.val → z.val = g.val / 16 →
        if (s.zone z).state ≠ .opened then refused .gatesClosed (.bytes 1 (zoneStateCode (s.zone z).state) :: known)
        else if k.anyZone = false ∧ k.zone ≠ z then refused .wrongZone (.bytes 1 k.zone.val :: known)
        else if k.entry = .voided then refused .voided known
        else if k.entry = .admitted then
          ∀ a, k.admission = some a → refused .alreadyIn (.bytes 1 a.gate.val :: .bytes 4 a.frame.toNat :: known)
        else if k.entry = .exited ∧ k.reentries = 0 then refused .noReentry known
        else (s.zone z).limit ≠ 0 → (s.zone z).limit ≤ (s.zone z).occupancy →
          refused .zoneFull (.bytes 3 (s.zone z).occupancy :: .bytes 2 (s.zone z).limit :: known)

/-- EXIT is refused for a gate above 255, an unknown number, a gate of a CLOSED zone, and a ticket that is not ADMITTED, in
this order, and changes nothing. Otherwise the ticket is EXITED, the occupancy of its entry zone falls by one, it keeps its
binding, and the list of a bound station is evaluated (R63, R68). -/
def Obligations.ExitLeavesTheEntryZone : Prop :=
  ∀ (s : State) (p : PortId) (cmd : Cmd), s.passes p .exitTicket cmd →
    let refused (st : Status) (items : List Item) : Prop :=
      exec (.exitTicket p) s = .next (finishCommand p cmd ⟨st, items, s⟩)
    (255 < (cmd.op 4).toNat → refused .badOperand []) ∧
    ∀ (g : GateId) (z : ZoneId), (cmd.op 4).toNat = g.val → z.val = g.val / 16 →
      match s.ticketByNumber (cmd.op 3 ++ cmd.op 2) with
      | none => refused .unknownTicket []
      | some (t, k) =>
        if (s.zone z).state = .closed then refused .gatesClosed [.bytes 1 (zoneStateCode (s.zone z).state)]
        else if k.entry ≠ .admitted then refused .notAdmitted [.bytes 1 (entryStateCode k.entry)]
        else ∀ a : Admission, k.admission = some a →
          let u := (s.setTicket t { k with entry := .exited }).setZone a.zone
            { s.zone a.zone with occupancy := (s.zone a.zone).occupancy - 1 }
          ∃ v : State, exec (.exitTicket p) s = .next (finishCommand p cmd
              ⟨.ok, [.bytes 3 t, .bytes 1 a.zone.val, .bytes 3 ((s.zone a.zone).occupancy - 1), .bytes 1 k.reentries],
                v⟩) ∧
            (v = match k.station with
              | none => u
              | some h => u.evaluate h cmd.tag) ∧
            SubscriptionFrame (fun h => k.station = some h)
              (fun c x => ∃ h st, k.station = some h ∧ s.station? h = some st ∧ carriagesOf st c x) u v ∧
            ∀ h, k.station = some h → s.listsOk → v.evaluatedAt h

/-- VOID of an unknown number is refused UNKNOWN_TICKET, and of a VOID ticket VOIDED. Otherwise the ticket is VOID and unbound;
an ADMITTED one leaves its entry zone; the station that was bound loses the ticket, with BINDING_CLEARED, and its entries to
BASIC and PREMIUM streams, each with SUB_REMOVED after it has left its carriage, and the entries left are evaluated, all under
the VOID's tag; no other ticket, zone, station, carriage or stream changes (R70). -/
def Obligations.VoidRemovesTicketedSubscriptions : Prop :=
  ∀ (s : State) (p : PortId) (cmd : Cmd), s.passes p .voidTicket cmd →
    let refused (st : Status) : Prop := exec (.voidTicket p) s = .next (finishCommand p cmd ⟨st, [], s⟩)
    match s.ticketByNumber (cmd.op 3 ++ cmd.op 2) with
    | none => refused .unknownTicket
    | some (t, k) =>
      if k.entry = .voided then refused .voided
      else s.bindingsOk → s.listsOk →
        let opens (st : Station) : List Subscription := st.subs.filter fun e => decide (s.classOf e.stream = .anyone)
        let ticketed (st : Station) : List Subscription := st.subs.filter fun e => decide (s.classOf e.stream ≠ .anyone)
        let zoned := if k.entry = .admitted then
            s.setZone (entryZone k) { s.zone (entryZone k) with occupancy := (s.zone (entryZone k)).occupancy - 1 }
          else s
        ∃ (v : State) (removed : Nat), exec (.voidTicket p) s = .next (finishCommand p cmd
            ⟨.ok, [.bytes 3 t, .bytes 1 (entryStateCode k.entry), itemOrNone 2 k.station, .bytes 1 removed], v⟩) ∧
          v.ticket? t = some { k with entry := .voided, station := none } ∧
          (∀ n, n ≠ t → v.ticket? n = s.ticket? n) ∧
          (∀ z, v.zone z = if k.entry = .admitted ∧ z = entryZone k then
            { s.zone z with occupancy := (s.zone z).occupancy - 1 } else s.zone z) ∧
          (k.station = none → removed = 0 ∧ v = { s with tickets := v.tickets, zones := v.zones }) ∧
          (∀ h st, k.station = some h → s.station? h = some st →
            v = ((ticketed st).foldl
                (fun w e => (w.leaveAndRemove h e.stream cmd.tag).notify isReplayPort (.subRemoved h e.stream false)
                  cmd.tag)
                (((zoned.setStation h { st with ticket := none }).setTicket t
                  { k with entry := .voided, station := none }).notify isGatePort (.bindingCleared t h .voiding)
                    cmd.tag)).evaluate h cmd.tag ∧
            removed = (ticketed st).length ∧ removed + (opens st).length = st.subs.length ∧
            (∃ st', v.station? h = some st' ∧
              StationFrame { st with ticket := none, subs := opens st } st' ∧ v.evaluatedAt h) ∧
            (∀ c x, ¬carriagesOf st c x → v.carriage? c x = s.carriage? c x ∧
              (x ∈ (v.rosterEntry c).carriages ↔ x ∈ (s.rosterEntry c).carriages)) ∧
            (∀ x, (v.stream x).state = (s.stream x).state ∧ (x ∉ st.subs.map (·.stream) → v.stream x = s.stream x) ∧
              (v.stream x).held = if x ∈ (ticketed st).map (·.stream) then (s.stream x).held - 1 else (s.stream x).held) ∧
            ∀ q, PortFrame (s.port q) (v.port q)) ∧
          (∀ h, k.station ≠ some h → v.station? h = s.station? h) ∧
          (∀ c, (v.rosterEntry c).count = (s.rosterEntry c).count ∧
            (v.rosterEntry c).pendingIn = (s.rosterEntry c).pendingIn) ∧
          v = { s with stations := v.stations, roster := v.roster, tickets := v.tickets, zones := v.zones
                       streams := v.streams, carriages := v.carriages, ports := v.ports }

/-- SET_ZONE replaces the state and the limit of one zone and leaves its counters and every other record; a zone above
15, a state not listed or a limit above 65,535 is refused BAD_OPERAND (R62). -/
def Obligations.SetZoneReplacesStateAndLimit : Prop :=
  ∀ (s : State) (p : PortId) (cmd : Cmd), s.passes p .setZone cmd →
    (∀ (z : ZoneId) (st : ZoneState), (cmd.op 2).toNat = z.val → (cmd.op 3).toNat = zoneStateCode st →
      (cmd.op 4).toNat ≤ 65535 →
      ∃ t : State, exec (.setZone p) s = .next (finishCommand p cmd
          ⟨.ok, [.bytes 1 (zoneStateCode (s.zone z).state), .bytes 2 (s.zone z).limit, .bytes 3 (s.zone z).occupancy,
            .bytes 3 (s.zone z).admitted], t⟩) ∧
        t = { s with zones := t.zones } ∧ t.zone z = ⟨st, (cmd.op 4).toNat, (s.zone z).occupancy, (s.zone z).admitted⟩ ∧
        ∀ y, y ≠ z → t.zone y = s.zone y) ∧
    (15 < (cmd.op 2).toNat ∨ 2 < (cmd.op 3).toNat ∨ 65535 < (cmd.op 4).toNat →
      exec (.setZone p) s = .next (finishCommand p cmd ⟨.badOperand, [], s⟩))

/-! ## Bindings (chapter 6) -/

/-- BIND, in the order of its checks: a handle that is not live, an unknown number, and a ticket that is not ADMITTED are
refused; a ticket already bound to the station is only evaluated again; a station bound to another ticket refuses; an unbound
ticket is bound on both sides and the list evaluated; a ticket bound elsewhere is refused, or with the move flag taken from its
earlier station, with BINDING_CLEARED, which is evaluated first. UNBIND of an unknown number is refused, of an unbound ticket
changes nothing; otherwise both sides are emptied, BINDING_CLEARED goes to every GATE port, and the station's list is evaluated.
Evaluations and notices are under the command's tag (R93, R94, R95, R96). The place of the "already bound" mark in the result is
the model's (log 15). -/
def Obligations.BindAndUnbindKeepBothSides : Prop :=
  (∀ (s : State) (p : PortId) (cmd : Cmd), s.passes p .bindTicket cmd →
    let replies (status : Status) (items : List Item) (v : State) : Prop :=
      exec (.bindTicket p) s = .next (finishCommand p cmd ⟨status, items, v⟩)
    ((∀ h, (cmd.op 2).toNat = h → h < 65536 → s.station? h = none) → replies .unknownStation [] s) ∧
    ∀ (h : Handle) (st : Station), (cmd.op 2).toNat = h → h < 65536 → s.station? h = some st →
      match s.ticketByNumber (cmd.op 4 ++ cmd.op 3) with
      | none => replies .unknownTicket [] s
      | some (t, k) =>
        if k.entry ≠ .admitted then replies .notAdmitted [.bytes 1 (entryStateCode k.entry)] s
        else s.listsOk → s.bindingsOk →
          let bound (v : State) (earlier : Option Handle) (again : Bool) : List Item :=
            [.bytes 2 h, .bytes 3 t, .bytes 1 (ticketClassCode k.cls), itemOrNone 1 (k.seat.map fun q => q.sector.val),
              .bytes 1 (v.activeOf h), itemOrNone 2 earlier, itemMarks [again]]
          let made (u : State) : State :=
            (u.setStation h { st with ticket := some t }).setTicket t { k with station := some h }
          match st.ticket, k.station with
          | some t', earlier =>
            if earlier = some h then
              ∃ v, replies .ok (bound v none true) v ∧ v = s.evaluate h cmd.tag ∧
                SubscriptionFrame (· = h) (carriagesOf st) s v ∧ v.evaluatedAt h
            else replies .stationBound [.bytes 3 t'] s
          | none, none =>
            ∃ v, replies .ok (bound v none false) v ∧ v = (made s).evaluate h cmd.tag ∧
              SubscriptionFrame (· = h) (carriagesOf st) (made s) v ∧ v.evaluatedAt h
          | none, some g =>
            if (cmd.op 5).getLsbD 0 = false then replies .boundElsewhere [.bytes 2 g] s
            else
              ∀ sg, s.station? g = some sg →
                let left (u : State) : State := u.notify isGatePort (.bindingCleared t g .move) cmd.tag
                ∃ (w v : State), replies .ok (bound v (some g) false) v ∧
                  w = (left ((s.setStation g { sg with ticket := none }).setTicket t { k with station := none })).evaluate g
                    cmd.tag ∧
                  v = (made w).evaluate h cmd.tag ∧
                  SubscriptionFrame (fun i => i = h ∨ i = g) (fun c x => carriagesOf st c x ∨ carriagesOf sg c x)
                    (left (made (s.setStation g { sg with ticket := none }))) v ∧
                  v.evaluatedAt h ∧ v.evaluatedAt g) ∧
  ∀ (s : State) (p : PortId) (cmd : Cmd), s.passes p .unbindTicket cmd →
    match s.ticketByNumber (cmd.op 3 ++ cmd.op 2) with
    | none => exec (.unbindTicket p) s = .next (finishCommand p cmd ⟨.unknownTicket, [], s⟩)
    | some (t, k) =>
      (k.station = none → exec (.unbindTicket p) s = .next (finishCommand p cmd ⟨.ok, [.bytes 2 65535], s⟩)) ∧
      ∀ h st, k.station = some h → s.station? h = some st →
        let u := ((s.setStation h { st with ticket := none }).setTicket t { k with station := none }).notify isGatePort
          (.bindingCleared t h .unbind) cmd.tag
        ∃ v : State, exec (.unbindTicket p) s =
            .next (finishCommand p cmd ⟨.ok, [.bytes 2 h, .bytes 1 (v.activeOf h)], v⟩) ∧
          v = u.evaluate h cmd.tag ∧ SubscriptionFrame (· = h) (carriagesOf st) u v ∧
          ((st.subs.map (·.stream)).Nodup → v.evaluatedAt h)

/-! ## Streams and subscriptions (chapters 5 and 6) -/

/-- OPEN_STREAM refuses a stream above 15, a priority above 3 and a class not listed BAD_OPERAND; it makes an IDLE stream LIVE
with its operands, the rate brought into 10–800, and refuses one that is not IDLE. CLOSE_STREAM refuses a stream above 15; it
makes a LIVE stream DRAINING under its tag and frame, and refuses one that is not LIVE. Neither changes any other record (R75,
R78, R81). -/
def Obligations.StreamsOpenAndClose : Prop :=
  (∀ (s : State) (p : PortId) (cmd : Cmd),
    (s.passes p .openStream cmd → 15 < (cmd.op 2).toNat ∨ 3 < (cmd.op 4).toNat ∨ 2 < (cmd.op 5).toNat →
      exec (.openStream p) s = .next (finishCommand p cmd ⟨.badOperand, [], s⟩)) ∧
    (s.passes p .closeStream cmd → 15 < (cmd.op 2).toNat →
      exec (.closeStream p) s = .next (finishCommand p cmd ⟨.badOperand, [], s⟩))) ∧
  ∀ (s : State) (p : PortId) (cmd : Cmd) (x : StreamId), (cmd.op 2).toNat = x.val →
    let code := (s.stream x).state
    (s.passes p .openStream cmd → ∀ (priority : Fin 4) (cls : StreamClass),
      (cmd.op 4).toNat = priority.val → (cmd.op 5).toNat = streamClassCode cls →
      let operand := (cmd.op 3).toNat % 2 ^ 16
      let rate := max 10 (min 800 operand)
      (code = .idle → ∃ t : State, exec (.openStream p) s = .next (finishCommand p cmd
          ⟨.ok, [.bytes 2 rate, .bytes 2 (16 * rate), itemMarks [decide (rate ≠ operand)]], t⟩) ∧
        t = { s with streams := t.streams } ∧
        t.stream x =
          { s.stream x with state := .live ⟨rate, priority, cls, (cmd.op 6).getLsbD 0, p, s.clock.frame⟩ } ∧
        t.demand x = 16 * rate ∧ ∀ y, y ≠ x → t.stream y = s.stream y) ∧
      (code ≠ .idle → exec (.openStream p) s =
        .next (finishCommand p cmd ⟨.streamBusy, [.bytes 1 (streamStateCode code)], s⟩))) ∧
    (s.passes p .closeStream cmd →
      (∀ info, code = .live info → ∃ t : State, exec (.closeStream p) s = .next (finishCommand p cmd
          ⟨.ok, [.bytes 4 s.clock.frame.toNat, .bytes 3 (s.stream x).subscribers, .bytes 2 (s.stream x).carriages], t⟩) ∧
        t = { s with streams := t.streams } ∧
        t.stream x = { s.stream x with state := .draining info cmd.tag s.clock.frame } ∧
        ∀ y, y ≠ x → t.stream y = s.stream y) ∧
      ((∀ info, code ≠ .live info) → exec (.closeStream p) s =
        .next (finishCommand p cmd ⟨.streamClosed, [.bytes 1 (streamStateCode code)], s⟩)))

/-- SET_STREAM_RATE refuses a stream above 15 and one that is not LIVE, and changes nothing. On a LIVE stream it completes OK,
replaces the rate, and so D, and brings the stream's carriages in line, in ascending order of cell: a MULTICAST balance below
−4D is raised to it, with the starved flag as it was, and then the mode is evaluated at the new D (ModeFollowsCountAndAdmission
says how); counts and histograms stay; the result counts the balances clamped and the modes changed (R79, R80). -/
def Obligations.SetStreamRateAdjustsTheCarriages : Prop :=
  ∀ (s : State) (p : PortId) (cmd : Cmd), s.passes p .setStreamRate cmd →
    (15 < (cmd.op 2).toNat → exec (.setStreamRate p) s = .next (finishCommand p cmd ⟨.badOperand, [], s⟩)) ∧
    ∀ x : StreamId, (cmd.op 2).toNat = x.val →
      ((∀ info, (s.stream x).state ≠ .live info) → exec (.setStreamRate p) s =
        .next (finishCommand p cmd ⟨.streamClosed, [.bytes 1 (streamStateCode (s.stream x).state)], s⟩)) ∧
      ∀ info : StreamInfo, (s.stream x).state = .live info →
        let operand := (cmd.op 3).toNat % 2 ^ 16
        let rate := max 10 (min 800 operand)
        let floor : Int := -4 * (16 * rate : Nat)
        let raised (k : Carriage) : Carriage :=
          if k.mode = .multicast then { k with balance := max k.balance floor } else k
        let u := s.setStream x { s.stream x with state := .live { info with rate := rate } }
        ∃ (t : State) (clamped changed : Nat), exec (.setStreamRate p) s = .next (finishCommand p cmd
            ⟨.ok, [.bytes 2 info.rate, .bytes 2 rate, itemMarks [decide (rate ≠ operand)], .bytes 2 (16 * rate),
              .bytes 2 clamped, .bytes 2 changed], t⟩) ∧
          (s.carriageListsOk → s.balancesOk →
            SubscriptionFrame (fun _ => False) (fun _ y => y = x) u t ∧
            (∃ cells : List CellId, cells.Pairwise (· < ·) ∧ (∀ c, c ∈ cells ↔ s.carriage? c x ≠ none) ∧
              t = cells.foldl (fun v c =>
                match v.carriage? c x with
                | none => v
                | some k => (v.setCarriage c x (raised k)).evalMode c x cmd.tag) u) ∧
            (∀ c k, s.carriage? c x = some k → ∃ k', t.carriage? c x = some k' ∧
              some k' = ((u.setCarriage c x (raised k)).evalMode c x cmd.tag).carriage? c x ∧
              k'.count = k.count ∧ k'.hist = k.hist ∧ k'.minLevel = k.minLevel ∧ k'.lastGrant = k.lastGrant ∧
              (k'.mode = .multicast → k.mode = .multicast → k'.balance = max k.balance floor ∧ k'.starved = k.starved) ∧
              (k'.mode ≠ k.mode ∨ k'.mode ≠ .multicast → k'.balance = 0)) ∧
            (∀ c, s.carriage? c x = none → t.carriage? c x = none) ∧
            clamped = (List.finRange 1024).countP (fun c =>
              match s.carriage? c x with
              | none => false
              | some k => decide (k.mode = .multicast) && decide (k.balance < floor)) ∧
            changed = (List.finRange 1024).countP fun c => decide (s.modeAt c x ≠ t.modeAt c x))

/-- SUBSCRIBE refuses a stream above 15, a handle that is not live and a stream that is not LIVE, in this order; on a LIVE
stream it appends an entry to a list that has room and does not hold the stream, and evaluates the whole list, reporting the
entry's position and outcome; a stream already on the list and a full list are refused. UNSUBSCRIBE refuses a stream above 15,
a handle that is not live and a stream not on the list; it takes an entry off, an ACTIVE one after it has left its carriage,
and leaves the other entry as it was (R87, R88, R89). An evaluation visits the entries in list order and makes the four checks
of each before the next: an entry that passes them all is ACTIVE, and joins its carriage unless it is in it; one that fails is
SUSPENDED with the first reason, and leaves its carriage if it was in it; SUB_RESUMED and SUB_SUSPENDED report every change but
that of the entry a SUBSCRIBE adds (R98, R100, R103). That the reason is left out of the result of an ACTIVE entry, and that
UNSUBSCRIBE tests the stream before the handle, are the model's choices (logs 13 and 39). -/
def Obligations.SubscribeAppendsAndUnsubscribeRemoves : Prop :=
  (∀ (s : State) (p : PortId) (cmd : Cmd),
    let free : Prop := ∀ h, (cmd.op 2).toNat = h → h < 65536 → s.station? h = none
    (s.passes p .subscribe cmd →
      let refused (st : Status) (items : List Item) : Prop :=
        exec (.subscribe p) s = .next (finishCommand p cmd ⟨st, items, s⟩)
      (15 < (cmd.op 3).toNat → refused .badOperand []) ∧
      ((cmd.op 3).toNat ≤ 15 → free → refused .unknownStation []) ∧
      ∀ x : StreamId, (cmd.op 3).toNat = x.val → ¬free → (∀ info, (s.stream x).state ≠ .live info) →
        refused .streamClosed [.bytes 1 (streamStateCode (s.stream x).state)]) ∧
    (s.passes p .unsubscribe cmd →
      let refused (st : Status) : Prop := exec (.unsubscribe p) s = .next (finishCommand p cmd ⟨st, [], s⟩)
      (15 < (cmd.op 3).toNat → refused .badOperand) ∧
      ((cmd.op 3).toNat ≤ 15 → free → refused .unknownStation))) ∧
  (∀ (s : State) (p : PortId) (cmd : Cmd) (h : Handle) (st : Station) (x : StreamId),
    (cmd.op 2).toNat = h → h < 65536 → (cmd.op 3).toNat = x.val → s.station? h = some st →
    (st.subs.map (·.stream)).Nodup →
    let n := st.subs.length
    (s.passes p .subscribe cmd → ∀ info, (s.stream x).state = .live info →
      (x ∉ st.subs.map (·.stream) → n < 2 →
        let u := (s.setStation h { st with subs := st.subs ++ [⟨x, .suspended .lingering⟩] }).setStream x
          { s.stream x with held := (s.stream x).held + 1 }
        ∃ (t : State) (st' : Station) (e : Subscription), exec (.subscribe p) s = .next (finishCommand p cmd
            ⟨.ok, [.bytes 1 n] ++
              (match e.state with
                | .active => [.bytes 1 0]
                | .suspended r => [.bytes 1 1, .bytes 1 (reasonCode r)]) ++ [.bytes 1 (countActive st'.subs)], t⟩) ∧
          t = u.evaluateWith h cmd.tag true (some x) ∧
          t.station? h = some st' ∧ st'.subs[n]? = some e ∧ e.stream = x ∧ t.evaluatedAt h ∧
          SubscriptionFrame (· = h) (carriagesOf { st with subs := st.subs ++ [⟨x, .suspended .lingering⟩] }) u t) ∧
      (∀ (i : Nat) (e : Subscription), st.subs[i]? = some e → e.stream = x →
        exec (.subscribe p) s = .next (finishCommand p cmd
          ⟨.already, .bytes 1 i ::
            (match e.state with
              | .active => [.bytes 1 0]
              | .suspended r => [.bytes 1 1, .bytes 1 (reasonCode r)]), s⟩)) ∧
      (x ∉ st.subs.map (·.stream) → 2 ≤ n →
        exec (.subscribe p) s =
          .next (finishCommand p cmd ⟨.subLimit, st.subs.map fun e => .bytes 1 e.stream.val, s⟩))) ∧
    (s.passes p .unsubscribe cmd →
      (∀ e ∈ st.subs, e.stream = x →
        let st' := { st with subs := st.subs.filter fun e => decide (e.stream ≠ x) }
        let taken (v : State) : State :=
          (v.setStation h st').setStream x { v.stream x with held := (v.stream x).held - 1 }
        ∃ t : State, exec (.unsubscribe p) s = .next (finishCommand p cmd
            ⟨.ok,
              match e.state with
              | .active => [.bytes 1 0]
              | .suspended r => [.bytes 1 1, .bytes 1 (reasonCode r)], t⟩) ∧
          t = s.leaveAndRemove h x cmd.tag ∧
          t = taken (if e.state = .active then s.leave st.serving x st.level cmd.tag else s) ∧
          SubscriptionFrame (fun _ => False) (fun c y => c = st.serving ∧ y = x) (taken s) t) ∧
      (x ∉ st.subs.map (·.stream) →
        exec (.unsubscribe p) s = .next (finishCommand p cmd ⟨.notSubscribed, [], s⟩)))) ∧
  ∀ (s : State) (h : Handle) (st : Station) (tag : Tag) (joined : Bool) (fresh : Option StreamId),
    s.station? h = some st → (st.subs.map (·.stream)).Nodup →
    s.evaluate h tag = s.evaluateWith h tag true none ∧
    s.evaluateWith h tag joined fresh = st.subs.foldl (fun v e => v.evalEntry h tag joined fresh e.stream) s ∧
    ∀ (e : Subscription) (info : StreamInfo), e ∈ st.subs →
      ((s.stream e.stream).state = .live info ∨ ∃ g f, (s.stream e.stream).state = .draining info g f) →
      let x := e.stream
      let c := st.serving
      let lingers : Prop := ∃ deadline g, st.state = .lingering deadline g
      let entitled : Prop := info.cls = .anyone ∨
        ∃ n k, st.ticket = some n ∧ s.ticket? n = some k ∧ k.entry = .admitted ∧ (k.cls = .premium ∨ info.cls = .basic)
      let seated : Prop := info.seatBound = false ∨
        ∃ n k q, st.ticket = some n ∧ s.ticket? n = some k ∧ k.seat = some q ∧ q.sector.val = c.val / 32
      let room : Prop := s.carriage? c x ≠ none ∨ s.carriages.length < 4096
      let passes : Prop := ¬lingers ∧ entitled ∧ seated ∧ room
      let fails (r : Reason) : Prop := match r with
        | .lingering => lingers
        | .entitlement => ¬lingers ∧ ¬entitled
        | .away => ¬lingers ∧ entitled ∧ ¬seated
        | .noCarriage => ¬lingers ∧ entitled ∧ seated ∧ ¬room
      let put (v : State) (state : SubState) : State :=
        v.setStation h { st with subs := st.subs.map fun d => if d.stream = x then { d with state := state } else d }
      let told (v : State) (n : Notice) : State := if fresh = some x then v else v.notify isReplayPort n tag
      let t := s.evalEntry h tag joined fresh x
      (passes → e.state = .active → t = if joined then s else put (s.join c x st.level tag) .active) ∧
      (passes → ∀ r, e.state = .suspended r →
        t = told (put (s.join c x st.level tag) .active) (.subResumed h x r c)) ∧
      ∀ r, fails r →
        (e.state = .active → t = (put (if joined then s.leave c x st.level tag else s) (.suspended r)).notify isReplayPort
          (.subSuspended h x r .active c) tag) ∧
        ∀ r', e.state = .suspended r' →
          t = if r' = r then s else told (put s (.suspended r)) (.subSuspended h x r (.suspended r') c)

/-- DRAIN_COMPLETION completes the drain of every stream closed in an earlier frame, in ascending order. Of one stream: its
entries leave every list, its carriages leave the table and their cells' lists, the stream is IDLE with totals 0, STREAM_ENDED
gives the numbers removed under the close tag, and no other entry, carriage or stream changes (R83). -/
def Obligations.DrainEndsTheStream : Prop :=
  (∀ s : State, ∃ due : List StreamId, due.Pairwise (· < ·) ∧
    (∀ x, x ∈ due ↔ ∃ info tag f, (s.stream x).state = .draining info tag f ∧ f ≠ s.clock.frame) ∧
    exec .drainCompletion s = .next (due.foldl State.completeDrain s)) ∧
  ∀ (s : State) (x : StreamId) (info : StreamInfo) (tag : Tag) (f : FrameNo), tableWf s.stations = true →
    s.carriageListsOk → (s.stream x).state = .draining info tag f →
    let subscriptions := s.stations.countP fun e => decide (x ∈ e.2.subs.map (·.stream))
    let carriages := s.carriages.countP fun e => decide (e.1 % 16 = x.val)
    ∃ t : State, s.completeDrain x = t.notify isReplayPort (.streamEnded subscriptions carriages x) tag ∧
      t = { s with stations := t.stations, roster := t.roster, streams := t.streams, carriages := t.carriages } ∧
      (∀ h, t.station? h = (s.station? h).map fun st =>
        { st with subs := st.subs.filter fun e => decide (e.stream ≠ x) }) ∧
      (∀ c y, t.carriage? c y = if y = x then none else s.carriage? c y) ∧
      (∀ c, t.rosterEntry c =
        { s.rosterEntry c with carriages := (s.rosterEntry c).carriages.filter fun y => decide (y ≠ x) }) ∧
      t.stream x = ⟨.idle, 0, 0, (s.stream x).held - subscriptions⟩ ∧ ∀ y, y ≠ x → t.stream y = s.stream y

/-- The six queries report the records as they stand and change none; a key that names no record is refused UNKNOWN_STATION
or UNKNOWN_TICKET, a malformed address, a cell outside the venue, and a zone or stream above 15 BAD_OPERAND (R34, R35, R72,
R73, R91, R122). The layout of the items given only in some states, and that of a seat, is the model's (logs 12 to 16 and 42). -/
def Obligations.QueriesReportTheRecords : Prop :=
  ∀ (s : State) (p : PortId) (cmd : Cmd),
    let reports (i : Instr) (items : List Item) : Prop := exec i s = .next (finishCommand p cmd ⟨.ok, items, s⟩)
    let refused (i : Instr) (st : Status) : Prop := exec i s = .next (finishCommand p cmd ⟨st, [], s⟩)
    let noCell : Prop := ∀ c : CellId, (cmd.op 2).toNat = c.val → s.inVenue c = false
    (s.passes p .readStation cmd →
      ((cmd.op 4).getLsbD 0 = false → (∀ h, (cmd.op 2).toNat = h → h < 65536 → s.station? h = none) →
        refused (.readStation p) .unknownStation) ∧
      ((cmd.op 4).getLsbD 0 = true → 2 ^ 16 ≤ (cmd.op 3).toNat → refused (.readStation p) .badOperand) ∧
      ((cmd.op 4).getLsbD 0 = true → (cmd.op 3).toNat < 2 ^ 16 →
        tableFind s.addressMap ((cmd.op 2).toNat + 2 ^ 32 * (cmd.op 3).toNat) = none →
        refused (.readStation p) .unknownStation)) ∧
    (s.passes p .readCell cmd → noCell → refused (.readCell p) .badOperand) ∧
    (s.passes p .readTicket cmd →
      ((cmd.op 4).getLsbD 0 = false → s.loaded ≤ (cmd.op 2).toNat → refused (.readTicket p) .unknownTicket) ∧
      ((cmd.op 4).getLsbD 0 = true → tableFind s.ticketMap (cmd.op 3 ++ cmd.op 2).toNat = none →
        refused (.readTicket p) .unknownTicket)) ∧
    (s.passes p .readZone cmd → 15 < (cmd.op 2).toNat → refused (.readZone p) .badOperand) ∧
    (s.passes p .readStream cmd → 15 < (cmd.op 2).toNat → refused (.readStream p) .badOperand) ∧
    (s.passes p .readCarriage cmd → noCell ∨ 15 < (cmd.op 3).toNat → refused (.readCarriage p) .badOperand) ∧
    (s.passes p .readStation cmd → ∀ (h : Handle) (st : Station), s.station? h = some st →
      ((cmd.op 4).getLsbD 0 = false ∧ (cmd.op 2).toNat = h ∧ h < 65536) ∨
        ((cmd.op 4).getLsbD 0 = true ∧ (cmd.op 2).toNat + 2 ^ 32 * (cmd.op 3).toNat = st.address.toNat ∧
          tableFind s.addressMap st.address.toNat = some h) →
      reports (.readStation p)
        ([.bytes 2 h, .wide (st.address.setWidth 64), .bytes 1 (stationStateCode st.state), .bytes 2 st.serving.val,
            .bytes 1 st.sequence.toNat] ++
          (match st.state with
            | .associated => []
            | .inHandover claimant deadline _ => [.bytes 2 claimant.val, .bytes 4 deadline.toNat]
            | .lingering deadline _ => [.bytes 4 deadline.toNat]) ++
          [.bytes 1 st.level.val, itemOrNone 3 st.ticket] ++
          st.subs.flatMap fun e =>
            match e.state with
            | .active => [.bytes 1 e.stream.val, .bytes 1 0]
            | .suspended r => [.bytes 1 e.stream.val, .bytes 1 1, .bytes 1 (reasonCode r)])) ∧
    (s.passes p .readCell cmd → ∀ c : CellId, (cmd.op 2).toNat = c.val → s.inVenue c = true →
      reports (.readCell p)
        [itemOrNone 1 ((s.ownerOf (sectorOf c)).map Fin.val), .bytes 1 (s.rosterEntry c).count,
          .bytes 1 (s.rosterEntry c).pendingIn,
          .bytes 1 (s.venue.cellLimit - ((s.rosterEntry c).count + (s.rosterEntry c).pendingIn)),
          .bytes 1 (s.rosterEntry c).carriages.length]) ∧
    (s.passes p .readTicket cmd → ∀ (t : TicketHandle) (k : Ticket), s.ticket? t = some k →
      ((cmd.op 4).getLsbD 0 = false ∧ (cmd.op 2).toNat = t ∧ t < s.loaded) ∨
        ((cmd.op 4).getLsbD 0 = true ∧ tableFind s.ticketMap (cmd.op 3 ++ cmd.op 2).toNat = some t) →
      reports (.readTicket p)
        ([.bytes 3 t, .wide k.number] ++
          (match k.seat with
            | none => [.bytes 1 255, .bytes 1 255, .bytes 1 255]
            | some q => [.bytes 1 q.sector.val, .bytes 1 q.row.val, .bytes 1 q.seat.val]) ++
          [.bytes 1 k.zone.val, itemMarks [k.anyZone], .bytes 1 (ticketClassCode k.cls),
            .bytes 1 (entryStateCode k.entry), .bytes 1 k.reentries] ++
          (match k.admission with
            | none => [.bytes 1 255, .bytes 1 255, .bytes 4 (2 ^ 32 - 1)]
            | some a => [.bytes 1 a.zone.val, .bytes 1 a.gate.val, .bytes 4 a.frame.toNat]) ++
          [itemOrNone 2 k.station])) ∧
    (s.passes p .readZone cmd → ∀ z : ZoneId, (cmd.op 2).toNat = z.val →
      reports (.readZone p)
        [.bytes 1 (zoneStateCode (s.zone z).state), .bytes 2 (s.zone z).limit, .bytes 3 (s.zone z).occupancy,
          .bytes 3 (s.zone z).admitted, .bytes 3 s.loaded]) ∧
    (s.passes p .readStream cmd → ∀ x : StreamId, (cmd.op 2).toNat = x.val →
      let v := s.stream x
      let info (i : StreamInfo) : List Item :=
        [.bytes 2 i.rate, .bytes 2 (16 * i.rate), .bytes 1 i.priority.val, .bytes 1 (streamClassCode i.cls),
          itemMarks [i.seatBound], .bytes 1 i.port.val, .bytes 4 i.openFrame.toNat]
      reports (.readStream p)
        (.bytes 1 (streamStateCode v.state) ::
          (match v.state with
            | .idle => []
            | .live i => info i
            | .draining i tag f => info i ++ [.bytes 4 tag.toNat, .bytes 4 f.toNat]) ++
          [.bytes 3 v.subscribers, .bytes 2 v.carriages, .bytes 3 v.held])) ∧
    (s.passes p .readCarriage cmd → ∀ (c : CellId) (x : StreamId), (cmd.op 2).toNat = c.val → s.inVenue c = true →
      (cmd.op 3).toNat = x.val →
      (s.carriage? c x = none → reports (.readCarriage p) [itemMarks [true], .bytes 2 (4096 - s.carriages.length)]) ∧
      ∀ k, s.carriage? c x = some k →
        reports (.readCarriage p)
          (.bytes 1 k.count :: ((List.range 8).map fun i => .bytes 1 (k.hist.getD i 0)) ++
            [.bytes 1 k.minLevel.val, .bytes 2 (payload k.minLevel), .bytes 1 (modeCode k.mode),
              itemSigned 3 k.balance, itemMarks [k.starved], .bytes 1 k.lastGrant,
              .bytes 1 (listPosition x (s.rosterEntry c).carriages), .bytes 2 (4096 - s.carriages.length)]))

/-! ## Carriages, airtime and plans (chapters 7 to 9) -/

/-- The mode evaluation: at M or more a UNICAST or HELD carriage is admitted to MULTICAST when the costs of its cell's
MULTICAST carriages with its own are within the admission cap, and is HELD otherwise; at M − 2 or fewer a MULTICAST or HELD
one returns to UNICAST; a mode that changes leaves balance 0, and writes CARRIAGE_MODE, an entry into HELD CARRIAGE_HELD after
it, to every REPLAY port and the owner of the cell, under the tag of the event; nothing else of any carriage changes (R114, R115,
R116, R117, R121). -/
def Obligations.ModeFollowsCountAndAdmission : Prop :=
  ∀ (s : State) (c : CellId) (x : StreamId) (tag : Tag) (k : Carriage), s.carriage? c x = some k →
    let q := 76 - (s.sector (sectorOf c)).reservation
    let preferred : Prop := (s.sector (sectorOf c)).priority = .priority ∨
      ∃ g, s.surge = some g ∧ Nat.land (sectorOf c).val g.mask.val = Nat.land g.value.val g.mask.val
    let others := ((s.rosterEntry c).carriages.filterMap fun y =>
      match s.carriage? c y with
      | none => none
      | some j => if j.mode = .multicast then
          some ((s.demand y + payload j.minLevel - 1) / payload j.minLevel) else none).sum
    let own := (s.demand x + payload k.minLevel - 1) / payload k.minLevel
    let t := s.evalMode c x tag
    let put (m : Mode) (starved : Bool) : State := s.setCarriage c x { k with mode := m, balance := 0, starved := starved }
    let told (v : State) (n : Notice) : State := v.notify (fun u => isReplayPort u || ownsCell u c) n tag
    SubscriptionFrame (fun _ => False) (fun d y => d = c ∧ y = x) s t ∧
    (k.mode ≠ .multicast → s.venue.threshold ≤ k.count →
      ∀ cap, (preferred ∧ cap = q) ∨ (¬preferred ∧ cap = q - q / 4) →
        let changes (m : Mode) : Notice :=
          .carriageMode c x k.count k.mode (some m) k.starved (some (others + own, cap)) k.minLevel
        (others + own ≤ cap → t = told (put .multicast false) (changes .multicast)) ∧
        (cap < others + own → k.mode = .held → t = put .held k.starved) ∧
        (cap < others + own → k.mode = .unicast →
          t = told (told (put .held k.starved) (changes .held))
            (.carriageHeld c x k.count own others cap k.minLevel))) ∧
    (k.mode ≠ .unicast → k.count + 2 ≤ s.venue.threshold →
      t = told (put .unicast false) (.carriageMode c x k.count k.mode (some .unicast) k.starved none k.minLevel)) ∧
    (k.mode = .unicast → k.count < s.venue.threshold → t = s) ∧
    (k.mode = .held → k.count < s.venue.threshold → s.venue.threshold ≤ k.count + 1 → t = s) ∧
    (k.mode = .multicast → s.venue.threshold ≤ k.count + 1 → t = s)

/-- The arithmetic of a build: P is the payload of a level; C is 8 in a beacon frame and 4 otherwise, Q is 80 − C − T, and the
cap is Q for an effectively PRIORITY sector and Q − floor(Q / 4) otherwise; the want is the fewest slots that cover the need,
the grant the smallest of the want, 32 and the remainder; and a charge with no more than the want keeps the balance in [−4D, P)
(R107, R125, R126, R127, R131). The plan of a held cell: the runs of MULTICAST carriages, each cut to its carriage's want at its
min level, taken from the last one back where CONTROL or the cap leaves them no room; the CONTROL run of the frame, the TICKET
run kept, and the rest GENERAL (R145). That "last in grant order" goes by the order of the held plan's runs is the model's
choice (log 40), and so are that a run which the cap reduces to 0 slots is removed (log 29) and that a run stays with a carriage
of its stream that has been admitted anew since the build (log 41). -/
def Obligations.BuildTermsCapAndGrants : Prop :=
  ([0, 1, 2, 3, 4, 5, 6, 7] : List Level).map payload = [48, 96, 144, 192, 288, 384, 432, 480] ∧
  (∀ (f : FrameNo) (s : State) (sec : SectorId), (s.sector sec).reservation ≤ 16 →
    let control := controlRun f
    let q := pool control (s.sector sec).reservation
    (control = if 16 ∣ f.toNat then 8 else 4) ∧ q + control + (s.sector sec).reservation = 80 ∧ 56 ≤ q ∧ q ≤ 76 ∧
    (s.prioritised sec = true ↔ (s.sector sec).priority = .priority ∨
      ∃ g, s.surge = some g ∧ Nat.land sec.val g.mask.val = Nat.land g.value.val g.mask.val) ∧
    (s.prioritised sec = true → capOf q (s.prioritised sec) = q) ∧
    (s.prioritised sec = false → 4 * (q - capOf q (s.prioritised sec)) ≤ q ∧
      q < 4 * (q - capOf q (s.prioritised sec) + 1) ∧ capOf q (s.prioritised sec) ≤ q)) ∧
  (∀ (demand : Nat) (l : Level) (balance : Int) (starved : Bool) (remainder : Nat),
    let p := payload l
    let w := want demand p balance
    let g := grantOf w remainder
    ((demand : Int) - balance ≤ (w * p : Nat)) ∧ (0 < w → ((w - 1 : Nat) * p : Int) < (demand : Int) - balance) ∧
    g ≤ w ∧ g ≤ 32 ∧ g ≤ remainder ∧ (g = w ∨ g = 32 ∨ g = remainder) ∧
    (balance < (p : Int) → ∀ g' ≤ w,
      -4 * (demand : Int) ≤ (charge balance starved g' p demand).balance ∧
        (charge balance starved g' p demand).balance < (p : Int))) ∧
  ∀ (s : State) (f : FrameNo) (c : CellId) (p : Plan), planTotal p = 80 → p.ticket ≤ 16 →
    let control := if f.toNat % 16 = 0 then 8 else 4
    let q := 80 - control - p.ticket
    let cap := if s.prioritised (sectorOf c) then q else q - q / 4
    let kept := p.replays.filterMap fun r =>
      match s.carriage? c r.stream with
      | none => none
      | some k =>
        let n := min r.slots (want (s.demand r.stream) (payload k.minLevel) k.balance)
        if k.mode = .multicast ∧ 0 < n then some (⟨r.stream, k.minLevel, n⟩ : ReplayRun) else none
    let t := s.heldPlan f c p
    t.control = control ∧ t.ticket = p.ticket ∧ planTotal t = 80 ∧
    (t.replays.map (·.slots)).sum = min (kept.map (·.slots)).sum cap ∧
    ((kept.map (·.slots)).sum ≤ cap → t.replays = kept) ∧
    (cap < (kept.map (·.slots)).sum → ∃ before r after n, kept = before ++ r :: after ∧ n < r.slots ∧
      t.replays = before ++ if n = 0 then [] else [{ r with slots := n }])

/-- A charge of a carriage with g slots: the balance becomes the old one plus g × P minus D, kept where it is −4D or more
and otherwise set to −4D, which sets the starved flag and writes STARVED when the flag was clear; a starved carriage whose
new balance is 0 or more has the flag cleared and RECOVERED written; the flag and the notices change in no other way (R128,
R129). -/
def Obligations.ChargeStarvesAndRecovers : Prop :=
  ∀ (s : State) (c : CellId) (x : StreamId) (k : Carriage) (g : Nat) (f : FrameNo),
    let d : Int := s.demand x
    let b := k.balance + (g : Int) * (payload k.minLevel : Int) - d
    let charged (balance : Int) (starved : Bool) : State :=
      s.setCarriage c x { k with balance := balance, starved := starved, lastGrant := g }
    let told (t : State) (n : Notice) : State := t.notifyAt (toReplayAndOwner c) n 0 f
    let t := s.chargeCarriage c x k g f
    (b < -4 * d → k.starved = false →
      t = told (charged (-4 * d) true) (.starved c x k.minLevel g (s.wantOf x k) (s.rateOf x))) ∧
    (b < -4 * d → k.starved = true → t = charged (-4 * d) true) ∧
    (-4 * d ≤ b → k.starved = false → t = charged b false) ∧
    (-4 * d ≤ b → b < 0 → k.starved = true → t = charged b true) ∧
    (-4 * d ≤ b → 0 ≤ b → k.starved = true →
      t = told (charged b false) (.recovered c x k.minLevel g b (s.rateOf x)))

/-- The completion of a sector build: every cell of the sector in the venue gets its plan for the frame. Down its carriage list
each MULTICAST carriage is granted the smallest of its want, 32 and what the cap leaves after those before it, is charged with
the grant, which becomes its last grant, and has a run at its min level when the grant is above 0; a UNICAST or HELD carriage has
last grant 0; the STARVED and RECOVERED notices of the charges are written in this order. The sector is STABLE with that frame,
the start sector moves past it, and the next build starts or the pass ends; no other plan, carriage or station changes, and no
sector's policy (R127, R128, R129, R130, R133, R134, R138, R142). -/
def Obligations.SectorBuildPlansEveryCell : Prop :=
  ∀ (s : State) (pass : Pass), s.settled → s.pass = some pass → s.passOk → s.carriageListsOk → s.plansOk →
    let sec := pass.building
    let control := if pass.frame.toNat % 16 = 0 then 8 else 4
    let ticket := (s.sector sec).reservation
    let cap := capOf (80 - control - ticket) (s.prioritised sec)
    ∃ t : State, exec .sectorBuildCompletion s = .next t ∧
      t = { s with carriages := t.carriages, sectors := t.sectors, plans := t.plans, pass := t.pass
                   startSector := t.startSector, ports := t.ports } ∧
      (∀ p, PortFrame (s.port p) (t.port p)) ∧
      (∃ cells : List CellId, cells.Pairwise (· < ·) ∧ (∀ c, c ∈ cells ↔ s.inVenue c = true ∧ sectorOf c = sec) ∧
        t.ports = (cells.foldl (fun v c => (s.rosterEntry c).carriages.foldl (fun v x =>
          match s.carriage? c x, t.carriage? c x with
          | some k, some k' => if k.mode = .multicast then v.chargeCarriage c x k k'.lastGrant pass.frame else v
          | _, _ => v) v) s).ports) ∧
      (∀ c, s.inVenue c = true → sectorOf c = sec →
        let e := t.planEntry c
        let grant (x : StreamId) : Nat := match s.carriage? c x, t.carriage? c x with
          | some k, some k' => if k.mode = .multicast then k'.lastGrant else 0
          | _, _ => 0
        e.frame = some pass.frame ∧ e.held = false ∧ e.plan.control = control ∧ e.plan.ticket = ticket ∧
        e.plan.general + slotSum e.plan.replays = 80 - control - ticket ∧
        slotSum e.plan.replays ≤ cap ∧
        e.plan.replays = (s.rosterEntry c).carriages.filterMap (fun x =>
          match t.carriage? c x with
          | none => none
          | some k => if k.mode = .multicast ∧ 0 < k.lastGrant then some ⟨x, k.minLevel, k.lastGrant⟩ else none) ∧
        ∀ x k, s.carriage? c x = some k → ∃ k', t.carriage? c x = some k' ∧
          k' = { k with balance := k'.balance, starved := k'.starved, lastGrant := k'.lastGrant } ∧
          (k.mode ≠ .multicast → k' = { k with lastGrant := 0 }) ∧
          (k.mode = .multicast →
            let d : Int := s.demand x
            let b := k.balance + (k'.lastGrant : Int) * (payload k.minLevel : Int) - d
            (∀ before after, (s.rosterEntry c).carriages = before ++ x :: after →
              k'.lastGrant = min (s.wantOf x k) (min 32 (cap - (before.map grant).sum))) ∧
            k'.balance = max (-4 * d) b ∧
            k'.starved = if b < -4 * d then true else k.starved && decide (b < 0))) ∧
      (∀ c, ¬(s.inVenue c = true ∧ sectorOf c = sec) →
        t.planEntry c = s.planEntry c ∧ ∀ x, t.carriage? c x = s.carriage? c x) ∧
      (∀ c x, s.carriage? c x = none → t.carriage? c x = none) ∧
      (t.startSector.val = if sec.val + 1 < s.venue.sectorsInUse then sec.val + 1 else 0) ∧
      (t.sector sec).builtFor = some pass.frame ∧ (t.sector sec).planState = .stable ∧
      (∀ z, z ≠ sec → (t.sector z).builtFor = (s.sector z).builtFor) ∧
      (∀ z, (t.sector z).reservation = (s.sector z).reservation ∧ (t.sector z).priority = (s.sector z).priority) ∧
      match pass.rest with
      | [] => t.pass = none
      | z :: rest => t.pass = some ⟨pass.frame, z, rest⟩ ∧ (t.sector z).planState = .rewriting

/-- SET_SECTOR_POLICY on sectors the port owns replaces T, at most 16, and the priority of every matching sector in use and
touches no other record; a matching sector in use that the port does not own refuses NOT_OWNER with the lowest, and a value,
mask or priority out of range BAD_OPERAND (R139). That a matching sector which no port owns refuses NOT_OWNER too, and that no
matching sector at all is OK, is the model's reading (log 33). -/
def Obligations.SectorPolicyIsSetWhole : Prop :=
  ∀ (s : State) (p : PortId) (cmd : Cmd), s.passes p .setSectorPolicy cmd →
    let matches_ (sec : SectorId) : Prop := sec.val < s.venue.sectorsInUse ∧
      Nat.land sec.val (cmd.op 3).toNat = Nat.land (cmd.op 2).toNat (cmd.op 3).toNat
    let reservation := min 16 ((cmd.op 4).toNat % 256)
    (∀ pr : Priority, (cmd.op 2).toNat ≤ 31 → (cmd.op 3).toNat ≤ 31 → (cmd.op 5).toNat = priorityCode pr →
      (∀ sec, matches_ sec → ownsSector (s.port p) sec = true) →
      ∃ (t : State) (before : List Item) (changed : List SectorId),
        exec (.setSectorPolicy p) s = .next (finishCommand p cmd
          ⟨.ok, [.bytes 1 changed.length, .bytes 1 reservation, itemMarks [decide (16 < (cmd.op 4).toNat % 256)]] ++
            before, t⟩) ∧
        t = { s with sectors := t.sectors } ∧ changed.Pairwise (· < ·) ∧ (∀ sec, sec ∈ changed ↔ matches_ sec) ∧
        (∀ sec, matches_ sec → t.sector sec = { s.sector sec with reservation := reservation, priority := pr }) ∧
        (∀ sec, ¬matches_ sec → t.sector sec = s.sector sec) ∧
        ∀ first rest, changed = first :: rest →
          before = [.bytes 1 (s.sector first).reservation, .bytes 1 (priorityCode (s.sector first).priority)]) ∧
    ((31 < (cmd.op 2).toNat ∨ 31 < (cmd.op 3).toNat ∨ 1 < (cmd.op 5).toNat) →
      exec (.setSectorPolicy p) s = .next (finishCommand p cmd ⟨.badOperand, [], s⟩)) ∧
    ∀ sec, (cmd.op 2).toNat ≤ 31 → (cmd.op 3).toNat ≤ 31 → (cmd.op 5).toNat ≤ 1 → matches_ sec →
      ownsSector (s.port p) sec = false → (∀ z < sec, matches_ z → ownsSector (s.port p) z = true) →
      exec (.setSectorPolicy p) s = .next (finishCommand p cmd ⟨.notOwner, [.bytes 1 sec.val], s⟩)

/-! ## Whole-machine rules and invariants -/

/-- The venue and the ports' roles and ranges are fixed while the match lasts: no row changes them in SERVICE but RESET,
which leaves SERVICE (R1, R2, R4, R36, R74). -/
def Obligations.VenueAndRolesAreFixedInService : Prop :=
  ∀ (i : Instr) (s t : State), s.device = .service → i ≠ .reset → exec i s = .next t →
    t.venue = s.venue ∧ ∀ p, (t.port p).role = (s.port p).role

/-- The invariants below hold of the part right after RESET. -/
def Obligations.InvariantsHoldAfterReset : Prop :=
  State.reset.portsOk ∧ State.reset.subscriptionsOk ∧ State.reset.carriagesOk ∧ State.reset.plansOk ∧
    State.reset.passOk ∧ State.reset.deadlinesOk

/-- No ring ever has more than 63 posted elements and no Notice Queue more than 128 records, and rings and queues keep
their canonical form (R154, R162). -/
def Obligations.StepKeepsPortsOk : Prop :=
  ∀ s t : State, s.portsOk → step s = .next t → t.portsOk

/-- The counts of every cell stay equal to the stations it serves and the stations claimed into it, and within the cell
limit; the Address Map and the Handle Stack agree with the live records (R15, R17, R18, R19). -/
def Obligations.StepKeepsStationsOk : Prop :=
  ∀ s t : State, s.stationsOk → step s = .next t → t.stationsOk

/-- A binding is always held on both sides, by an ADMITTED or EXITED ticket, and every zone's occupancy counts the ADMITTED
tickets inside (R56, R61, R92). -/
def Obligations.StepKeepsTicketsOk : Prop :=
  ∀ s t : State, s.ticketsOk → step s = .next t → t.ticketsOk

/-- No list holds more than two streams, one twice, or an IDLE one, and no subscription is ACTIVE that its station is not
entitled to (R86, R98). -/
def Obligations.StepKeepsSubscriptionsOk : Prop :=
  ∀ s t : State, s.subscriptionsOk → step s = .next t → t.subscriptionsOk

/-- Every carriage counts exactly the ACTIVE subscriptions of the stations its cell serves, level by level, in at most
4,096 records; balances stay within [−4D, P); the totals of every stream agree (R77, R91, R107, R108, R109, R112, R131). -/
def Obligations.StepKeepsCarriagesOk : Prop :=
  ∀ s t : State, s.carriagesOk → step s = .next t → t.carriagesOk

/-- Every plan in the Plan Window totals 80 slots, with the CONTROL run of its frame (R125, R133, R138). -/
def Obligations.StepKeepsPlansOk : Prop :=
  ∀ s t : State, s.plansOk → step s = .next t → t.plansOk

/-- A sector is REWRITING exactly while a pass builds it, and a pass always builds the frame after the one on air, each
sector once, from the start sector on in order (R138, R142). -/
def Obligations.StepKeepsPassOk : Prop :=
  ∀ s t : State, s.passOk → step s = .next t → t.passOk

/-- No deadline is ever passed by: each lies from 0 to its longest time ahead of the counter (R11, R28, R39). It rests on
what a boundary leaves due being taken before any later row (R30, R46; log 6). -/
def Obligations.StepKeepsDeadlinesOk : Prop :=
  ∀ s t : State, s.deadlinesOk → step s = .next t → t.deadlinesOk
end

