-- ==== Sys2Proof/Laws/Table.lean ====
section
/-! SUPPORT. The laws of tables: a read after a write, and the canonical form that every operation keeps. -/

namespace Sys2Proof.Machine

open Sys2Proof

variable {α : Type}

/-! ## Reading -/

@[simp] theorem tableFind_nil (k : Nat) : tableFind ([] : Table α) k = none := rfl

theorem tableFind_cons (j : Nat) (v : α) (t : Table α) (k : Nat) :
    tableFind ((j, v) :: t) k = if j = k then some v else tableFind t k := rfl

@[simp] theorem tableFind_erase_self (t : Table α) (k : Nat) : tableFind (tableErase t k) k = none := by
  induction t with
  | nil => rfl
  | cons e t ih =>
    obtain ⟨j, v⟩ := e
    by_cases h : j = k
    · simp [tableErase, h, ih]
    · simp [tableErase, tableFind, h, ih]

@[simp] theorem tableFind_erase_of_ne (t : Table α) {k m : Nat} (hm : m ≠ k) :
    tableFind (tableErase t k) m = tableFind t m := by
  induction t with
  | nil => rfl
  | cons e t ih =>
    obtain ⟨j, v⟩ := e
    by_cases h : j = k
    · subst h
      simp [tableErase, tableFind, ih, Ne.symm hm]
    · simp [tableErase, tableFind, h, ih]

theorem tableFind_place_self {t : Table α} {k : Nat} (h : tableFind t k = none) (v : α) :
    tableFind (tablePlace t k v) k = some v := by
  induction t with
  | nil => simp [tablePlace, tableFind]
  | cons e t ih =>
    obtain ⟨j, w⟩ := e
    by_cases hj : j = k
    · simp [tableFind, hj] at h
    · by_cases hk : k < j
      · simp [tablePlace, tableFind, hk]
      · simp only [tableFind, hj, if_false] at h
        simp [tablePlace, tableFind, hk, hj, ih h]

theorem tableFind_place_of_ne (t : Table α) {k m : Nat} (v : α) (hm : m ≠ k) :
    tableFind (tablePlace t k v) m = tableFind t m := by
  induction t with
  | nil => simp [tablePlace, tableFind, Ne.symm hm]
  | cons e t ih =>
    obtain ⟨j, w⟩ := e
    by_cases hk : k < j
    · simp [tablePlace, tableFind, hk, Ne.symm hm]
    · simp [tablePlace, tableFind, hk, ih]

/-- A record stored is found again. -/
@[simp] theorem tableFind_store_self (t : Table α) (k : Nat) (v : α) : tableFind (tableStore t k v) k = some v :=
  tableFind_place_self (tableFind_erase_self t k) v

/-- A store leaves every other record as it was. -/
@[simp] theorem tableFind_store_of_ne (t : Table α) {k m : Nat} (v : α) (hm : m ≠ k) :
    tableFind (tableStore t k v) m = tableFind t m := by
  rw [tableStore, tableFind_place_of_ne _ _ hm, tableFind_erase_of_ne _ hm]

/-- An entry written reads as it was written. -/
@[simp] theorem tableRead_write_self [DecidableEq α] (d : α) (t : Table α) (k : Nat) (v : α) :
    tableRead d (tableWrite d t k v) k = v := by
  by_cases h : v = d
  · simp [tableRead, tableWrite, h]
  · simp [tableRead, tableWrite, h]

/-- A write leaves every other entry as it was. -/
@[simp] theorem tableRead_write_of_ne [DecidableEq α] (d : α) (t : Table α) {k m : Nat} (v : α) (hm : m ≠ k) :
    tableRead d (tableWrite d t k v) m = tableRead d t m := by
  by_cases h : v = d
  · simp [tableRead, tableWrite, h, tableFind_erase_of_ne _ hm]
  · simp [tableRead, tableWrite, h, tableFind_store_of_ne _ _ hm]

@[simp] theorem tableRead_nil (d : α) (k : Nat) : tableRead d ([] : Table α) k = d := rfl

/-- A record found is listed under its key. -/
theorem mem_of_find {t : Table α} {k : Nat} {v : α} (h : tableFind t k = some v) : (k, v) ∈ t := by
  induction t with
  | nil => cases h
  | cons e t ih =>
    obtain ⟨j, w⟩ := e
    by_cases hj : j = k
    · simp only [tableFind, hj, if_true, Option.some.injEq] at h
      simp [hj, h]
    · simp only [tableFind, hj, if_false] at h
      exact List.mem_cons_of_mem _ (ih h)

/-- A key has a record exactly when it is listed. -/
theorem find_isSome (t : Table α) (k : Nat) : (tableFind t k).isSome = true ↔ k ∈ t.map (·.1) := by
  induction t with
  | nil => simp [tableFind]
  | cons e t ih =>
    obtain ⟨j, w⟩ := e
    by_cases hj : j = k
    · simp [tableFind, hj]
    · simp [tableFind, hj, Ne.symm hj, ih]

/-! ## The canonical form -/

theorem keysRiseFrom_mono {lo lo' : Nat} (hlo : lo' ≤ lo) {t : Table α} (h : keysRiseFrom lo t = true) :
    keysRiseFrom lo' t = true := by
  cases t with
  | nil => rfl
  | cons e t =>
    obtain ⟨k, v⟩ := e
    simp only [keysRiseFrom, Bool.and_eq_true, decide_eq_true_eq] at h ⊢
    exact ⟨Nat.le_trans hlo h.1, h.2⟩

theorem keysRiseFrom_erase {lo : Nat} {t : Table α} (h : keysRiseFrom lo t = true) (k : Nat) :
    keysRiseFrom lo (tableErase t k) = true := by
  induction t generalizing lo with
  | nil => rfl
  | cons e t ih =>
    obtain ⟨j, v⟩ := e
    simp only [keysRiseFrom, Bool.and_eq_true, decide_eq_true_eq] at h
    by_cases hj : j = k
    · simp only [tableErase, hj, if_true]
      exact ih (keysRiseFrom_mono (by omega) h.2)
    · simp only [tableErase, hj, if_false, keysRiseFrom, Bool.and_eq_true, decide_eq_true_eq]
      exact ⟨h.1, ih h.2⟩

theorem keysRiseFrom_place {lo : Nat} {t : Table α} (h : keysRiseFrom lo t = true) {k : Nat} (hk : lo ≤ k)
    (hfree : tableFind t k = none) (v : α) : keysRiseFrom lo (tablePlace t k v) = true := by
  induction t generalizing lo with
  | nil => simp [tablePlace, keysRiseFrom, hk]
  | cons e t ih =>
    obtain ⟨j, w⟩ := e
    simp only [keysRiseFrom, Bool.and_eq_true, decide_eq_true_eq] at h
    by_cases hj : j = k
    · simp [tableFind, hj] at hfree
    · simp only [tableFind, hj, if_false] at hfree
      by_cases hlt : k < j
      · simp only [tablePlace, hlt, if_true, keysRiseFrom, Bool.and_eq_true, decide_eq_true_eq]
        exact ⟨hk, by omega, h.2⟩
      · simp only [tablePlace, hlt, if_false, keysRiseFrom, Bool.and_eq_true, decide_eq_true_eq]
        exact ⟨h.1, ih h.2 (by omega) hfree⟩

/-- Removing a record keeps the keys rising. -/
theorem tableWf_erase {t : Table α} (h : tableWf t = true) (k : Nat) : tableWf (tableErase t k) = true :=
  keysRiseFrom_erase h k

/-- Storing a record keeps the keys rising. -/
theorem tableWf_store {t : Table α} (h : tableWf t = true) (k : Nat) (v : α) : tableWf (tableStore t k v) = true :=
  keysRiseFrom_place (keysRiseFrom_erase h k) (Nat.zero_le k) (tableFind_erase_self t k) v

theorem mem_erase {t : Table α} {k : Nat} {e : Nat × α} (h : e ∈ tableErase t k) : e ∈ t ∧ e.1 ≠ k := by
  induction t with
  | nil => simp [tableErase] at h
  | cons f t ih =>
    obtain ⟨j, v⟩ := f
    by_cases hj : j = k
    · simp only [tableErase, hj, if_true] at h
      exact ⟨List.mem_cons_of_mem _ (ih h).1, (ih h).2⟩
    · simp only [tableErase, hj, if_false, List.mem_cons] at h
      cases h with
      | inl h => exact ⟨by simp [h], by simp [h, hj]⟩
      | inr h => exact ⟨List.mem_cons_of_mem _ (ih h).1, (ih h).2⟩

theorem mem_place {t : Table α} {k : Nat} {v : α} {e : Nat × α} (h : e ∈ tablePlace t k v) : e = (k, v) ∨ e ∈ t := by
  induction t with
  | nil => simpa [tablePlace] using h
  | cons f t ih =>
    obtain ⟨j, w⟩ := f
    by_cases hlt : k < j
    · simpa [tablePlace, hlt] using h
    · simp only [tablePlace, hlt, if_false, List.mem_cons] at h
      cases h with
      | inl h => exact .inr (by simp [h])
      | inr h =>
        cases ih h with
        | inl h => exact .inl h
        | inr h => exact .inr (List.mem_cons_of_mem _ h)

/-- A record of a table after a store is the stored one or an earlier one. -/
theorem mem_store {t : Table α} {k : Nat} {v : α} {e : Nat × α} (h : e ∈ tableStore t k v) : e = (k, v) ∨ e ∈ t := by
  cases mem_place h with
  | inl h => exact .inl h
  | inr h => exact .inr (mem_erase h).1

/-- A write keeps the canonical form of a table with a value for every entry. -/
theorem tableWfDefault_write [DecidableEq α] {d : α} {t : Table α} (h : tableWfDefault d t = true) (k : Nat) (v : α) :
    tableWfDefault d (tableWrite d t k v) = true := by
  simp only [tableWfDefault, Bool.and_eq_true, List.all_eq_true, decide_eq_true_eq] at h ⊢
  by_cases hv : v = d
  · simp only [tableWrite, hv, if_true]
    exact ⟨tableWf_erase h.1 k, fun e he => h.2 e (mem_erase he).1⟩
  · simp only [tableWrite, hv, if_false]
    refine ⟨tableWf_store h.1 k v, fun e he => ?_⟩
    cases mem_store he with
    | inl he => simpa [he] using hv
    | inr he => exact h.2 e he

/-- An entry of a table after a write has the written key or was there before. -/
theorem key_of_mem_write [DecidableEq α] {d : α} {t : Table α} {k : Nat} {v : α} {e : Nat × α}
    (h : e ∈ tableWrite d t k v) : e.1 = k ∨ e ∈ t := by
  by_cases hv : v = d
  · simp only [tableWrite, hv, if_true] at h
    exact .inr (mem_erase h).1
  · simp only [tableWrite, hv, if_false] at h
    cases mem_store h with
    | inl h => exact .inl (by simp [h])
    | inr h => exact .inr h

/-! ## Tables in order -/

theorem key_le_of_mem {lo : Nat} {t : Table α} (hw : keysRiseFrom lo t = true) {e : Nat × α} (he : e ∈ t) : lo ≤ e.1 := by
  induction t generalizing lo with
  | nil => simp at he
  | cons a t ih =>
    simp only [keysRiseFrom, Bool.and_eq_true, decide_eq_true_eq] at hw
    rcases List.mem_cons.1 he with rfl | he
    · exact hw.1
    · exact Nat.le_trans hw.1 (Nat.le_of_succ_le (ih hw.2 he))

theorem find_of_mem_from {lo : Nat} {t : Table α} (hw : keysRiseFrom lo t = true) {e : Nat × α} (he : e ∈ t) :
    tableFind t e.1 = some e.2 := by
  induction t generalizing lo with
  | nil => simp at he
  | cons a t ih =>
    simp only [keysRiseFrom, Bool.and_eq_true, decide_eq_true_eq] at hw
    rcases List.mem_cons.1 he with rfl | he
    · simp [tableFind]
    · have := key_le_of_mem hw.2 he
      rw [tableFind, if_neg (by omega)]
      exact ih hw.2 he

/-- In a table in canonical form a listed pair is the record under its key. -/
theorem find_of_mem {t : Table α} (hw : tableWf t = true) {e : Nat × α} (he : e ∈ t) : tableFind t e.1 = some e.2 :=
  find_of_mem_from hw he

theorem keys_sorted_from {lo : Nat} {t : Table α} (hw : keysRiseFrom lo t = true) : (t.map (·.1)).Pairwise (· < ·) := by
  induction t generalizing lo with
  | nil => exact .nil
  | cons a t ih =>
    simp only [keysRiseFrom, Bool.and_eq_true, decide_eq_true_eq] at hw
    refine List.pairwise_cons.2 ⟨fun k hk => ?_, ih hw.2⟩
    obtain ⟨e, he, rfl⟩ := List.mem_map.1 hk
    exact key_le_of_mem hw.2 he

/-- The keys of a selection from a table in canonical form rise strictly. -/
theorem keys_filter_sorted {t : Table α} (hw : tableWf t = true) (p : Nat × α → Bool) :
    ((t.filter p).map (·.1)).Pairwise (· < ·) :=
  (keys_sorted_from hw).sublist ((List.filter_sublist (l := t)).map _)

end Sys2Proof.Machine
end

