-- ==== Sys2Proof/Laws/Acts.lean ====
section
/-! SUPPORT. The laws of the acts of a boundary: which records are due, in which order, what one of them does, and that
nothing is taken where nothing is due. -/

namespace Sys2Proof.Machine

open Sys2Proof

/-! ## What is due -/

/-- The claim deadlines are taken in ascending order of handle (R46). -/
theorem claimsDue_sorted {s : State} (hw : tableWf s.stations = true) : s.claimsDue.Pairwise (· < ·) :=
  keys_filter_sorted hw _

/-- The linger deadlines are taken in ascending order of handle (R30). -/
theorem lingersDue_sorted {s : State} (hw : tableWf s.stations = true) : s.lingersDue.Pairwise (· < ·) :=
  keys_filter_sorted hw _

/-- The drains are taken in ascending order of stream (R83). -/
theorem drainsDue_sorted (s : State) : s.drainsDue.Pairwise (· < ·) :=
  (by decide : allStreams.Pairwise (· < ·)).sublist List.filter_sublist

theorem mem_due {s : State} (hw : tableWf s.stations = true) (p : Station → Bool) (h : Handle) :
    h ∈ (s.stations.filter fun e => p e.2).map (·.1) ↔ ∃ st, s.station? h = some st ∧ p st = true := by
  constructor
  · intro hm
    obtain ⟨e, he, rfl⟩ := List.mem_map.1 hm
    obtain ⟨he, hd⟩ := List.mem_filter.1 he
    exact ⟨e.2, find_of_mem hw he, hd⟩
  · rintro ⟨st, hs, hd⟩
    exact List.mem_map.2 ⟨(h, st), List.mem_filter.2 ⟨mem_of_find hs, hd⟩, rfl⟩

theorem mem_claimsDue {s : State} (hw : tableWf s.stations = true) (h : Handle) :
    h ∈ s.claimsDue ↔ ∃ st, s.station? h = some st ∧ claimDue s.clock.frame st = true :=
  mem_due hw _ h

theorem mem_lingersDue {s : State} (hw : tableWf s.stations = true) (h : Handle) :
    h ∈ s.lingersDue ↔ ∃ st, s.station? h = some st ∧ lingerDue s.clock.frame st = true :=
  mem_due hw _ h

@[simp] theorem mem_drainsDue (s : State) (x : StreamId) :
    x ∈ s.drainsDue ↔ drainDue s.clock.frame (s.stream x).state = true := by
  have hx : x ∈ allStreams := by
    revert x
    decide
  simp [State.drainsDue, hx]

/-! ## What one record's act does -/

/-- All that the claim deadline of one station can do: nothing without an unfinished handover, an abandonment or a
completion with one (R46, R47). -/
theorem expireClaim_cases (s : State) (h : Handle) :
    s.expireClaim h = s ∨
      ∃ st claimant deadline tag, s.station? h = some st ∧ st.state = .inHandover claimant deadline tag ∧
        s.expireClaim h =
          if s.ownerQuarantined claimant then s.abandonClaim h true else s.completeHandover h .deadline := by
  unfold State.expireClaim
  cases hs : s.station? h with
  | none => exact .inl rfl
  | some st =>
    cases ht : st.state with
    | associated => exact .inl (by simp [ht])
    | lingering _ _ => exact .inl (by simp [ht])
    | inHandover c d tag => exact .inr ⟨st, c, d, tag, rfl, ht, by simp [ht]⟩

/-- All that a drain of one stream can do (R83). -/
theorem completeDrain_cases (s : State) (x : StreamId) :
    s.completeDrain x = s ∨
      ∃ info tag f, (s.stream x).state = .draining info tag f ∧ s.completeDrain x = s.drainStream x tag := by
  unfold State.completeDrain
  cases hs : (s.stream x).state with
  | idle => exact .inl rfl
  | live _ => exact .inl rfl
  | draining i t f => exact .inr ⟨i, t, f, rfl, rfl⟩

/-! ## Nothing is due -/

theorem claimsDue_of_settled {s : State} (hs : s.settled) : s.claimsDue = [] := by
  rw [State.claimsDue, List.map_eq_nil_iff, List.filter_eq_nil_iff]
  intro e he
  simp [(hs.1 e he).1]

theorem lingersDue_of_settled {s : State} (hs : s.settled) : s.lingersDue = [] := by
  rw [State.lingersDue, List.map_eq_nil_iff, List.filter_eq_nil_iff]
  intro e he
  simp [(hs.1 e he).2]

theorem drainsDue_of_settled {s : State} (hs : s.settled) : s.drainsDue = [] := by
  rw [State.drainsDue, List.filter_eq_nil_iff]
  intro x _
  simp [hs.2.1 x]

theorem actSurgeEnd_of_settled {s : State} (hs : s.settled) : s.actSurgeEnd = s := by
  unfold State.actSurgeEnd
  cases hg : s.surge with
  | none => rfl
  | some g => simp [hs.2.2 g hg]

/-- Where nothing is due, nothing is taken. -/
@[simp] theorem settle_of_settled {s : State} (hs : s.settled) : s.settle = s := by
  simp [State.settle, State.actClaimDeadline, State.actLingerExpiry, State.actDrainCompletion, claimsDue_of_settled hs,
    lingersDue_of_settled hs, drainsDue_of_settled hs, actSurgeEnd_of_settled hs]

/-- Where nothing is due, a row that comes after the acts is its own effect alone. -/
theorem afterActs_of_settled {s : State} (hs : s.settled) (row : State → State) : s.afterActs row = .next (row s) := by
  rw [State.afterActs, settle_of_settled hs]

end Sys2Proof.Machine
end

