-- ==== Sys2Proof/Laws/State.lean ====
section
/-! SUPPORT. What each named update of the state leaves and what it sets: one lemma for each field of each update. -/

namespace Sys2Proof.Machine

open Sys2Proof

variable (s : State)


/-! ## State.setPort -/

@[simp] theorem State.setPort_device (p : PortId) (u : PortUnit) : (s.setPort p u).device = s.device := rfl
@[simp] theorem State.setPort_venue (p : PortId) (u : PortUnit) : (s.setPort p u).venue = s.venue := rfl
@[simp] theorem State.setPort_clock (p : PortId) (u : PortUnit) : (s.setPort p u).clock = s.clock := rfl
@[simp] theorem State.setPort_latch (p : PortId) (u : PortUnit) : (s.setPort p u).latch = s.latch := rfl
@[simp] theorem State.setPort_surge (p : PortId) (u : PortUnit) : (s.setPort p u).surge = s.surge := rfl
@[simp] theorem State.setPort_stations (p : PortId) (u : PortUnit) : (s.setPort p u).stations = s.stations := rfl
@[simp] theorem State.setPort_addressMap (p : PortId) (u : PortUnit) : (s.setPort p u).addressMap = s.addressMap := rfl
@[simp] theorem State.setPort_handles (p : PortId) (u : PortUnit) : (s.setPort p u).handles = s.handles := rfl
@[simp] theorem State.setPort_roster (p : PortId) (u : PortUnit) : (s.setPort p u).roster = s.roster := rfl
@[simp] theorem State.setPort_tickets (p : PortId) (u : PortUnit) : (s.setPort p u).tickets = s.tickets := rfl
@[simp] theorem State.setPort_ticketMap (p : PortId) (u : PortUnit) : (s.setPort p u).ticketMap = s.ticketMap := rfl
@[simp] theorem State.setPort_loaded (p : PortId) (u : PortUnit) : (s.setPort p u).loaded = s.loaded := rfl
@[simp] theorem State.setPort_zones (p : PortId) (u : PortUnit) : (s.setPort p u).zones = s.zones := rfl
@[simp] theorem State.setPort_streams (p : PortId) (u : PortUnit) : (s.setPort p u).streams = s.streams := rfl
@[simp] theorem State.setPort_carriages (p : PortId) (u : PortUnit) : (s.setPort p u).carriages = s.carriages := rfl
@[simp] theorem State.setPort_sectors (p : PortId) (u : PortUnit) : (s.setPort p u).sectors = s.sectors := rfl
@[simp] theorem State.setPort_plans (p : PortId) (u : PortUnit) : (s.setPort p u).plans = s.plans := rfl
@[simp] theorem State.setPort_pass (p : PortId) (u : PortUnit) : (s.setPort p u).pass = s.pass := rfl
@[simp] theorem State.setPort_startSector (p : PortId) (u : PortUnit) :
    (s.setPort p u).startSector = s.startSector := rfl
@[simp] theorem State.setPort_ports (p : PortId) (u : PortUnit) : (s.setPort p u).ports = s.ports.withUnit p u := rfl
@[simp] theorem State.setPort_arbiter (p : PortId) (u : PortUnit) : (s.setPort p u).arbiter = s.arbiter := rfl
@[simp] theorem State.setPort_answer (p : PortId) (u : PortUnit) : (s.setPort p u).answer = s.answer := rfl
@[simp] theorem State.setPort_pending (p : PortId) (u : PortUnit) : (s.setPort p u).pending = s.pending := rfl

/-! ## State.mapPorts -/

@[simp] theorem State.mapPorts_device (f : PortUnit → PortUnit) : (s.mapPorts f).device = s.device := rfl
@[simp] theorem State.mapPorts_venue (f : PortUnit → PortUnit) : (s.mapPorts f).venue = s.venue := rfl
@[simp] theorem State.mapPorts_clock (f : PortUnit → PortUnit) : (s.mapPorts f).clock = s.clock := rfl
@[simp] theorem State.mapPorts_latch (f : PortUnit → PortUnit) : (s.mapPorts f).latch = s.latch := rfl
@[simp] theorem State.mapPorts_surge (f : PortUnit → PortUnit) : (s.mapPorts f).surge = s.surge := rfl
@[simp] theorem State.mapPorts_stations (f : PortUnit → PortUnit) : (s.mapPorts f).stations = s.stations := rfl
@[simp] theorem State.mapPorts_addressMap (f : PortUnit → PortUnit) : (s.mapPorts f).addressMap = s.addressMap := rfl
@[simp] theorem State.mapPorts_handles (f : PortUnit → PortUnit) : (s.mapPorts f).handles = s.handles := rfl
@[simp] theorem State.mapPorts_roster (f : PortUnit → PortUnit) : (s.mapPorts f).roster = s.roster := rfl
@[simp] theorem State.mapPorts_tickets (f : PortUnit → PortUnit) : (s.mapPorts f).tickets = s.tickets := rfl
@[simp] theorem State.mapPorts_ticketMap (f : PortUnit → PortUnit) : (s.mapPorts f).ticketMap = s.ticketMap := rfl
@[simp] theorem State.mapPorts_loaded (f : PortUnit → PortUnit) : (s.mapPorts f).loaded = s.loaded := rfl
@[simp] theorem State.mapPorts_zones (f : PortUnit → PortUnit) : (s.mapPorts f).zones = s.zones := rfl
@[simp] theorem State.mapPorts_streams (f : PortUnit → PortUnit) : (s.mapPorts f).streams = s.streams := rfl
@[simp] theorem State.mapPorts_carriages (f : PortUnit → PortUnit) : (s.mapPorts f).carriages = s.carriages := rfl
@[simp] theorem State.mapPorts_sectors (f : PortUnit → PortUnit) : (s.mapPorts f).sectors = s.sectors := rfl
@[simp] theorem State.mapPorts_plans (f : PortUnit → PortUnit) : (s.mapPorts f).plans = s.plans := rfl
@[simp] theorem State.mapPorts_pass (f : PortUnit → PortUnit) : (s.mapPorts f).pass = s.pass := rfl
@[simp] theorem State.mapPorts_startSector (f : PortUnit → PortUnit) : (s.mapPorts f).startSector = s.startSector := rfl
@[simp] theorem State.mapPorts_ports (f : PortUnit → PortUnit) : (s.mapPorts f).ports = s.ports.mapUnits f := rfl
@[simp] theorem State.mapPorts_arbiter (f : PortUnit → PortUnit) : (s.mapPorts f).arbiter = s.arbiter := rfl
@[simp] theorem State.mapPorts_answer (f : PortUnit → PortUnit) : (s.mapPorts f).answer = s.answer := rfl
@[simp] theorem State.mapPorts_pending (f : PortUnit → PortUnit) : (s.mapPorts f).pending = s.pending := rfl

/-! ## State.notifyAt -/

@[simp] theorem State.notifyAt_device (dest : PortUnit → Bool) (n : Notice) (tag : Tag) (frame : FrameNo) :
    (s.notifyAt dest n tag frame).device = s.device := rfl
@[simp] theorem State.notifyAt_venue (dest : PortUnit → Bool) (n : Notice) (tag : Tag) (frame : FrameNo) :
    (s.notifyAt dest n tag frame).venue = s.venue := rfl
@[simp] theorem State.notifyAt_clock (dest : PortUnit → Bool) (n : Notice) (tag : Tag) (frame : FrameNo) :
    (s.notifyAt dest n tag frame).clock = s.clock := rfl
@[simp] theorem State.notifyAt_latch (dest : PortUnit → Bool) (n : Notice) (tag : Tag) (frame : FrameNo) :
    (s.notifyAt dest n tag frame).latch = s.latch := rfl
@[simp] theorem State.notifyAt_surge (dest : PortUnit → Bool) (n : Notice) (tag : Tag) (frame : FrameNo) :
    (s.notifyAt dest n tag frame).surge = s.surge := rfl
@[simp] theorem State.notifyAt_stations (dest : PortUnit → Bool) (n : Notice) (tag : Tag) (frame : FrameNo) :
    (s.notifyAt dest n tag frame).stations = s.stations := rfl
@[simp] theorem State.notifyAt_addressMap (dest : PortUnit → Bool) (n : Notice) (tag : Tag) (frame : FrameNo) :
    (s.notifyAt dest n tag frame).addressMap = s.addressMap := rfl
@[simp] theorem State.notifyAt_handles (dest : PortUnit → Bool) (n : Notice) (tag : Tag) (frame : FrameNo) :
    (s.notifyAt dest n tag frame).handles = s.handles := rfl
@[simp] theorem State.notifyAt_roster (dest : PortUnit → Bool) (n : Notice) (tag : Tag) (frame : FrameNo) :
    (s.notifyAt dest n tag frame).roster = s.roster := rfl
@[simp] theorem State.notifyAt_tickets (dest : PortUnit → Bool) (n : Notice) (tag : Tag) (frame : FrameNo) :
    (s.notifyAt dest n tag frame).tickets = s.tickets := rfl
@[simp] theorem State.notifyAt_ticketMap (dest : PortUnit → Bool) (n : Notice) (tag : Tag) (frame : FrameNo) :
    (s.notifyAt dest n tag frame).ticketMap = s.ticketMap := rfl
@[simp] theorem State.notifyAt_loaded (dest : PortUnit → Bool) (n : Notice) (tag : Tag) (frame : FrameNo) :
    (s.notifyAt dest n tag frame).loaded = s.loaded := rfl
@[simp] theorem State.notifyAt_zones (dest : PortUnit → Bool) (n : Notice) (tag : Tag) (frame : FrameNo) :
    (s.notifyAt dest n tag frame).zones = s.zones := rfl
@[simp] theorem State.notifyAt_streams (dest : PortUnit → Bool) (n : Notice) (tag : Tag) (frame : FrameNo) :
    (s.notifyAt dest n tag frame).streams = s.streams := rfl
@[simp] theorem State.notifyAt_carriages (dest : PortUnit → Bool) (n : Notice) (tag : Tag) (frame : FrameNo) :
    (s.notifyAt dest n tag frame).carriages = s.carriages := rfl
@[simp] theorem State.notifyAt_sectors (dest : PortUnit → Bool) (n : Notice) (tag : Tag) (frame : FrameNo) :
    (s.notifyAt dest n tag frame).sectors = s.sectors := rfl
@[simp] theorem State.notifyAt_plans (dest : PortUnit → Bool) (n : Notice) (tag : Tag) (frame : FrameNo) :
    (s.notifyAt dest n tag frame).plans = s.plans := rfl
@[simp] theorem State.notifyAt_pass (dest : PortUnit → Bool) (n : Notice) (tag : Tag) (frame : FrameNo) :
    (s.notifyAt dest n tag frame).pass = s.pass := rfl
@[simp] theorem State.notifyAt_startSector (dest : PortUnit → Bool) (n : Notice) (tag : Tag) (frame : FrameNo) :
    (s.notifyAt dest n tag frame).startSector = s.startSector := rfl
@[simp] theorem State.notifyAt_arbiter (dest : PortUnit → Bool) (n : Notice) (tag : Tag) (frame : FrameNo) :
    (s.notifyAt dest n tag frame).arbiter = s.arbiter := rfl
@[simp] theorem State.notifyAt_answer (dest : PortUnit → Bool) (n : Notice) (tag : Tag) (frame : FrameNo) :
    (s.notifyAt dest n tag frame).answer = s.answer := rfl
@[simp] theorem State.notifyAt_pending (dest : PortUnit → Bool) (n : Notice) (tag : Tag) (frame : FrameNo) :
    (s.notifyAt dest n tag frame).pending = s.pending := rfl

/-! ## State.notify -/

@[simp] theorem State.notify_device (dest : PortUnit → Bool) (n : Notice) (tag : Tag) :
    (s.notify dest n tag).device = s.device := rfl
@[simp] theorem State.notify_venue (dest : PortUnit → Bool) (n : Notice) (tag : Tag) :
    (s.notify dest n tag).venue = s.venue := rfl
@[simp] theorem State.notify_clock (dest : PortUnit → Bool) (n : Notice) (tag : Tag) :
    (s.notify dest n tag).clock = s.clock := rfl
@[simp] theorem State.notify_latch (dest : PortUnit → Bool) (n : Notice) (tag : Tag) :
    (s.notify dest n tag).latch = s.latch := rfl
@[simp] theorem State.notify_surge (dest : PortUnit → Bool) (n : Notice) (tag : Tag) :
    (s.notify dest n tag).surge = s.surge := rfl
@[simp] theorem State.notify_stations (dest : PortUnit → Bool) (n : Notice) (tag : Tag) :
    (s.notify dest n tag).stations = s.stations := rfl
@[simp] theorem State.notify_addressMap (dest : PortUnit → Bool) (n : Notice) (tag : Tag) :
    (s.notify dest n tag).addressMap = s.addressMap := rfl
@[simp] theorem State.notify_handles (dest : PortUnit → Bool) (n : Notice) (tag : Tag) :
    (s.notify dest n tag).handles = s.handles := rfl
@[simp] theorem State.notify_roster (dest : PortUnit → Bool) (n : Notice) (tag : Tag) :
    (s.notify dest n tag).roster = s.roster := rfl
@[simp] theorem State.notify_tickets (dest : PortUnit → Bool) (n : Notice) (tag : Tag) :
    (s.notify dest n tag).tickets = s.tickets := rfl
@[simp] theorem State.notify_ticketMap (dest : PortUnit → Bool) (n : Notice) (tag : Tag) :
    (s.notify dest n tag).ticketMap = s.ticketMap := rfl
@[simp] theorem State.notify_loaded (dest : PortUnit → Bool) (n : Notice) (tag : Tag) :
    (s.notify dest n tag).loaded = s.loaded := rfl
@[simp] theorem State.notify_zones (dest : PortUnit → Bool) (n : Notice) (tag : Tag) :
    (s.notify dest n tag).zones = s.zones := rfl
@[simp] theorem State.notify_streams (dest : PortUnit → Bool) (n : Notice) (tag : Tag) :
    (s.notify dest n tag).streams = s.streams := rfl
@[simp] theorem State.notify_carriages (dest : PortUnit → Bool) (n : Notice) (tag : Tag) :
    (s.notify dest n tag).carriages = s.carriages := rfl
@[simp] theorem State.notify_sectors (dest : PortUnit → Bool) (n : Notice) (tag : Tag) :
    (s.notify dest n tag).sectors = s.sectors := rfl
@[simp] theorem State.notify_plans (dest : PortUnit → Bool) (n : Notice) (tag : Tag) :
    (s.notify dest n tag).plans = s.plans := rfl
@[simp] theorem State.notify_pass (dest : PortUnit → Bool) (n : Notice) (tag : Tag) :
    (s.notify dest n tag).pass = s.pass := rfl
@[simp] theorem State.notify_startSector (dest : PortUnit → Bool) (n : Notice) (tag : Tag) :
    (s.notify dest n tag).startSector = s.startSector := rfl
@[simp] theorem State.notify_arbiter (dest : PortUnit → Bool) (n : Notice) (tag : Tag) :
    (s.notify dest n tag).arbiter = s.arbiter := rfl
@[simp] theorem State.notify_answer (dest : PortUnit → Bool) (n : Notice) (tag : Tag) :
    (s.notify dest n tag).answer = s.answer := rfl
@[simp] theorem State.notify_pending (dest : PortUnit → Bool) (n : Notice) (tag : Tag) :
    (s.notify dest n tag).pending = s.pending := rfl

/-! ## State.raiseFrame -/

@[simp] theorem State.raiseFrame_device : (s.raiseFrame).device = s.device := rfl
@[simp] theorem State.raiseFrame_venue : (s.raiseFrame).venue = s.venue := rfl
@[simp] theorem State.raiseFrame_clock : (s.raiseFrame).clock = s.clock := rfl
@[simp] theorem State.raiseFrame_latch : (s.raiseFrame).latch = s.latch := rfl
@[simp] theorem State.raiseFrame_surge : (s.raiseFrame).surge = s.surge := rfl
@[simp] theorem State.raiseFrame_stations : (s.raiseFrame).stations = s.stations := rfl
@[simp] theorem State.raiseFrame_addressMap : (s.raiseFrame).addressMap = s.addressMap := rfl
@[simp] theorem State.raiseFrame_handles : (s.raiseFrame).handles = s.handles := rfl
@[simp] theorem State.raiseFrame_roster : (s.raiseFrame).roster = s.roster := rfl
@[simp] theorem State.raiseFrame_tickets : (s.raiseFrame).tickets = s.tickets := rfl
@[simp] theorem State.raiseFrame_ticketMap : (s.raiseFrame).ticketMap = s.ticketMap := rfl
@[simp] theorem State.raiseFrame_loaded : (s.raiseFrame).loaded = s.loaded := rfl
@[simp] theorem State.raiseFrame_zones : (s.raiseFrame).zones = s.zones := rfl
@[simp] theorem State.raiseFrame_streams : (s.raiseFrame).streams = s.streams := rfl
@[simp] theorem State.raiseFrame_carriages : (s.raiseFrame).carriages = s.carriages := rfl
@[simp] theorem State.raiseFrame_sectors : (s.raiseFrame).sectors = s.sectors := rfl
@[simp] theorem State.raiseFrame_plans : (s.raiseFrame).plans = s.plans := rfl
@[simp] theorem State.raiseFrame_pass : (s.raiseFrame).pass = s.pass := rfl
@[simp] theorem State.raiseFrame_startSector : (s.raiseFrame).startSector = s.startSector := rfl
@[simp] theorem State.raiseFrame_ports : (s.raiseFrame).ports = s.ports.mapUnits (raise frameBit) := rfl
@[simp] theorem State.raiseFrame_arbiter : (s.raiseFrame).arbiter = s.arbiter := rfl
@[simp] theorem State.raiseFrame_answer : (s.raiseFrame).answer = s.answer := rfl
@[simp] theorem State.raiseFrame_pending : (s.raiseFrame).pending = s.pending := rfl

/-! ## State.setStation -/

@[simp] theorem State.setStation_device (h : Handle) (st : Station) : (s.setStation h st).device = s.device := rfl
@[simp] theorem State.setStation_venue (h : Handle) (st : Station) : (s.setStation h st).venue = s.venue := rfl
@[simp] theorem State.setStation_clock (h : Handle) (st : Station) : (s.setStation h st).clock = s.clock := rfl
@[simp] theorem State.setStation_latch (h : Handle) (st : Station) : (s.setStation h st).latch = s.latch := rfl
@[simp] theorem State.setStation_surge (h : Handle) (st : Station) : (s.setStation h st).surge = s.surge := rfl
@[simp] theorem State.setStation_stations (h : Handle) (st : Station) :
    (s.setStation h st).stations = tableStore s.stations h st := rfl
@[simp] theorem State.setStation_addressMap (h : Handle) (st : Station) :
    (s.setStation h st).addressMap = s.addressMap := rfl
@[simp] theorem State.setStation_handles (h : Handle) (st : Station) : (s.setStation h st).handles = s.handles := rfl
@[simp] theorem State.setStation_roster (h : Handle) (st : Station) : (s.setStation h st).roster = s.roster := rfl
@[simp] theorem State.setStation_tickets (h : Handle) (st : Station) : (s.setStation h st).tickets = s.tickets := rfl
@[simp] theorem State.setStation_ticketMap (h : Handle) (st : Station) :
    (s.setStation h st).ticketMap = s.ticketMap := rfl
@[simp] theorem State.setStation_loaded (h : Handle) (st : Station) : (s.setStation h st).loaded = s.loaded := rfl
@[simp] theorem State.setStation_zones (h : Handle) (st : Station) : (s.setStation h st).zones = s.zones := rfl
@[simp] theorem State.setStation_streams (h : Handle) (st : Station) : (s.setStation h st).streams = s.streams := rfl
@[simp] theorem State.setStation_carriages (h : Handle) (st : Station) :
    (s.setStation h st).carriages = s.carriages := rfl
@[simp] theorem State.setStation_sectors (h : Handle) (st : Station) : (s.setStation h st).sectors = s.sectors := rfl
@[simp] theorem State.setStation_plans (h : Handle) (st : Station) : (s.setStation h st).plans = s.plans := rfl
@[simp] theorem State.setStation_pass (h : Handle) (st : Station) : (s.setStation h st).pass = s.pass := rfl
@[simp] theorem State.setStation_startSector (h : Handle) (st : Station) :
    (s.setStation h st).startSector = s.startSector := rfl
@[simp] theorem State.setStation_ports (h : Handle) (st : Station) : (s.setStation h st).ports = s.ports := rfl
@[simp] theorem State.setStation_arbiter (h : Handle) (st : Station) : (s.setStation h st).arbiter = s.arbiter := rfl
@[simp] theorem State.setStation_answer (h : Handle) (st : Station) : (s.setStation h st).answer = s.answer := rfl
@[simp] theorem State.setStation_pending (h : Handle) (st : Station) : (s.setStation h st).pending = s.pending := rfl

/-! ## State.setRoster -/

@[simp] theorem State.setRoster_device (c : CellId) (e : RosterEntry) : (s.setRoster c e).device = s.device := rfl
@[simp] theorem State.setRoster_venue (c : CellId) (e : RosterEntry) : (s.setRoster c e).venue = s.venue := rfl
@[simp] theorem State.setRoster_clock (c : CellId) (e : RosterEntry) : (s.setRoster c e).clock = s.clock := rfl
@[simp] theorem State.setRoster_latch (c : CellId) (e : RosterEntry) : (s.setRoster c e).latch = s.latch := rfl
@[simp] theorem State.setRoster_surge (c : CellId) (e : RosterEntry) : (s.setRoster c e).surge = s.surge := rfl
@[simp] theorem State.setRoster_stations (c : CellId) (e : RosterEntry) : (s.setRoster c e).stations = s.stations := rfl
@[simp] theorem State.setRoster_addressMap (c : CellId) (e : RosterEntry) :
    (s.setRoster c e).addressMap = s.addressMap := rfl
@[simp] theorem State.setRoster_handles (c : CellId) (e : RosterEntry) : (s.setRoster c e).handles = s.handles := rfl
@[simp] theorem State.setRoster_roster (c : CellId) (e : RosterEntry) :
    (s.setRoster c e).roster = tableWrite {} s.roster c.val e := rfl
@[simp] theorem State.setRoster_tickets (c : CellId) (e : RosterEntry) : (s.setRoster c e).tickets = s.tickets := rfl
@[simp] theorem State.setRoster_ticketMap (c : CellId) (e : RosterEntry) :
    (s.setRoster c e).ticketMap = s.ticketMap := rfl
@[simp] theorem State.setRoster_loaded (c : CellId) (e : RosterEntry) : (s.setRoster c e).loaded = s.loaded := rfl
@[simp] theorem State.setRoster_zones (c : CellId) (e : RosterEntry) : (s.setRoster c e).zones = s.zones := rfl
@[simp] theorem State.setRoster_streams (c : CellId) (e : RosterEntry) : (s.setRoster c e).streams = s.streams := rfl
@[simp] theorem State.setRoster_carriages (c : CellId) (e : RosterEntry) :
    (s.setRoster c e).carriages = s.carriages := rfl
@[simp] theorem State.setRoster_sectors (c : CellId) (e : RosterEntry) : (s.setRoster c e).sectors = s.sectors := rfl
@[simp] theorem State.setRoster_plans (c : CellId) (e : RosterEntry) : (s.setRoster c e).plans = s.plans := rfl
@[simp] theorem State.setRoster_pass (c : CellId) (e : RosterEntry) : (s.setRoster c e).pass = s.pass := rfl
@[simp] theorem State.setRoster_startSector (c : CellId) (e : RosterEntry) :
    (s.setRoster c e).startSector = s.startSector := rfl
@[simp] theorem State.setRoster_ports (c : CellId) (e : RosterEntry) : (s.setRoster c e).ports = s.ports := rfl
@[simp] theorem State.setRoster_arbiter (c : CellId) (e : RosterEntry) : (s.setRoster c e).arbiter = s.arbiter := rfl
@[simp] theorem State.setRoster_answer (c : CellId) (e : RosterEntry) : (s.setRoster c e).answer = s.answer := rfl
@[simp] theorem State.setRoster_pending (c : CellId) (e : RosterEntry) : (s.setRoster c e).pending = s.pending := rfl

/-! ## State.addCount -/

@[simp] theorem State.addCount_device (c : CellId) : (s.addCount c).device = s.device := rfl
@[simp] theorem State.addCount_venue (c : CellId) : (s.addCount c).venue = s.venue := rfl
@[simp] theorem State.addCount_clock (c : CellId) : (s.addCount c).clock = s.clock := rfl
@[simp] theorem State.addCount_latch (c : CellId) : (s.addCount c).latch = s.latch := rfl
@[simp] theorem State.addCount_surge (c : CellId) : (s.addCount c).surge = s.surge := rfl
@[simp] theorem State.addCount_stations (c : CellId) : (s.addCount c).stations = s.stations := rfl
@[simp] theorem State.addCount_addressMap (c : CellId) : (s.addCount c).addressMap = s.addressMap := rfl
@[simp] theorem State.addCount_handles (c : CellId) : (s.addCount c).handles = s.handles := rfl
@[simp] theorem State.addCount_tickets (c : CellId) : (s.addCount c).tickets = s.tickets := rfl
@[simp] theorem State.addCount_ticketMap (c : CellId) : (s.addCount c).ticketMap = s.ticketMap := rfl
@[simp] theorem State.addCount_loaded (c : CellId) : (s.addCount c).loaded = s.loaded := rfl
@[simp] theorem State.addCount_zones (c : CellId) : (s.addCount c).zones = s.zones := rfl
@[simp] theorem State.addCount_streams (c : CellId) : (s.addCount c).streams = s.streams := rfl
@[simp] theorem State.addCount_carriages (c : CellId) : (s.addCount c).carriages = s.carriages := rfl
@[simp] theorem State.addCount_sectors (c : CellId) : (s.addCount c).sectors = s.sectors := rfl
@[simp] theorem State.addCount_plans (c : CellId) : (s.addCount c).plans = s.plans := rfl
@[simp] theorem State.addCount_pass (c : CellId) : (s.addCount c).pass = s.pass := rfl
@[simp] theorem State.addCount_startSector (c : CellId) : (s.addCount c).startSector = s.startSector := rfl
@[simp] theorem State.addCount_ports (c : CellId) : (s.addCount c).ports = s.ports := rfl
@[simp] theorem State.addCount_arbiter (c : CellId) : (s.addCount c).arbiter = s.arbiter := rfl
@[simp] theorem State.addCount_answer (c : CellId) : (s.addCount c).answer = s.answer := rfl
@[simp] theorem State.addCount_pending (c : CellId) : (s.addCount c).pending = s.pending := rfl

/-! ## State.subCount -/

@[simp] theorem State.subCount_device (c : CellId) : (s.subCount c).device = s.device := rfl
@[simp] theorem State.subCount_venue (c : CellId) : (s.subCount c).venue = s.venue := rfl
@[simp] theorem State.subCount_clock (c : CellId) : (s.subCount c).clock = s.clock := rfl
@[simp] theorem State.subCount_latch (c : CellId) : (s.subCount c).latch = s.latch := rfl
@[simp] theorem State.subCount_surge (c : CellId) : (s.subCount c).surge = s.surge := rfl
@[simp] theorem State.subCount_stations (c : CellId) : (s.subCount c).stations = s.stations := rfl
@[simp] theorem State.subCount_addressMap (c : CellId) : (s.subCount c).addressMap = s.addressMap := rfl
@[simp] theorem State.subCount_handles (c : CellId) : (s.subCount c).handles = s.handles := rfl
@[simp] theorem State.subCount_tickets (c : CellId) : (s.subCount c).tickets = s.tickets := rfl
@[simp] theorem State.subCount_ticketMap (c : CellId) : (s.subCount c).ticketMap = s.ticketMap := rfl
@[simp] theorem State.subCount_loaded (c : CellId) : (s.subCount c).loaded = s.loaded := rfl
@[simp] theorem State.subCount_zones (c : CellId) : (s.subCount c).zones = s.zones := rfl
@[simp] theorem State.subCount_streams (c : CellId) : (s.subCount c).streams = s.streams := rfl
@[simp] theorem State.subCount_carriages (c : CellId) : (s.subCount c).carriages = s.carriages := rfl
@[simp] theorem State.subCount_sectors (c : CellId) : (s.subCount c).sectors = s.sectors := rfl
@[simp] theorem State.subCount_plans (c : CellId) : (s.subCount c).plans = s.plans := rfl
@[simp] theorem State.subCount_pass (c : CellId) : (s.subCount c).pass = s.pass := rfl
@[simp] theorem State.subCount_startSector (c : CellId) : (s.subCount c).startSector = s.startSector := rfl
@[simp] theorem State.subCount_ports (c : CellId) : (s.subCount c).ports = s.ports := rfl
@[simp] theorem State.subCount_arbiter (c : CellId) : (s.subCount c).arbiter = s.arbiter := rfl
@[simp] theorem State.subCount_answer (c : CellId) : (s.subCount c).answer = s.answer := rfl
@[simp] theorem State.subCount_pending (c : CellId) : (s.subCount c).pending = s.pending := rfl

/-! ## State.addPending -/

@[simp] theorem State.addPending_device (c : CellId) : (s.addPending c).device = s.device := rfl
@[simp] theorem State.addPending_venue (c : CellId) : (s.addPending c).venue = s.venue := rfl
@[simp] theorem State.addPending_clock (c : CellId) : (s.addPending c).clock = s.clock := rfl
@[simp] theorem State.addPending_latch (c : CellId) : (s.addPending c).latch = s.latch := rfl
@[simp] theorem State.addPending_surge (c : CellId) : (s.addPending c).surge = s.surge := rfl
@[simp] theorem State.addPending_stations (c : CellId) : (s.addPending c).stations = s.stations := rfl
@[simp] theorem State.addPending_addressMap (c : CellId) : (s.addPending c).addressMap = s.addressMap := rfl
@[simp] theorem State.addPending_handles (c : CellId) : (s.addPending c).handles = s.handles := rfl
@[simp] theorem State.addPending_tickets (c : CellId) : (s.addPending c).tickets = s.tickets := rfl
@[simp] theorem State.addPending_ticketMap (c : CellId) : (s.addPending c).ticketMap = s.ticketMap := rfl
@[simp] theorem State.addPending_loaded (c : CellId) : (s.addPending c).loaded = s.loaded := rfl
@[simp] theorem State.addPending_zones (c : CellId) : (s.addPending c).zones = s.zones := rfl
@[simp] theorem State.addPending_streams (c : CellId) : (s.addPending c).streams = s.streams := rfl
@[simp] theorem State.addPending_carriages (c : CellId) : (s.addPending c).carriages = s.carriages := rfl
@[simp] theorem State.addPending_sectors (c : CellId) : (s.addPending c).sectors = s.sectors := rfl
@[simp] theorem State.addPending_plans (c : CellId) : (s.addPending c).plans = s.plans := rfl
@[simp] theorem State.addPending_pass (c : CellId) : (s.addPending c).pass = s.pass := rfl
@[simp] theorem State.addPending_startSector (c : CellId) : (s.addPending c).startSector = s.startSector := rfl
@[simp] theorem State.addPending_ports (c : CellId) : (s.addPending c).ports = s.ports := rfl
@[simp] theorem State.addPending_arbiter (c : CellId) : (s.addPending c).arbiter = s.arbiter := rfl
@[simp] theorem State.addPending_answer (c : CellId) : (s.addPending c).answer = s.answer := rfl
@[simp] theorem State.addPending_pending (c : CellId) : (s.addPending c).pending = s.pending := rfl

/-! ## State.subPending -/

@[simp] theorem State.subPending_device (c : CellId) : (s.subPending c).device = s.device := rfl
@[simp] theorem State.subPending_venue (c : CellId) : (s.subPending c).venue = s.venue := rfl
@[simp] theorem State.subPending_clock (c : CellId) : (s.subPending c).clock = s.clock := rfl
@[simp] theorem State.subPending_latch (c : CellId) : (s.subPending c).latch = s.latch := rfl
@[simp] theorem State.subPending_surge (c : CellId) : (s.subPending c).surge = s.surge := rfl
@[simp] theorem State.subPending_stations (c : CellId) : (s.subPending c).stations = s.stations := rfl
@[simp] theorem State.subPending_addressMap (c : CellId) : (s.subPending c).addressMap = s.addressMap := rfl
@[simp] theorem State.subPending_handles (c : CellId) : (s.subPending c).handles = s.handles := rfl
@[simp] theorem State.subPending_tickets (c : CellId) : (s.subPending c).tickets = s.tickets := rfl
@[simp] theorem State.subPending_ticketMap (c : CellId) : (s.subPending c).ticketMap = s.ticketMap := rfl
@[simp] theorem State.subPending_loaded (c : CellId) : (s.subPending c).loaded = s.loaded := rfl
@[simp] theorem State.subPending_zones (c : CellId) : (s.subPending c).zones = s.zones := rfl
@[simp] theorem State.subPending_streams (c : CellId) : (s.subPending c).streams = s.streams := rfl
@[simp] theorem State.subPending_carriages (c : CellId) : (s.subPending c).carriages = s.carriages := rfl
@[simp] theorem State.subPending_sectors (c : CellId) : (s.subPending c).sectors = s.sectors := rfl
@[simp] theorem State.subPending_plans (c : CellId) : (s.subPending c).plans = s.plans := rfl
@[simp] theorem State.subPending_pass (c : CellId) : (s.subPending c).pass = s.pass := rfl
@[simp] theorem State.subPending_startSector (c : CellId) : (s.subPending c).startSector = s.startSector := rfl
@[simp] theorem State.subPending_ports (c : CellId) : (s.subPending c).ports = s.ports := rfl
@[simp] theorem State.subPending_arbiter (c : CellId) : (s.subPending c).arbiter = s.arbiter := rfl
@[simp] theorem State.subPending_answer (c : CellId) : (s.subPending c).answer = s.answer := rfl
@[simp] theorem State.subPending_pending (c : CellId) : (s.subPending c).pending = s.pending := rfl

/-! ## State.setTicket -/

@[simp] theorem State.setTicket_device (t : TicketHandle) (k : Ticket) : (s.setTicket t k).device = s.device := rfl
@[simp] theorem State.setTicket_venue (t : TicketHandle) (k : Ticket) : (s.setTicket t k).venue = s.venue := rfl
@[simp] theorem State.setTicket_clock (t : TicketHandle) (k : Ticket) : (s.setTicket t k).clock = s.clock := rfl
@[simp] theorem State.setTicket_latch (t : TicketHandle) (k : Ticket) : (s.setTicket t k).latch = s.latch := rfl
@[simp] theorem State.setTicket_surge (t : TicketHandle) (k : Ticket) : (s.setTicket t k).surge = s.surge := rfl
@[simp] theorem State.setTicket_stations (t : TicketHandle) (k : Ticket) :
    (s.setTicket t k).stations = s.stations := rfl
@[simp] theorem State.setTicket_addressMap (t : TicketHandle) (k : Ticket) :
    (s.setTicket t k).addressMap = s.addressMap := rfl
@[simp] theorem State.setTicket_handles (t : TicketHandle) (k : Ticket) : (s.setTicket t k).handles = s.handles := rfl
@[simp] theorem State.setTicket_roster (t : TicketHandle) (k : Ticket) : (s.setTicket t k).roster = s.roster := rfl
@[simp] theorem State.setTicket_tickets (t : TicketHandle) (k : Ticket) :
    (s.setTicket t k).tickets = tableStore s.tickets t k := rfl
@[simp] theorem State.setTicket_ticketMap (t : TicketHandle) (k : Ticket) :
    (s.setTicket t k).ticketMap = s.ticketMap := rfl
@[simp] theorem State.setTicket_loaded (t : TicketHandle) (k : Ticket) : (s.setTicket t k).loaded = s.loaded := rfl
@[simp] theorem State.setTicket_zones (t : TicketHandle) (k : Ticket) : (s.setTicket t k).zones = s.zones := rfl
@[simp] theorem State.setTicket_streams (t : TicketHandle) (k : Ticket) : (s.setTicket t k).streams = s.streams := rfl
@[simp] theorem State.setTicket_carriages (t : TicketHandle) (k : Ticket) :
    (s.setTicket t k).carriages = s.carriages := rfl
@[simp] theorem State.setTicket_sectors (t : TicketHandle) (k : Ticket) : (s.setTicket t k).sectors = s.sectors := rfl
@[simp] theorem State.setTicket_plans (t : TicketHandle) (k : Ticket) : (s.setTicket t k).plans = s.plans := rfl
@[simp] theorem State.setTicket_pass (t : TicketHandle) (k : Ticket) : (s.setTicket t k).pass = s.pass := rfl
@[simp] theorem State.setTicket_startSector (t : TicketHandle) (k : Ticket) :
    (s.setTicket t k).startSector = s.startSector := rfl
@[simp] theorem State.setTicket_ports (t : TicketHandle) (k : Ticket) : (s.setTicket t k).ports = s.ports := rfl
@[simp] theorem State.setTicket_arbiter (t : TicketHandle) (k : Ticket) : (s.setTicket t k).arbiter = s.arbiter := rfl
@[simp] theorem State.setTicket_answer (t : TicketHandle) (k : Ticket) : (s.setTicket t k).answer = s.answer := rfl
@[simp] theorem State.setTicket_pending (t : TicketHandle) (k : Ticket) : (s.setTicket t k).pending = s.pending := rfl

/-! ## State.setZone -/

@[simp] theorem State.setZone_device (z : ZoneId) (v : Zone) : (s.setZone z v).device = s.device := rfl
@[simp] theorem State.setZone_venue (z : ZoneId) (v : Zone) : (s.setZone z v).venue = s.venue := rfl
@[simp] theorem State.setZone_clock (z : ZoneId) (v : Zone) : (s.setZone z v).clock = s.clock := rfl
@[simp] theorem State.setZone_latch (z : ZoneId) (v : Zone) : (s.setZone z v).latch = s.latch := rfl
@[simp] theorem State.setZone_surge (z : ZoneId) (v : Zone) : (s.setZone z v).surge = s.surge := rfl
@[simp] theorem State.setZone_stations (z : ZoneId) (v : Zone) : (s.setZone z v).stations = s.stations := rfl
@[simp] theorem State.setZone_addressMap (z : ZoneId) (v : Zone) : (s.setZone z v).addressMap = s.addressMap := rfl
@[simp] theorem State.setZone_handles (z : ZoneId) (v : Zone) : (s.setZone z v).handles = s.handles := rfl
@[simp] theorem State.setZone_roster (z : ZoneId) (v : Zone) : (s.setZone z v).roster = s.roster := rfl
@[simp] theorem State.setZone_tickets (z : ZoneId) (v : Zone) : (s.setZone z v).tickets = s.tickets := rfl
@[simp] theorem State.setZone_ticketMap (z : ZoneId) (v : Zone) : (s.setZone z v).ticketMap = s.ticketMap := rfl
@[simp] theorem State.setZone_loaded (z : ZoneId) (v : Zone) : (s.setZone z v).loaded = s.loaded := rfl
@[simp] theorem State.setZone_zones (z : ZoneId) (v : Zone) :
    (s.setZone z v).zones = tableWrite {} s.zones z.val v := rfl
@[simp] theorem State.setZone_streams (z : ZoneId) (v : Zone) : (s.setZone z v).streams = s.streams := rfl
@[simp] theorem State.setZone_carriages (z : ZoneId) (v : Zone) : (s.setZone z v).carriages = s.carriages := rfl
@[simp] theorem State.setZone_sectors (z : ZoneId) (v : Zone) : (s.setZone z v).sectors = s.sectors := rfl
@[simp] theorem State.setZone_plans (z : ZoneId) (v : Zone) : (s.setZone z v).plans = s.plans := rfl
@[simp] theorem State.setZone_pass (z : ZoneId) (v : Zone) : (s.setZone z v).pass = s.pass := rfl
@[simp] theorem State.setZone_startSector (z : ZoneId) (v : Zone) : (s.setZone z v).startSector = s.startSector := rfl
@[simp] theorem State.setZone_ports (z : ZoneId) (v : Zone) : (s.setZone z v).ports = s.ports := rfl
@[simp] theorem State.setZone_arbiter (z : ZoneId) (v : Zone) : (s.setZone z v).arbiter = s.arbiter := rfl
@[simp] theorem State.setZone_answer (z : ZoneId) (v : Zone) : (s.setZone z v).answer = s.answer := rfl
@[simp] theorem State.setZone_pending (z : ZoneId) (v : Zone) : (s.setZone z v).pending = s.pending := rfl

/-! ## State.setStream -/

@[simp] theorem State.setStream_device (x : StreamId) (v : Stream) : (s.setStream x v).device = s.device := rfl
@[simp] theorem State.setStream_venue (x : StreamId) (v : Stream) : (s.setStream x v).venue = s.venue := rfl
@[simp] theorem State.setStream_clock (x : StreamId) (v : Stream) : (s.setStream x v).clock = s.clock := rfl
@[simp] theorem State.setStream_latch (x : StreamId) (v : Stream) : (s.setStream x v).latch = s.latch := rfl
@[simp] theorem State.setStream_surge (x : StreamId) (v : Stream) : (s.setStream x v).surge = s.surge := rfl
@[simp] theorem State.setStream_stations (x : StreamId) (v : Stream) : (s.setStream x v).stations = s.stations := rfl
@[simp] theorem State.setStream_addressMap (x : StreamId) (v : Stream) :
    (s.setStream x v).addressMap = s.addressMap := rfl
@[simp] theorem State.setStream_handles (x : StreamId) (v : Stream) : (s.setStream x v).handles = s.handles := rfl
@[simp] theorem State.setStream_roster (x : StreamId) (v : Stream) : (s.setStream x v).roster = s.roster := rfl
@[simp] theorem State.setStream_tickets (x : StreamId) (v : Stream) : (s.setStream x v).tickets = s.tickets := rfl
@[simp] theorem State.setStream_ticketMap (x : StreamId) (v : Stream) : (s.setStream x v).ticketMap = s.ticketMap := rfl
@[simp] theorem State.setStream_loaded (x : StreamId) (v : Stream) : (s.setStream x v).loaded = s.loaded := rfl
@[simp] theorem State.setStream_zones (x : StreamId) (v : Stream) : (s.setStream x v).zones = s.zones := rfl
@[simp] theorem State.setStream_streams (x : StreamId) (v : Stream) :
    (s.setStream x v).streams = tableWrite {} s.streams x.val v := rfl
@[simp] theorem State.setStream_carriages (x : StreamId) (v : Stream) : (s.setStream x v).carriages = s.carriages := rfl
@[simp] theorem State.setStream_sectors (x : StreamId) (v : Stream) : (s.setStream x v).sectors = s.sectors := rfl
@[simp] theorem State.setStream_plans (x : StreamId) (v : Stream) : (s.setStream x v).plans = s.plans := rfl
@[simp] theorem State.setStream_pass (x : StreamId) (v : Stream) : (s.setStream x v).pass = s.pass := rfl
@[simp] theorem State.setStream_startSector (x : StreamId) (v : Stream) :
    (s.setStream x v).startSector = s.startSector := rfl
@[simp] theorem State.setStream_ports (x : StreamId) (v : Stream) : (s.setStream x v).ports = s.ports := rfl
@[simp] theorem State.setStream_arbiter (x : StreamId) (v : Stream) : (s.setStream x v).arbiter = s.arbiter := rfl
@[simp] theorem State.setStream_answer (x : StreamId) (v : Stream) : (s.setStream x v).answer = s.answer := rfl
@[simp] theorem State.setStream_pending (x : StreamId) (v : Stream) : (s.setStream x v).pending = s.pending := rfl

/-! ## State.setTotals -/

@[simp] theorem State.setTotals_device (x : StreamId) (a b : Nat) : (s.setTotals x a b).device = s.device := rfl
@[simp] theorem State.setTotals_venue (x : StreamId) (a b : Nat) : (s.setTotals x a b).venue = s.venue := rfl
@[simp] theorem State.setTotals_clock (x : StreamId) (a b : Nat) : (s.setTotals x a b).clock = s.clock := rfl
@[simp] theorem State.setTotals_latch (x : StreamId) (a b : Nat) : (s.setTotals x a b).latch = s.latch := rfl
@[simp] theorem State.setTotals_surge (x : StreamId) (a b : Nat) : (s.setTotals x a b).surge = s.surge := rfl
@[simp] theorem State.setTotals_stations (x : StreamId) (a b : Nat) : (s.setTotals x a b).stations = s.stations := rfl
@[simp] theorem State.setTotals_addressMap (x : StreamId) (a b : Nat) :
    (s.setTotals x a b).addressMap = s.addressMap := rfl
@[simp] theorem State.setTotals_handles (x : StreamId) (a b : Nat) : (s.setTotals x a b).handles = s.handles := rfl
@[simp] theorem State.setTotals_roster (x : StreamId) (a b : Nat) : (s.setTotals x a b).roster = s.roster := rfl
@[simp] theorem State.setTotals_tickets (x : StreamId) (a b : Nat) : (s.setTotals x a b).tickets = s.tickets := rfl
@[simp] theorem State.setTotals_ticketMap (x : StreamId) (a b : Nat) :
    (s.setTotals x a b).ticketMap = s.ticketMap := rfl
@[simp] theorem State.setTotals_loaded (x : StreamId) (a b : Nat) : (s.setTotals x a b).loaded = s.loaded := rfl
@[simp] theorem State.setTotals_zones (x : StreamId) (a b : Nat) : (s.setTotals x a b).zones = s.zones := rfl
@[simp] theorem State.setTotals_carriages (x : StreamId) (a b : Nat) :
    (s.setTotals x a b).carriages = s.carriages := rfl
@[simp] theorem State.setTotals_sectors (x : StreamId) (a b : Nat) : (s.setTotals x a b).sectors = s.sectors := rfl
@[simp] theorem State.setTotals_plans (x : StreamId) (a b : Nat) : (s.setTotals x a b).plans = s.plans := rfl
@[simp] theorem State.setTotals_pass (x : StreamId) (a b : Nat) : (s.setTotals x a b).pass = s.pass := rfl
@[simp] theorem State.setTotals_startSector (x : StreamId) (a b : Nat) :
    (s.setTotals x a b).startSector = s.startSector := rfl
@[simp] theorem State.setTotals_ports (x : StreamId) (a b : Nat) : (s.setTotals x a b).ports = s.ports := rfl
@[simp] theorem State.setTotals_arbiter (x : StreamId) (a b : Nat) : (s.setTotals x a b).arbiter = s.arbiter := rfl
@[simp] theorem State.setTotals_answer (x : StreamId) (a b : Nat) : (s.setTotals x a b).answer = s.answer := rfl
@[simp] theorem State.setTotals_pending (x : StreamId) (a b : Nat) : (s.setTotals x a b).pending = s.pending := rfl

/-! ## State.addHeld -/

@[simp] theorem State.addHeld_device (x : StreamId) : (s.addHeld x).device = s.device := rfl
@[simp] theorem State.addHeld_venue (x : StreamId) : (s.addHeld x).venue = s.venue := rfl
@[simp] theorem State.addHeld_clock (x : StreamId) : (s.addHeld x).clock = s.clock := rfl
@[simp] theorem State.addHeld_latch (x : StreamId) : (s.addHeld x).latch = s.latch := rfl
@[simp] theorem State.addHeld_surge (x : StreamId) : (s.addHeld x).surge = s.surge := rfl
@[simp] theorem State.addHeld_stations (x : StreamId) : (s.addHeld x).stations = s.stations := rfl
@[simp] theorem State.addHeld_addressMap (x : StreamId) : (s.addHeld x).addressMap = s.addressMap := rfl
@[simp] theorem State.addHeld_handles (x : StreamId) : (s.addHeld x).handles = s.handles := rfl
@[simp] theorem State.addHeld_roster (x : StreamId) : (s.addHeld x).roster = s.roster := rfl
@[simp] theorem State.addHeld_tickets (x : StreamId) : (s.addHeld x).tickets = s.tickets := rfl
@[simp] theorem State.addHeld_ticketMap (x : StreamId) : (s.addHeld x).ticketMap = s.ticketMap := rfl
@[simp] theorem State.addHeld_loaded (x : StreamId) : (s.addHeld x).loaded = s.loaded := rfl
@[simp] theorem State.addHeld_zones (x : StreamId) : (s.addHeld x).zones = s.zones := rfl
@[simp] theorem State.addHeld_carriages (x : StreamId) : (s.addHeld x).carriages = s.carriages := rfl
@[simp] theorem State.addHeld_sectors (x : StreamId) : (s.addHeld x).sectors = s.sectors := rfl
@[simp] theorem State.addHeld_plans (x : StreamId) : (s.addHeld x).plans = s.plans := rfl
@[simp] theorem State.addHeld_pass (x : StreamId) : (s.addHeld x).pass = s.pass := rfl
@[simp] theorem State.addHeld_startSector (x : StreamId) : (s.addHeld x).startSector = s.startSector := rfl
@[simp] theorem State.addHeld_ports (x : StreamId) : (s.addHeld x).ports = s.ports := rfl
@[simp] theorem State.addHeld_arbiter (x : StreamId) : (s.addHeld x).arbiter = s.arbiter := rfl
@[simp] theorem State.addHeld_answer (x : StreamId) : (s.addHeld x).answer = s.answer := rfl
@[simp] theorem State.addHeld_pending (x : StreamId) : (s.addHeld x).pending = s.pending := rfl

/-! ## State.subHeld -/

@[simp] theorem State.subHeld_device (x : StreamId) : (s.subHeld x).device = s.device := rfl
@[simp] theorem State.subHeld_venue (x : StreamId) : (s.subHeld x).venue = s.venue := rfl
@[simp] theorem State.subHeld_clock (x : StreamId) : (s.subHeld x).clock = s.clock := rfl
@[simp] theorem State.subHeld_latch (x : StreamId) : (s.subHeld x).latch = s.latch := rfl
@[simp] theorem State.subHeld_surge (x : StreamId) : (s.subHeld x).surge = s.surge := rfl
@[simp] theorem State.subHeld_stations (x : StreamId) : (s.subHeld x).stations = s.stations := rfl
@[simp] theorem State.subHeld_addressMap (x : StreamId) : (s.subHeld x).addressMap = s.addressMap := rfl
@[simp] theorem State.subHeld_handles (x : StreamId) : (s.subHeld x).handles = s.handles := rfl
@[simp] theorem State.subHeld_roster (x : StreamId) : (s.subHeld x).roster = s.roster := rfl
@[simp] theorem State.subHeld_tickets (x : StreamId) : (s.subHeld x).tickets = s.tickets := rfl
@[simp] theorem State.subHeld_ticketMap (x : StreamId) : (s.subHeld x).ticketMap = s.ticketMap := rfl
@[simp] theorem State.subHeld_loaded (x : StreamId) : (s.subHeld x).loaded = s.loaded := rfl
@[simp] theorem State.subHeld_zones (x : StreamId) : (s.subHeld x).zones = s.zones := rfl
@[simp] theorem State.subHeld_carriages (x : StreamId) : (s.subHeld x).carriages = s.carriages := rfl
@[simp] theorem State.subHeld_sectors (x : StreamId) : (s.subHeld x).sectors = s.sectors := rfl
@[simp] theorem State.subHeld_plans (x : StreamId) : (s.subHeld x).plans = s.plans := rfl
@[simp] theorem State.subHeld_pass (x : StreamId) : (s.subHeld x).pass = s.pass := rfl
@[simp] theorem State.subHeld_startSector (x : StreamId) : (s.subHeld x).startSector = s.startSector := rfl
@[simp] theorem State.subHeld_ports (x : StreamId) : (s.subHeld x).ports = s.ports := rfl
@[simp] theorem State.subHeld_arbiter (x : StreamId) : (s.subHeld x).arbiter = s.arbiter := rfl
@[simp] theorem State.subHeld_answer (x : StreamId) : (s.subHeld x).answer = s.answer := rfl
@[simp] theorem State.subHeld_pending (x : StreamId) : (s.subHeld x).pending = s.pending := rfl

/-! ## State.setCarriage -/

@[simp] theorem State.setCarriage_device (c : CellId) (x : StreamId) (k : Carriage) :
    (s.setCarriage c x k).device = s.device := rfl
@[simp] theorem State.setCarriage_venue (c : CellId) (x : StreamId) (k : Carriage) :
    (s.setCarriage c x k).venue = s.venue := rfl
@[simp] theorem State.setCarriage_clock (c : CellId) (x : StreamId) (k : Carriage) :
    (s.setCarriage c x k).clock = s.clock := rfl
@[simp] theorem State.setCarriage_latch (c : CellId) (x : StreamId) (k : Carriage) :
    (s.setCarriage c x k).latch = s.latch := rfl
@[simp] theorem State.setCarriage_surge (c : CellId) (x : StreamId) (k : Carriage) :
    (s.setCarriage c x k).surge = s.surge := rfl
@[simp] theorem State.setCarriage_stations (c : CellId) (x : StreamId) (k : Carriage) :
    (s.setCarriage c x k).stations = s.stations := rfl
@[simp] theorem State.setCarriage_addressMap (c : CellId) (x : StreamId) (k : Carriage) :
    (s.setCarriage c x k).addressMap = s.addressMap := rfl
@[simp] theorem State.setCarriage_handles (c : CellId) (x : StreamId) (k : Carriage) :
    (s.setCarriage c x k).handles = s.handles := rfl
@[simp] theorem State.setCarriage_roster (c : CellId) (x : StreamId) (k : Carriage) :
    (s.setCarriage c x k).roster = s.roster := rfl
@[simp] theorem State.setCarriage_tickets (c : CellId) (x : StreamId) (k : Carriage) :
    (s.setCarriage c x k).tickets = s.tickets := rfl
@[simp] theorem State.setCarriage_ticketMap (c : CellId) (x : StreamId) (k : Carriage) :
    (s.setCarriage c x k).ticketMap = s.ticketMap := rfl
@[simp] theorem State.setCarriage_loaded (c : CellId) (x : StreamId) (k : Carriage) :
    (s.setCarriage c x k).loaded = s.loaded := rfl
@[simp] theorem State.setCarriage_zones (c : CellId) (x : StreamId) (k : Carriage) :
    (s.setCarriage c x k).zones = s.zones := rfl
@[simp] theorem State.setCarriage_streams (c : CellId) (x : StreamId) (k : Carriage) :
    (s.setCarriage c x k).streams = s.streams := rfl
@[simp] theorem State.setCarriage_carriages (c : CellId) (x : StreamId) (k : Carriage) :
    (s.setCarriage c x k).carriages = tableStore s.carriages (carriageKey c x) k := rfl
@[simp] theorem State.setCarriage_sectors (c : CellId) (x : StreamId) (k : Carriage) :
    (s.setCarriage c x k).sectors = s.sectors := rfl
@[simp] theorem State.setCarriage_plans (c : CellId) (x : StreamId) (k : Carriage) :
    (s.setCarriage c x k).plans = s.plans := rfl
@[simp] theorem State.setCarriage_pass (c : CellId) (x : StreamId) (k : Carriage) :
    (s.setCarriage c x k).pass = s.pass := rfl
@[simp] theorem State.setCarriage_startSector (c : CellId) (x : StreamId) (k : Carriage) :
    (s.setCarriage c x k).startSector = s.startSector := rfl
@[simp] theorem State.setCarriage_ports (c : CellId) (x : StreamId) (k : Carriage) :
    (s.setCarriage c x k).ports = s.ports := rfl
@[simp] theorem State.setCarriage_arbiter (c : CellId) (x : StreamId) (k : Carriage) :
    (s.setCarriage c x k).arbiter = s.arbiter := rfl
@[simp] theorem State.setCarriage_answer (c : CellId) (x : StreamId) (k : Carriage) :
    (s.setCarriage c x k).answer = s.answer := rfl
@[simp] theorem State.setCarriage_pending (c : CellId) (x : StreamId) (k : Carriage) :
    (s.setCarriage c x k).pending = s.pending := rfl

/-! ## State.eraseCarriage -/

@[simp] theorem State.eraseCarriage_device (c : CellId) (x : StreamId) : (s.eraseCarriage c x).device = s.device := rfl
@[simp] theorem State.eraseCarriage_venue (c : CellId) (x : StreamId) : (s.eraseCarriage c x).venue = s.venue := rfl
@[simp] theorem State.eraseCarriage_clock (c : CellId) (x : StreamId) : (s.eraseCarriage c x).clock = s.clock := rfl
@[simp] theorem State.eraseCarriage_latch (c : CellId) (x : StreamId) : (s.eraseCarriage c x).latch = s.latch := rfl
@[simp] theorem State.eraseCarriage_surge (c : CellId) (x : StreamId) : (s.eraseCarriage c x).surge = s.surge := rfl
@[simp] theorem State.eraseCarriage_stations (c : CellId) (x : StreamId) :
    (s.eraseCarriage c x).stations = s.stations := rfl
@[simp] theorem State.eraseCarriage_addressMap (c : CellId) (x : StreamId) :
    (s.eraseCarriage c x).addressMap = s.addressMap := rfl
@[simp] theorem State.eraseCarriage_handles (c : CellId) (x : StreamId) :
    (s.eraseCarriage c x).handles = s.handles := rfl
@[simp] theorem State.eraseCarriage_roster (c : CellId) (x : StreamId) : (s.eraseCarriage c x).roster = s.roster := rfl
@[simp] theorem State.eraseCarriage_tickets (c : CellId) (x : StreamId) :
    (s.eraseCarriage c x).tickets = s.tickets := rfl
@[simp] theorem State.eraseCarriage_ticketMap (c : CellId) (x : StreamId) :
    (s.eraseCarriage c x).ticketMap = s.ticketMap := rfl
@[simp] theorem State.eraseCarriage_loaded (c : CellId) (x : StreamId) : (s.eraseCarriage c x).loaded = s.loaded := rfl
@[simp] theorem State.eraseCarriage_zones (c : CellId) (x : StreamId) : (s.eraseCarriage c x).zones = s.zones := rfl
@[simp] theorem State.eraseCarriage_streams (c : CellId) (x : StreamId) :
    (s.eraseCarriage c x).streams = s.streams := rfl
@[simp] theorem State.eraseCarriage_carriages (c : CellId) (x : StreamId) :
    (s.eraseCarriage c x).carriages = tableErase s.carriages (carriageKey c x) := rfl
@[simp] theorem State.eraseCarriage_sectors (c : CellId) (x : StreamId) :
    (s.eraseCarriage c x).sectors = s.sectors := rfl
@[simp] theorem State.eraseCarriage_plans (c : CellId) (x : StreamId) : (s.eraseCarriage c x).plans = s.plans := rfl
@[simp] theorem State.eraseCarriage_pass (c : CellId) (x : StreamId) : (s.eraseCarriage c x).pass = s.pass := rfl
@[simp] theorem State.eraseCarriage_startSector (c : CellId) (x : StreamId) :
    (s.eraseCarriage c x).startSector = s.startSector := rfl
@[simp] theorem State.eraseCarriage_ports (c : CellId) (x : StreamId) : (s.eraseCarriage c x).ports = s.ports := rfl
@[simp] theorem State.eraseCarriage_arbiter (c : CellId) (x : StreamId) :
    (s.eraseCarriage c x).arbiter = s.arbiter := rfl
@[simp] theorem State.eraseCarriage_answer (c : CellId) (x : StreamId) : (s.eraseCarriage c x).answer = s.answer := rfl
@[simp] theorem State.eraseCarriage_pending (c : CellId) (x : StreamId) :
    (s.eraseCarriage c x).pending = s.pending := rfl

/-! ## State.dropCarriage -/

@[simp] theorem State.dropCarriage_device (c : CellId) (x : StreamId) : (s.dropCarriage c x).device = s.device := rfl
@[simp] theorem State.dropCarriage_venue (c : CellId) (x : StreamId) : (s.dropCarriage c x).venue = s.venue := rfl
@[simp] theorem State.dropCarriage_clock (c : CellId) (x : StreamId) : (s.dropCarriage c x).clock = s.clock := rfl
@[simp] theorem State.dropCarriage_latch (c : CellId) (x : StreamId) : (s.dropCarriage c x).latch = s.latch := rfl
@[simp] theorem State.dropCarriage_surge (c : CellId) (x : StreamId) : (s.dropCarriage c x).surge = s.surge := rfl
@[simp] theorem State.dropCarriage_stations (c : CellId) (x : StreamId) :
    (s.dropCarriage c x).stations = s.stations := rfl
@[simp] theorem State.dropCarriage_addressMap (c : CellId) (x : StreamId) :
    (s.dropCarriage c x).addressMap = s.addressMap := rfl
@[simp] theorem State.dropCarriage_handles (c : CellId) (x : StreamId) : (s.dropCarriage c x).handles = s.handles := rfl
@[simp] theorem State.dropCarriage_tickets (c : CellId) (x : StreamId) : (s.dropCarriage c x).tickets = s.tickets := rfl
@[simp] theorem State.dropCarriage_ticketMap (c : CellId) (x : StreamId) :
    (s.dropCarriage c x).ticketMap = s.ticketMap := rfl
@[simp] theorem State.dropCarriage_loaded (c : CellId) (x : StreamId) : (s.dropCarriage c x).loaded = s.loaded := rfl
@[simp] theorem State.dropCarriage_zones (c : CellId) (x : StreamId) : (s.dropCarriage c x).zones = s.zones := rfl
@[simp] theorem State.dropCarriage_streams (c : CellId) (x : StreamId) : (s.dropCarriage c x).streams = s.streams := rfl
@[simp] theorem State.dropCarriage_carriages (c : CellId) (x : StreamId) :
    (s.dropCarriage c x).carriages = tableErase s.carriages (carriageKey c x) := rfl
@[simp] theorem State.dropCarriage_sectors (c : CellId) (x : StreamId) : (s.dropCarriage c x).sectors = s.sectors := rfl
@[simp] theorem State.dropCarriage_plans (c : CellId) (x : StreamId) : (s.dropCarriage c x).plans = s.plans := rfl
@[simp] theorem State.dropCarriage_pass (c : CellId) (x : StreamId) : (s.dropCarriage c x).pass = s.pass := rfl
@[simp] theorem State.dropCarriage_startSector (c : CellId) (x : StreamId) :
    (s.dropCarriage c x).startSector = s.startSector := rfl
@[simp] theorem State.dropCarriage_ports (c : CellId) (x : StreamId) : (s.dropCarriage c x).ports = s.ports := rfl
@[simp] theorem State.dropCarriage_arbiter (c : CellId) (x : StreamId) : (s.dropCarriage c x).arbiter = s.arbiter := rfl
@[simp] theorem State.dropCarriage_answer (c : CellId) (x : StreamId) : (s.dropCarriage c x).answer = s.answer := rfl
@[simp] theorem State.dropCarriage_pending (c : CellId) (x : StreamId) : (s.dropCarriage c x).pending = s.pending := rfl

/-! ## State.createCarriage -/

@[simp] theorem State.createCarriage_device (c : CellId) (x : StreamId) (l : Level) :
    (s.createCarriage c x l).device = s.device := rfl
@[simp] theorem State.createCarriage_venue (c : CellId) (x : StreamId) (l : Level) :
    (s.createCarriage c x l).venue = s.venue := rfl
@[simp] theorem State.createCarriage_clock (c : CellId) (x : StreamId) (l : Level) :
    (s.createCarriage c x l).clock = s.clock := rfl
@[simp] theorem State.createCarriage_latch (c : CellId) (x : StreamId) (l : Level) :
    (s.createCarriage c x l).latch = s.latch := rfl
@[simp] theorem State.createCarriage_surge (c : CellId) (x : StreamId) (l : Level) :
    (s.createCarriage c x l).surge = s.surge := rfl
@[simp] theorem State.createCarriage_stations (c : CellId) (x : StreamId) (l : Level) :
    (s.createCarriage c x l).stations = s.stations := rfl
@[simp] theorem State.createCarriage_addressMap (c : CellId) (x : StreamId) (l : Level) :
    (s.createCarriage c x l).addressMap = s.addressMap := rfl
@[simp] theorem State.createCarriage_handles (c : CellId) (x : StreamId) (l : Level) :
    (s.createCarriage c x l).handles = s.handles := rfl
@[simp] theorem State.createCarriage_tickets (c : CellId) (x : StreamId) (l : Level) :
    (s.createCarriage c x l).tickets = s.tickets := rfl
@[simp] theorem State.createCarriage_ticketMap (c : CellId) (x : StreamId) (l : Level) :
    (s.createCarriage c x l).ticketMap = s.ticketMap := rfl
@[simp] theorem State.createCarriage_loaded (c : CellId) (x : StreamId) (l : Level) :
    (s.createCarriage c x l).loaded = s.loaded := rfl
@[simp] theorem State.createCarriage_zones (c : CellId) (x : StreamId) (l : Level) :
    (s.createCarriage c x l).zones = s.zones := rfl
@[simp] theorem State.createCarriage_sectors (c : CellId) (x : StreamId) (l : Level) :
    (s.createCarriage c x l).sectors = s.sectors := rfl
@[simp] theorem State.createCarriage_plans (c : CellId) (x : StreamId) (l : Level) :
    (s.createCarriage c x l).plans = s.plans := rfl
@[simp] theorem State.createCarriage_pass (c : CellId) (x : StreamId) (l : Level) :
    (s.createCarriage c x l).pass = s.pass := rfl
@[simp] theorem State.createCarriage_startSector (c : CellId) (x : StreamId) (l : Level) :
    (s.createCarriage c x l).startSector = s.startSector := rfl
@[simp] theorem State.createCarriage_ports (c : CellId) (x : StreamId) (l : Level) :
    (s.createCarriage c x l).ports = s.ports := rfl
@[simp] theorem State.createCarriage_arbiter (c : CellId) (x : StreamId) (l : Level) :
    (s.createCarriage c x l).arbiter = s.arbiter := rfl
@[simp] theorem State.createCarriage_answer (c : CellId) (x : StreamId) (l : Level) :
    (s.createCarriage c x l).answer = s.answer := rfl
@[simp] theorem State.createCarriage_pending (c : CellId) (x : StreamId) (l : Level) :
    (s.createCarriage c x l).pending = s.pending := rfl

/-! ## State.setSector -/

@[simp] theorem State.setSector_device (sec : SectorId) (v : Sector) : (s.setSector sec v).device = s.device := rfl
@[simp] theorem State.setSector_venue (sec : SectorId) (v : Sector) : (s.setSector sec v).venue = s.venue := rfl
@[simp] theorem State.setSector_clock (sec : SectorId) (v : Sector) : (s.setSector sec v).clock = s.clock := rfl
@[simp] theorem State.setSector_latch (sec : SectorId) (v : Sector) : (s.setSector sec v).latch = s.latch := rfl
@[simp] theorem State.setSector_surge (sec : SectorId) (v : Sector) : (s.setSector sec v).surge = s.surge := rfl
@[simp] theorem State.setSector_stations (sec : SectorId) (v : Sector) :
    (s.setSector sec v).stations = s.stations := rfl
@[simp] theorem State.setSector_addressMap (sec : SectorId) (v : Sector) :
    (s.setSector sec v).addressMap = s.addressMap := rfl
@[simp] theorem State.setSector_handles (sec : SectorId) (v : Sector) : (s.setSector sec v).handles = s.handles := rfl
@[simp] theorem State.setSector_roster (sec : SectorId) (v : Sector) : (s.setSector sec v).roster = s.roster := rfl
@[simp] theorem State.setSector_tickets (sec : SectorId) (v : Sector) : (s.setSector sec v).tickets = s.tickets := rfl
@[simp] theorem State.setSector_ticketMap (sec : SectorId) (v : Sector) :
    (s.setSector sec v).ticketMap = s.ticketMap := rfl
@[simp] theorem State.setSector_loaded (sec : SectorId) (v : Sector) : (s.setSector sec v).loaded = s.loaded := rfl
@[simp] theorem State.setSector_zones (sec : SectorId) (v : Sector) : (s.setSector sec v).zones = s.zones := rfl
@[simp] theorem State.setSector_streams (sec : SectorId) (v : Sector) : (s.setSector sec v).streams = s.streams := rfl
@[simp] theorem State.setSector_carriages (sec : SectorId) (v : Sector) :
    (s.setSector sec v).carriages = s.carriages := rfl
@[simp] theorem State.setSector_sectors (sec : SectorId) (v : Sector) :
    (s.setSector sec v).sectors = tableWrite {} s.sectors sec.val v := rfl
@[simp] theorem State.setSector_plans (sec : SectorId) (v : Sector) : (s.setSector sec v).plans = s.plans := rfl
@[simp] theorem State.setSector_pass (sec : SectorId) (v : Sector) : (s.setSector sec v).pass = s.pass := rfl
@[simp] theorem State.setSector_startSector (sec : SectorId) (v : Sector) :
    (s.setSector sec v).startSector = s.startSector := rfl
@[simp] theorem State.setSector_ports (sec : SectorId) (v : Sector) : (s.setSector sec v).ports = s.ports := rfl
@[simp] theorem State.setSector_arbiter (sec : SectorId) (v : Sector) : (s.setSector sec v).arbiter = s.arbiter := rfl
@[simp] theorem State.setSector_answer (sec : SectorId) (v : Sector) : (s.setSector sec v).answer = s.answer := rfl
@[simp] theorem State.setSector_pending (sec : SectorId) (v : Sector) : (s.setSector sec v).pending = s.pending := rfl

/-! ## State.setPlan -/

@[simp] theorem State.setPlan_device (c : CellId) (e : PlanEntry) : (s.setPlan c e).device = s.device := rfl
@[simp] theorem State.setPlan_venue (c : CellId) (e : PlanEntry) : (s.setPlan c e).venue = s.venue := rfl
@[simp] theorem State.setPlan_clock (c : CellId) (e : PlanEntry) : (s.setPlan c e).clock = s.clock := rfl
@[simp] theorem State.setPlan_latch (c : CellId) (e : PlanEntry) : (s.setPlan c e).latch = s.latch := rfl
@[simp] theorem State.setPlan_surge (c : CellId) (e : PlanEntry) : (s.setPlan c e).surge = s.surge := rfl
@[simp] theorem State.setPlan_stations (c : CellId) (e : PlanEntry) : (s.setPlan c e).stations = s.stations := rfl
@[simp] theorem State.setPlan_addressMap (c : CellId) (e : PlanEntry) : (s.setPlan c e).addressMap = s.addressMap := rfl
@[simp] theorem State.setPlan_handles (c : CellId) (e : PlanEntry) : (s.setPlan c e).handles = s.handles := rfl
@[simp] theorem State.setPlan_roster (c : CellId) (e : PlanEntry) : (s.setPlan c e).roster = s.roster := rfl
@[simp] theorem State.setPlan_tickets (c : CellId) (e : PlanEntry) : (s.setPlan c e).tickets = s.tickets := rfl
@[simp] theorem State.setPlan_ticketMap (c : CellId) (e : PlanEntry) : (s.setPlan c e).ticketMap = s.ticketMap := rfl
@[simp] theorem State.setPlan_loaded (c : CellId) (e : PlanEntry) : (s.setPlan c e).loaded = s.loaded := rfl
@[simp] theorem State.setPlan_zones (c : CellId) (e : PlanEntry) : (s.setPlan c e).zones = s.zones := rfl
@[simp] theorem State.setPlan_streams (c : CellId) (e : PlanEntry) : (s.setPlan c e).streams = s.streams := rfl
@[simp] theorem State.setPlan_carriages (c : CellId) (e : PlanEntry) : (s.setPlan c e).carriages = s.carriages := rfl
@[simp] theorem State.setPlan_sectors (c : CellId) (e : PlanEntry) : (s.setPlan c e).sectors = s.sectors := rfl
@[simp] theorem State.setPlan_plans (c : CellId) (e : PlanEntry) :
    (s.setPlan c e).plans = tableWrite {} s.plans c.val e := rfl
@[simp] theorem State.setPlan_pass (c : CellId) (e : PlanEntry) : (s.setPlan c e).pass = s.pass := rfl
@[simp] theorem State.setPlan_startSector (c : CellId) (e : PlanEntry) :
    (s.setPlan c e).startSector = s.startSector := rfl
@[simp] theorem State.setPlan_ports (c : CellId) (e : PlanEntry) : (s.setPlan c e).ports = s.ports := rfl
@[simp] theorem State.setPlan_arbiter (c : CellId) (e : PlanEntry) : (s.setPlan c e).arbiter = s.arbiter := rfl
@[simp] theorem State.setPlan_answer (c : CellId) (e : PlanEntry) : (s.setPlan c e).answer = s.answer := rfl
@[simp] theorem State.setPlan_pending (c : CellId) (e : PlanEntry) : (s.setPlan c e).pending = s.pending := rfl

/-! ## State.setArbiter -/

@[simp] theorem State.setArbiter_device (a : Arbiter) : (s.setArbiter a).device = s.device := rfl
@[simp] theorem State.setArbiter_venue (a : Arbiter) : (s.setArbiter a).venue = s.venue := rfl
@[simp] theorem State.setArbiter_clock (a : Arbiter) : (s.setArbiter a).clock = s.clock := rfl
@[simp] theorem State.setArbiter_latch (a : Arbiter) : (s.setArbiter a).latch = s.latch := rfl
@[simp] theorem State.setArbiter_surge (a : Arbiter) : (s.setArbiter a).surge = s.surge := rfl
@[simp] theorem State.setArbiter_stations (a : Arbiter) : (s.setArbiter a).stations = s.stations := rfl
@[simp] theorem State.setArbiter_addressMap (a : Arbiter) : (s.setArbiter a).addressMap = s.addressMap := rfl
@[simp] theorem State.setArbiter_handles (a : Arbiter) : (s.setArbiter a).handles = s.handles := rfl
@[simp] theorem State.setArbiter_roster (a : Arbiter) : (s.setArbiter a).roster = s.roster := rfl
@[simp] theorem State.setArbiter_tickets (a : Arbiter) : (s.setArbiter a).tickets = s.tickets := rfl
@[simp] theorem State.setArbiter_ticketMap (a : Arbiter) : (s.setArbiter a).ticketMap = s.ticketMap := rfl
@[simp] theorem State.setArbiter_loaded (a : Arbiter) : (s.setArbiter a).loaded = s.loaded := rfl
@[simp] theorem State.setArbiter_zones (a : Arbiter) : (s.setArbiter a).zones = s.zones := rfl
@[simp] theorem State.setArbiter_streams (a : Arbiter) : (s.setArbiter a).streams = s.streams := rfl
@[simp] theorem State.setArbiter_carriages (a : Arbiter) : (s.setArbiter a).carriages = s.carriages := rfl
@[simp] theorem State.setArbiter_sectors (a : Arbiter) : (s.setArbiter a).sectors = s.sectors := rfl
@[simp] theorem State.setArbiter_plans (a : Arbiter) : (s.setArbiter a).plans = s.plans := rfl
@[simp] theorem State.setArbiter_pass (a : Arbiter) : (s.setArbiter a).pass = s.pass := rfl
@[simp] theorem State.setArbiter_startSector (a : Arbiter) : (s.setArbiter a).startSector = s.startSector := rfl
@[simp] theorem State.setArbiter_ports (a : Arbiter) : (s.setArbiter a).ports = s.ports := rfl
@[simp] theorem State.setArbiter_arbiter (a : Arbiter) : (s.setArbiter a).arbiter = a := rfl
@[simp] theorem State.setArbiter_answer (a : Arbiter) : (s.setArbiter a).answer = s.answer := rfl
@[simp] theorem State.setArbiter_pending (a : Arbiter) : (s.setArbiter a).pending = s.pending := rfl

/-! ## State.setAnswer -/

@[simp] theorem State.setAnswer_device (a : BusAnswer) : (s.setAnswer a).device = s.device := rfl
@[simp] theorem State.setAnswer_venue (a : BusAnswer) : (s.setAnswer a).venue = s.venue := rfl
@[simp] theorem State.setAnswer_clock (a : BusAnswer) : (s.setAnswer a).clock = s.clock := rfl
@[simp] theorem State.setAnswer_latch (a : BusAnswer) : (s.setAnswer a).latch = s.latch := rfl
@[simp] theorem State.setAnswer_surge (a : BusAnswer) : (s.setAnswer a).surge = s.surge := rfl
@[simp] theorem State.setAnswer_stations (a : BusAnswer) : (s.setAnswer a).stations = s.stations := rfl
@[simp] theorem State.setAnswer_addressMap (a : BusAnswer) : (s.setAnswer a).addressMap = s.addressMap := rfl
@[simp] theorem State.setAnswer_handles (a : BusAnswer) : (s.setAnswer a).handles = s.handles := rfl
@[simp] theorem State.setAnswer_roster (a : BusAnswer) : (s.setAnswer a).roster = s.roster := rfl
@[simp] theorem State.setAnswer_tickets (a : BusAnswer) : (s.setAnswer a).tickets = s.tickets := rfl
@[simp] theorem State.setAnswer_ticketMap (a : BusAnswer) : (s.setAnswer a).ticketMap = s.ticketMap := rfl
@[simp] theorem State.setAnswer_loaded (a : BusAnswer) : (s.setAnswer a).loaded = s.loaded := rfl
@[simp] theorem State.setAnswer_zones (a : BusAnswer) : (s.setAnswer a).zones = s.zones := rfl
@[simp] theorem State.setAnswer_streams (a : BusAnswer) : (s.setAnswer a).streams = s.streams := rfl
@[simp] theorem State.setAnswer_carriages (a : BusAnswer) : (s.setAnswer a).carriages = s.carriages := rfl
@[simp] theorem State.setAnswer_sectors (a : BusAnswer) : (s.setAnswer a).sectors = s.sectors := rfl
@[simp] theorem State.setAnswer_plans (a : BusAnswer) : (s.setAnswer a).plans = s.plans := rfl
@[simp] theorem State.setAnswer_pass (a : BusAnswer) : (s.setAnswer a).pass = s.pass := rfl
@[simp] theorem State.setAnswer_startSector (a : BusAnswer) : (s.setAnswer a).startSector = s.startSector := rfl
@[simp] theorem State.setAnswer_ports (a : BusAnswer) : (s.setAnswer a).ports = s.ports := rfl
@[simp] theorem State.setAnswer_arbiter (a : BusAnswer) : (s.setAnswer a).arbiter = s.arbiter := rfl
@[simp] theorem State.setAnswer_answer (a : BusAnswer) : (s.setAnswer a).answer = some a := rfl
@[simp] theorem State.setAnswer_pending (a : BusAnswer) : (s.setAnswer a).pending = s.pending := rfl

/-! ## State.setClock -/

@[simp] theorem State.setClock_device (c : ClockState) (strobe : Instant) :
    (s.setClock c strobe).device = s.device := rfl
@[simp] theorem State.setClock_venue (c : ClockState) (strobe : Instant) : (s.setClock c strobe).venue = s.venue := rfl
@[simp] theorem State.setClock_clock (c : ClockState) (strobe : Instant) :
    (s.setClock c strobe).clock = { s.clock with state := c, lastStrobe := strobe } := rfl
@[simp] theorem State.setClock_latch (c : ClockState) (strobe : Instant) : (s.setClock c strobe).latch = s.latch := rfl
@[simp] theorem State.setClock_surge (c : ClockState) (strobe : Instant) : (s.setClock c strobe).surge = s.surge := rfl
@[simp] theorem State.setClock_stations (c : ClockState) (strobe : Instant) :
    (s.setClock c strobe).stations = s.stations := rfl
@[simp] theorem State.setClock_addressMap (c : ClockState) (strobe : Instant) :
    (s.setClock c strobe).addressMap = s.addressMap := rfl
@[simp] theorem State.setClock_handles (c : ClockState) (strobe : Instant) :
    (s.setClock c strobe).handles = s.handles := rfl
@[simp] theorem State.setClock_roster (c : ClockState) (strobe : Instant) :
    (s.setClock c strobe).roster = s.roster := rfl
@[simp] theorem State.setClock_tickets (c : ClockState) (strobe : Instant) :
    (s.setClock c strobe).tickets = s.tickets := rfl
@[simp] theorem State.setClock_ticketMap (c : ClockState) (strobe : Instant) :
    (s.setClock c strobe).ticketMap = s.ticketMap := rfl
@[simp] theorem State.setClock_loaded (c : ClockState) (strobe : Instant) :
    (s.setClock c strobe).loaded = s.loaded := rfl
@[simp] theorem State.setClock_zones (c : ClockState) (strobe : Instant) : (s.setClock c strobe).zones = s.zones := rfl
@[simp] theorem State.setClock_streams (c : ClockState) (strobe : Instant) :
    (s.setClock c strobe).streams = s.streams := rfl
@[simp] theorem State.setClock_carriages (c : ClockState) (strobe : Instant) :
    (s.setClock c strobe).carriages = s.carriages := rfl
@[simp] theorem State.setClock_sectors (c : ClockState) (strobe : Instant) :
    (s.setClock c strobe).sectors = s.sectors := rfl
@[simp] theorem State.setClock_plans (c : ClockState) (strobe : Instant) : (s.setClock c strobe).plans = s.plans := rfl
@[simp] theorem State.setClock_pass (c : ClockState) (strobe : Instant) : (s.setClock c strobe).pass = s.pass := rfl
@[simp] theorem State.setClock_startSector (c : ClockState) (strobe : Instant) :
    (s.setClock c strobe).startSector = s.startSector := rfl
@[simp] theorem State.setClock_ports (c : ClockState) (strobe : Instant) : (s.setClock c strobe).ports = s.ports := rfl
@[simp] theorem State.setClock_arbiter (c : ClockState) (strobe : Instant) :
    (s.setClock c strobe).arbiter = s.arbiter := rfl
@[simp] theorem State.setClock_answer (c : ClockState) (strobe : Instant) :
    (s.setClock c strobe).answer = s.answer := rfl
@[simp] theorem State.setClock_pending (c : ClockState) (strobe : Instant) :
    (s.setClock c strobe).pending = s.pending := rfl

/-! ## State.advanceFrame -/

@[simp] theorem State.advanceFrame_device (now : Instant) : (s.advanceFrame now).device = s.device := rfl
@[simp] theorem State.advanceFrame_venue (now : Instant) : (s.advanceFrame now).venue = s.venue := rfl
@[simp] theorem State.advanceFrame_clock (now : Instant) :
    (s.advanceFrame now).clock = { s.clock with frame := s.clock.frame + 1, lastBoundary := now } := rfl
@[simp] theorem State.advanceFrame_latch (now : Instant) : (s.advanceFrame now).latch = s.latch := rfl
@[simp] theorem State.advanceFrame_surge (now : Instant) : (s.advanceFrame now).surge = s.surge := rfl
@[simp] theorem State.advanceFrame_stations (now : Instant) : (s.advanceFrame now).stations = s.stations := rfl
@[simp] theorem State.advanceFrame_addressMap (now : Instant) : (s.advanceFrame now).addressMap = s.addressMap := rfl
@[simp] theorem State.advanceFrame_handles (now : Instant) : (s.advanceFrame now).handles = s.handles := rfl
@[simp] theorem State.advanceFrame_roster (now : Instant) : (s.advanceFrame now).roster = s.roster := rfl
@[simp] theorem State.advanceFrame_tickets (now : Instant) : (s.advanceFrame now).tickets = s.tickets := rfl
@[simp] theorem State.advanceFrame_ticketMap (now : Instant) : (s.advanceFrame now).ticketMap = s.ticketMap := rfl
@[simp] theorem State.advanceFrame_loaded (now : Instant) : (s.advanceFrame now).loaded = s.loaded := rfl
@[simp] theorem State.advanceFrame_zones (now : Instant) : (s.advanceFrame now).zones = s.zones := rfl
@[simp] theorem State.advanceFrame_streams (now : Instant) : (s.advanceFrame now).streams = s.streams := rfl
@[simp] theorem State.advanceFrame_carriages (now : Instant) : (s.advanceFrame now).carriages = s.carriages := rfl
@[simp] theorem State.advanceFrame_sectors (now : Instant) : (s.advanceFrame now).sectors = s.sectors := rfl
@[simp] theorem State.advanceFrame_plans (now : Instant) : (s.advanceFrame now).plans = s.plans := rfl
@[simp] theorem State.advanceFrame_pass (now : Instant) : (s.advanceFrame now).pass = s.pass := rfl
@[simp] theorem State.advanceFrame_startSector (now : Instant) : (s.advanceFrame now).startSector = s.startSector := rfl
@[simp] theorem State.advanceFrame_ports (now : Instant) : (s.advanceFrame now).ports = s.ports := rfl
@[simp] theorem State.advanceFrame_arbiter (now : Instant) : (s.advanceFrame now).arbiter = s.arbiter := rfl
@[simp] theorem State.advanceFrame_answer (now : Instant) : (s.advanceFrame now).answer = s.answer := rfl
@[simp] theorem State.advanceFrame_pending (now : Instant) : (s.advanceFrame now).pending = s.pending := rfl

/-! ## State.loadTicket -/

@[simp] theorem State.loadTicket_device (t : Ticket) : (s.loadTicket t).device = s.device := rfl
@[simp] theorem State.loadTicket_venue (t : Ticket) : (s.loadTicket t).venue = s.venue := rfl
@[simp] theorem State.loadTicket_clock (t : Ticket) : (s.loadTicket t).clock = s.clock := rfl
@[simp] theorem State.loadTicket_latch (t : Ticket) : (s.loadTicket t).latch = s.latch := rfl
@[simp] theorem State.loadTicket_surge (t : Ticket) : (s.loadTicket t).surge = s.surge := rfl
@[simp] theorem State.loadTicket_stations (t : Ticket) : (s.loadTicket t).stations = s.stations := rfl
@[simp] theorem State.loadTicket_addressMap (t : Ticket) : (s.loadTicket t).addressMap = s.addressMap := rfl
@[simp] theorem State.loadTicket_handles (t : Ticket) : (s.loadTicket t).handles = s.handles := rfl
@[simp] theorem State.loadTicket_roster (t : Ticket) : (s.loadTicket t).roster = s.roster := rfl
@[simp] theorem State.loadTicket_tickets (t : Ticket) :
    (s.loadTicket t).tickets = tableStore s.tickets s.loaded t := rfl
@[simp] theorem State.loadTicket_ticketMap (t : Ticket) :
    (s.loadTicket t).ticketMap = tableStore s.ticketMap t.number.toNat s.loaded := rfl
@[simp] theorem State.loadTicket_loaded (t : Ticket) : (s.loadTicket t).loaded = s.loaded + 1 := rfl
@[simp] theorem State.loadTicket_zones (t : Ticket) : (s.loadTicket t).zones = s.zones := rfl
@[simp] theorem State.loadTicket_streams (t : Ticket) : (s.loadTicket t).streams = s.streams := rfl
@[simp] theorem State.loadTicket_carriages (t : Ticket) : (s.loadTicket t).carriages = s.carriages := rfl
@[simp] theorem State.loadTicket_sectors (t : Ticket) : (s.loadTicket t).sectors = s.sectors := rfl
@[simp] theorem State.loadTicket_plans (t : Ticket) : (s.loadTicket t).plans = s.plans := rfl
@[simp] theorem State.loadTicket_pass (t : Ticket) : (s.loadTicket t).pass = s.pass := rfl
@[simp] theorem State.loadTicket_startSector (t : Ticket) : (s.loadTicket t).startSector = s.startSector := rfl
@[simp] theorem State.loadTicket_ports (t : Ticket) : (s.loadTicket t).ports = s.ports := rfl
@[simp] theorem State.loadTicket_arbiter (t : Ticket) : (s.loadTicket t).arbiter = s.arbiter := rfl
@[simp] theorem State.loadTicket_answer (t : Ticket) : (s.loadTicket t).answer = s.answer := rfl
@[simp] theorem State.loadTicket_pending (t : Ticket) : (s.loadTicket t).pending = s.pending := rfl

/-! ## State.freeStation -/

@[simp] theorem State.freeStation_device (h : Handle) (a : BitVec 48) : (s.freeStation h a).device = s.device := rfl
@[simp] theorem State.freeStation_venue (h : Handle) (a : BitVec 48) : (s.freeStation h a).venue = s.venue := rfl
@[simp] theorem State.freeStation_clock (h : Handle) (a : BitVec 48) : (s.freeStation h a).clock = s.clock := rfl
@[simp] theorem State.freeStation_latch (h : Handle) (a : BitVec 48) : (s.freeStation h a).latch = s.latch := rfl
@[simp] theorem State.freeStation_surge (h : Handle) (a : BitVec 48) : (s.freeStation h a).surge = s.surge := rfl
@[simp] theorem State.freeStation_stations (h : Handle) (a : BitVec 48) :
    (s.freeStation h a).stations = tableErase s.stations h := rfl
@[simp] theorem State.freeStation_addressMap (h : Handle) (a : BitVec 48) :
    (s.freeStation h a).addressMap = tableErase s.addressMap a.toNat := rfl
@[simp] theorem State.freeStation_handles (h : Handle) (a : BitVec 48) :
    (s.freeStation h a).handles = pushHandle h s.handles := rfl
@[simp] theorem State.freeStation_roster (h : Handle) (a : BitVec 48) : (s.freeStation h a).roster = s.roster := rfl
@[simp] theorem State.freeStation_tickets (h : Handle) (a : BitVec 48) : (s.freeStation h a).tickets = s.tickets := rfl
@[simp] theorem State.freeStation_ticketMap (h : Handle) (a : BitVec 48) :
    (s.freeStation h a).ticketMap = s.ticketMap := rfl
@[simp] theorem State.freeStation_loaded (h : Handle) (a : BitVec 48) : (s.freeStation h a).loaded = s.loaded := rfl
@[simp] theorem State.freeStation_zones (h : Handle) (a : BitVec 48) : (s.freeStation h a).zones = s.zones := rfl
@[simp] theorem State.freeStation_streams (h : Handle) (a : BitVec 48) : (s.freeStation h a).streams = s.streams := rfl
@[simp] theorem State.freeStation_carriages (h : Handle) (a : BitVec 48) :
    (s.freeStation h a).carriages = s.carriages := rfl
@[simp] theorem State.freeStation_sectors (h : Handle) (a : BitVec 48) : (s.freeStation h a).sectors = s.sectors := rfl
@[simp] theorem State.freeStation_plans (h : Handle) (a : BitVec 48) : (s.freeStation h a).plans = s.plans := rfl
@[simp] theorem State.freeStation_pass (h : Handle) (a : BitVec 48) : (s.freeStation h a).pass = s.pass := rfl
@[simp] theorem State.freeStation_startSector (h : Handle) (a : BitVec 48) :
    (s.freeStation h a).startSector = s.startSector := rfl
@[simp] theorem State.freeStation_ports (h : Handle) (a : BitVec 48) : (s.freeStation h a).ports = s.ports := rfl
@[simp] theorem State.freeStation_arbiter (h : Handle) (a : BitVec 48) : (s.freeStation h a).arbiter = s.arbiter := rfl
@[simp] theorem State.freeStation_answer (h : Handle) (a : BitVec 48) : (s.freeStation h a).answer = s.answer := rfl
@[simp] theorem State.freeStation_pending (h : Handle) (a : BitVec 48) : (s.freeStation h a).pending = s.pending := rfl

/-! ## State.createStation -/

@[simp] theorem State.createStation_device (h : Handle) (rest : HandleStack) (a : BitVec 48) (c : CellId) (l : Level) :
    (s.createStation h rest a c l).device = s.device := rfl
@[simp] theorem State.createStation_venue (h : Handle) (rest : HandleStack) (a : BitVec 48) (c : CellId) (l : Level) :
    (s.createStation h rest a c l).venue = s.venue := rfl
@[simp] theorem State.createStation_clock (h : Handle) (rest : HandleStack) (a : BitVec 48) (c : CellId) (l : Level) :
    (s.createStation h rest a c l).clock = s.clock := rfl
@[simp] theorem State.createStation_latch (h : Handle) (rest : HandleStack) (a : BitVec 48) (c : CellId) (l : Level) :
    (s.createStation h rest a c l).latch = s.latch := rfl
@[simp] theorem State.createStation_surge (h : Handle) (rest : HandleStack) (a : BitVec 48) (c : CellId) (l : Level) :
    (s.createStation h rest a c l).surge = s.surge := rfl
@[simp] theorem State.createStation_addressMap (h : Handle) (rest : HandleStack) (a : BitVec 48) (c : CellId) (l : Level) :
    (s.createStation h rest a c l).addressMap = tableStore s.addressMap a.toNat h := rfl
@[simp] theorem State.createStation_handles (h : Handle) (rest : HandleStack) (a : BitVec 48) (c : CellId) (l : Level) :
    (s.createStation h rest a c l).handles = rest := rfl
@[simp] theorem State.createStation_tickets (h : Handle) (rest : HandleStack) (a : BitVec 48) (c : CellId) (l : Level) :
    (s.createStation h rest a c l).tickets = s.tickets := rfl
@[simp] theorem State.createStation_ticketMap (h : Handle) (rest : HandleStack) (a : BitVec 48) (c : CellId) (l : Level) :
    (s.createStation h rest a c l).ticketMap = s.ticketMap := rfl
@[simp] theorem State.createStation_loaded (h : Handle) (rest : HandleStack) (a : BitVec 48) (c : CellId) (l : Level) :
    (s.createStation h rest a c l).loaded = s.loaded := rfl
@[simp] theorem State.createStation_zones (h : Handle) (rest : HandleStack) (a : BitVec 48) (c : CellId) (l : Level) :
    (s.createStation h rest a c l).zones = s.zones := rfl
@[simp] theorem State.createStation_streams (h : Handle) (rest : HandleStack) (a : BitVec 48) (c : CellId) (l : Level) :
    (s.createStation h rest a c l).streams = s.streams := rfl
@[simp] theorem State.createStation_carriages (h : Handle) (rest : HandleStack) (a : BitVec 48) (c : CellId) (l : Level) :
    (s.createStation h rest a c l).carriages = s.carriages := rfl
@[simp] theorem State.createStation_sectors (h : Handle) (rest : HandleStack) (a : BitVec 48) (c : CellId) (l : Level) :
    (s.createStation h rest a c l).sectors = s.sectors := rfl
@[simp] theorem State.createStation_plans (h : Handle) (rest : HandleStack) (a : BitVec 48) (c : CellId) (l : Level) :
    (s.createStation h rest a c l).plans = s.plans := rfl
@[simp] theorem State.createStation_pass (h : Handle) (rest : HandleStack) (a : BitVec 48) (c : CellId) (l : Level) :
    (s.createStation h rest a c l).pass = s.pass := rfl
@[simp] theorem State.createStation_startSector (h : Handle) (rest : HandleStack) (a : BitVec 48) (c : CellId) (l : Level) :
    (s.createStation h rest a c l).startSector = s.startSector := rfl
@[simp] theorem State.createStation_ports (h : Handle) (rest : HandleStack) (a : BitVec 48) (c : CellId) (l : Level) :
    (s.createStation h rest a c l).ports = s.ports := rfl
@[simp] theorem State.createStation_arbiter (h : Handle) (rest : HandleStack) (a : BitVec 48) (c : CellId) (l : Level) :
    (s.createStation h rest a c l).arbiter = s.arbiter := rfl
@[simp] theorem State.createStation_answer (h : Handle) (rest : HandleStack) (a : BitVec 48) (c : CellId) (l : Level) :
    (s.createStation h rest a c l).answer = s.answer := rfl
@[simp] theorem State.createStation_pending (h : Handle) (rest : HandleStack) (a : BitVec 48) (c : CellId) (l : Level) :
    (s.createStation h rest a c l).pending = s.pending := rfl

end Sys2Proof.Machine
end

