-- ==== Sys2Proof/Laws/Ports.lean ====
section
/-! SUPPORT. The laws of the Port Units: reading a port after a change, the delivery of a notice, the canonical form of
rings and queues, and the completion of a command. -/

namespace Sys2Proof.Machine

open Sys2Proof

/-! ## Reading a port -/

@[simp] theorem unit_withUnit_self (ps : Ports) (p : PortId) (u : PortUnit) : (ps.withUnit p u).unit p = u := by
  match p with
  | 0 => rfl
  | 1 => rfl
  | 2 => rfl
  | 3 => rfl

theorem unit_withUnit_of_ne (ps : Ports) {p q : PortId} (u : PortUnit) (h : q ≠ p) :
    (ps.withUnit p u).unit q = ps.unit q := by
  match p, q with
  | 0, 0 => exact absurd rfl h
  | 0, 1 => rfl
  | 0, 2 => rfl
  | 0, 3 => rfl
  | 1, 0 => rfl
  | 1, 1 => exact absurd rfl h
  | 1, 2 => rfl
  | 1, 3 => rfl
  | 2, 0 => rfl
  | 2, 1 => rfl
  | 2, 2 => exact absurd rfl h
  | 2, 3 => rfl
  | 3, 0 => rfl
  | 3, 1 => rfl
  | 3, 2 => rfl
  | 3, 3 => exact absurd rfl h

@[simp] theorem unit_mapUnits (ps : Ports) (f : PortUnit → PortUnit) (p : PortId) :
    (ps.mapUnits f).unit p = f (ps.unit p) := by
  match p with
  | 0 => rfl
  | 1 => rfl
  | 2 => rfl
  | 3 => rfl

@[simp] theorem port_setPort_self (s : State) (p : PortId) (u : PortUnit) : (s.setPort p u).port p = u :=
  unit_withUnit_self s.ports p u

@[simp] theorem port_setPort_of_ne (s : State) {p q : PortId} (u : PortUnit) (h : q ≠ p) :
    (s.setPort p u).port q = s.port q :=
  unit_withUnit_of_ne s.ports u h

@[simp] theorem port_mapPorts (s : State) (f : PortUnit → PortUnit) (p : PortId) :
    (s.mapPorts f).port p = f (s.port p) :=
  unit_mapUnits s.ports f p

/-- A notice reaches each port it is addressed to, and no other (R164). -/
@[simp] theorem port_notifyAt (s : State) (dest : PortUnit → Bool) (n : Notice) (tag : Tag) (frame : FrameNo)
    (p : PortId) :
    (s.notifyAt dest n tag frame).port p =
      if dest (s.port p) then
        deliver (noticeKind n) (noticeRecord n tag frame s.clock.frame) s.clock.frame (s.port p)
      else s.port p := by
  simp [State.notifyAt]

@[simp] theorem port_notify (s : State) (dest : PortUnit → Bool) (n : Notice) (tag : Tag) (p : PortId) :
    (s.notify dest n tag).port p =
      if dest (s.port p) then
        deliver (noticeKind n) (noticeRecord n tag s.clock.frame s.clock.frame) s.clock.frame (s.port p)
      else s.port p := by
  simp [State.notify]

/-! ## Rings and queues as memory -/

@[simp] theorem loadWord_storeWord_self (m : Table Word) (k : Nat) (v : Word) : loadWord (storeWord m k v) k = v :=
  tableRead_write_self 0 m k v

@[simp] theorem loadWord_storeWord_of_ne (m : Table Word) {k j : Nat} (v : Word) (h : j ≠ k) :
    loadWord (storeWord m k v) j = loadWord m j :=
  tableRead_write_of_ne 0 m v h

/-- Words written from `k` upward leave every word below `k` and above them as it was. -/
theorem loadWord_storeWords_outside (m : Table Word) (k : Nat) (ws : List Word) {j : Nat}
    (h : j < k ∨ k + ws.length ≤ j) : loadWord (storeWords m k ws) j = loadWord m j := by
  induction ws generalizing m k with
  | nil => rfl
  | cons w t ih =>
    simp only [List.length_cons] at h
    rw [storeWords, ih _ _ (by omega), loadWord_storeWord_of_ne _ _ (by omega)]

/-- Words written from `k` upward are read back. -/
theorem loadWord_storeWords_inside (m : Table Word) (k : Nat) (ws : List Word) {i : Nat} (h : i < ws.length) :
    loadWord (storeWords m k ws) (k + i) = ws.getD i 0 := by
  induction ws generalizing m k i with
  | nil => simp at h
  | cons w t ih =>
    cases i with
    | zero =>
      rw [storeWords, loadWord_storeWords_outside _ _ _ (by omega)]
      simp
    | succ i =>
      have hi : i < t.length := by simpa using h
      have hk : k + (i + 1) = k + 1 + i := by omega
      rw [storeWords, hk, ih _ _ hi]
      simp

/-- A stored word keeps the canonical form of a memory that has the word. -/
theorem memoryWf_storeWord {size : Nat} {m : Table Word} (h : memoryWf size m) {k : Nat} (hk : k < size) (v : Word) :
    memoryWf size (storeWord m k v) := by
  refine ⟨tableWfDefault_write h.1 k v, fun e he => ?_⟩
  cases key_of_mem_write he with
  | inl he => omega
  | inr he => exact h.2 e he

/-- Stored words keep the canonical form of a memory that has the words. -/
theorem memoryWf_storeWords {size : Nat} {m : Table Word} (h : memoryWf size m) {k : Nat} (ws : List Word)
    (hk : k + ws.length ≤ size) : memoryWf size (storeWords m k ws) := by
  induction ws generalizing m k with
  | nil => exact h
  | cons w t ih =>
    simp only [List.length_cons] at hk
    exact ih (memoryWf_storeWord h (by omega) w) (by omega)

theorem memoryWf_nil (size : Nat) : memoryWf size [] := ⟨rfl, fun _ he => by simp at he⟩

/-! ## Delivery -/

theorem PortFrame.refl (u : PortUnit) : PortFrame u u := ⟨rfl, rfl, rfl, rfl, rfl, rfl, rfl, rfl⟩

theorem PortFrame.trans {u v w : PortUnit} (h : PortFrame u v) (h' : PortFrame v w) : PortFrame u w :=
  ⟨h'.role.trans h.role, h'.state.trans h.state, h'.producer.trans h.producer, h'.consumer.trans h.consumer,
    h'.ring.trans h.ring, h'.head.trans h.head, h'.enable.trans h.enable, h'.overlong.trans h.overlong⟩

theorem PortFrame.raise (bits : BitVec 4) (u : PortUnit) : PortFrame u (raise bits u) :=
  ⟨rfl, rfl, rfl, rfl, rfl, rfl, rfl, rfl⟩

/-- All that a delivery can do (R159, R162, R163). -/
theorem deliver_cases (kind : Nat) (record : List Word) (now : FrameNo) (u : PortUnit) :
    (u.state = .quarantined ∧ deliver kind record now u = u) ∨
      (u.state = .active ∧ heldNotices u < 127 ∧ deliver kind record now u = enqueue record u) ∨
      (u.state = .active ∧ heldNotices u = 127 ∧ deliver kind record now u = enqueue (overflowRecord kind now) u) ∨
      (u.state = .active ∧ 128 ≤ heldNotices u ∧ deliver kind record now u = addDropped kind u) := by
  unfold deliver
  cases hs : u.state with
  | quarantined => exact .inl ⟨rfl, rfl⟩
  | active =>
    by_cases h1 : heldNotices u < 127
    · exact .inr (.inl ⟨rfl, h1, by simp [h1]⟩)
    · by_cases h2 : heldNotices u = 127
      · exact .inr (.inr (.inl ⟨rfl, h2, by simp [h2]⟩))
      · exact .inr (.inr (.inr ⟨rfl, by omega, by simp [h1, h2]⟩))

/-- A delivery changes nothing of a port but its queue, its tail and its attention requests. -/
theorem deliver_frame (kind : Nat) (record : List Word) (now : FrameNo) (u : PortUnit) :
    PortFrame u (deliver kind record now u) := by
  rcases deliver_cases kind record now u with ⟨_, h⟩ | ⟨_, _, h⟩ | ⟨_, _, h⟩ | ⟨_, _, h⟩ <;> rw [h] <;>
    exact ⟨rfl, rfl, rfl, rfl, rfl, rfl, rfl, rfl⟩

/-! ## Completion -/

/-- A completion changes nothing of a port but its ring, its consumer index and its attention requests. -/
theorem completeCommand_frame (len : Nat) (notify : Bool) (st : Status) (items : List Item) (u : PortUnit) :
    let v := completeCommand len notify st items u
    v.role = u.role ∧ v.state = u.state ∧ v.producer = u.producer ∧ v.head = u.head ∧ v.tail = u.tail ∧
      v.queue = u.queue ∧ v.enable = u.enable ∧ v.overlong = u.overlong := by
  cases notify <;> exact ⟨rfl, rfl, rfl, rfl, rfl, rfl, rfl, rfl⟩

/-- The consumer index passes every element of a completed command (R157). -/
@[simp] theorem completeCommand_consumer (len : Nat) (notify : Bool) (st : Status) (items : List Item)
    (u : PortUnit) : (completeCommand len notify st items u).consumer = u.consumer + BitVec.ofNat 7 len := by
  cases notify <;> rfl

/-- All that the taking of a command can do: nothing, or the completion of its reply (R155 to R157). -/
theorem serve_cases (p : PortId) (c : Command) (body : Cmd → State → Reply) (s : State) :
    (serve p c body s = s ∧ ∀ cmd, takeable (s.port p) = some cmd → cmd.code ≠ commandCode c) ∨
      ∃ cmd, takeable (s.port p) = some cmd ∧ cmd.code = commandCode c ∧
        serve p c body s = finishCommand p cmd (checkedReply p c cmd body s) := by
  unfold serve
  cases ht : takeable (s.port p) with
  | none => exact .inl ⟨rfl, fun cmd h => by simp at h⟩
  | some cmd =>
    by_cases hc : cmd.code = commandCode c
    · exact .inr ⟨cmd, rfl, hc, by simp [hc]⟩
    · refine .inl ⟨by simp [hc], fun cmd' h => ?_⟩
      cases h
      exact hc

/-- All that the Port Unit's checks can answer: one of four refusals, or the command's own reply (R1, R156). -/
theorem checkedReply_cases (p : PortId) (c : Command) (cmd : Cmd) (body : Cmd → State → Reply) (s : State) :
    (∃ st, checkedReply p c cmd body s = refuse st [] s ∧
      (st = .badLength ∨ st = .notPermitted ∨ stateRefusal s.device c = some st)) ∨
      (lengthOk c cmd.elements.length = true ∧ permits (s.port p) c = true ∧ stateRefusal s.device c = none ∧
        checkedReply p c cmd body s = body cmd s) := by
  unfold checkedReply
  by_cases hl : lengthOk c cmd.elements.length = true
  · by_cases hp : permits (s.port p) c = true
    · cases hs : stateRefusal s.device c with
      | none => exact .inr ⟨hl, hp, rfl, by simp [hl, hp]⟩
      | some st => exact .inl ⟨st, by simp [hl, hp], .inr (.inr rfl)⟩
    · exact .inl ⟨.notPermitted, by simp [hl, hp], .inr (.inl rfl)⟩
  · exact .inl ⟨.badLength, by simp [hl], .inl rfl⟩

/-- A command that is taken and passes every check of its Port Unit is completed with its own reply. -/
theorem serve_of_ready {p : PortId} {c : Command} {cmd : Cmd} {s : State} (body : Cmd → State → Reply)
    (ht : takeable (s.port p) = some cmd) (hc : cmd.code = commandCode c)
    (hl : lengthOk c cmd.elements.length = true) (hp : permits (s.port p) c = true)
    (hs : stateRefusal s.device c = none) : serve p c body s = finishCommand p cmd (body cmd s) := by
  simp [serve, checkedReply, ht, hc, hl, hp, hs]

/-- The completion of a command leaves every port but its own as the reply left it. -/
theorem finishCommand_port_of_ne {p q : PortId} (cmd : Cmd) (r : Reply) (h : q ≠ p) :
    (finishCommand p cmd r).port q = r.state.port q := by
  simp [finishCommand, h]

@[simp] theorem finishCommand_port_self (p : PortId) (cmd : Cmd) (r : Reply) :
    (finishCommand p cmd r).port p =
      completeCommand cmd.elements.length cmd.notify r.status r.items (r.state.port p) := by
  simp [finishCommand]

end Sys2Proof.Machine
end

