-- ==== Sys2Proof/Laws/Plans.lean ====
section
/-! SUPPORT. The laws of the bus and of the plans: all that a transfer can do, and what charges, builds and holds leave
as it was. -/

namespace Sys2Proof.Machine

open Sys2Proof

/-! ## Transfers -/

/-- All that an ERROR can do (R158, R159). -/
theorem busError_cases (s : State) (p : PortId) (a : WordAddr) (write : Bool) :
    ((s.port p).state = .quarantined ∧ s.busError p a write = s.setAnswer .error) ∨
      ((s.port p).state = .active ∧ (s.port p).request &&& faultBit = 0 ∧
        s.busError p a write = (s.setAnswer .error).setPort p (raise faultBit
          (deliver 0x16 (noticeRecord (.fault a write) 0 s.clock.frame s.clock.frame) s.clock.frame (s.port p)))) ∨
      ((s.port p).state = .active ∧ (s.port p).request &&& faultBit ≠ 0 ∧
        s.busError p a write = (s.setAnswer .error).setPort p { s.port p with state := .quarantined }) := by
  have hp : (s.setAnswer .error).port p = s.port p := rfl
  unfold State.busError
  simp only [hp]
  cases hs : (s.port p).state with
  | quarantined => exact .inl ⟨rfl, by simp⟩
  | active =>
    by_cases hf : (s.port p).request &&& faultBit = 0
    · exact .inr (.inl ⟨rfl, hf, by simp only [hf]; rfl⟩)
    · exact .inr (.inr ⟨rfl, hf, by simp only [hf]; rfl⟩)

/-- All that a read can do: nothing without the bus, an ERROR, or an answer (R152). -/
theorem busRead_cases (s : State) (p : PortId) (a : WordAddr) :
    (s.arbiter.holder ≠ some p ∧ s.busRead p a = s) ∨
      (s.arbiter.holder = some p ∧ s.busRead p a = s.busError p a false) ∨
      ∃ ans, s.arbiter.holder = some p ∧ barred (s.port p) (target p a) = false ∧
        s.readTarget (s.port p) (target p a) = some ans ∧ s.busRead p a = s.setAnswer ans := by
  unfold State.busRead
  by_cases hh : s.arbiter.holder = some p
  · cases hb : barred (s.port p) (target p a) with
    | true => exact .inr (.inl ⟨hh, by simp [hh]⟩)
    | false =>
      cases hr : s.readTarget (s.port p) (target p a) with
      | none => exact .inr (.inl ⟨hh, by simp [hh]⟩)
      | some ans => exact .inr (.inr ⟨ans, hh, rfl, rfl, by simp [hh]⟩)
  · exact .inl ⟨hh, by simp [hh]⟩

/-- All that a write can do: nothing without the bus, an ERROR, or a change of the port (R152). -/
theorem busWrite_cases (s : State) (p : PortId) (a : WordAddr) (v : Word) :
    (s.arbiter.holder ≠ some p ∧ s.busWrite p a v = s) ∨
      (s.arbiter.holder = some p ∧ s.busWrite p a v = s.busError p a true) ∨
      ∃ u, s.arbiter.holder = some p ∧ barred (s.port p) (target p a) = false ∧
        writeTarget (s.port p) (target p a) v = some u ∧ s.busWrite p a v = (s.setPort p u).setAnswer .ackWrite := by
  unfold State.busWrite
  by_cases hh : s.arbiter.holder = some p
  · cases hb : barred (s.port p) (target p a) with
    | true => exact .inr (.inl ⟨hh, by simp [hh]⟩)
    | false =>
      cases hr : writeTarget (s.port p) (target p a) v with
      | none => exact .inr (.inl ⟨hh, by simp [hh]⟩)
      | some u => exact .inr (.inr ⟨u, hh, rfl, rfl, by simp [hh]⟩)
  · exact .inl ⟨hh, by simp [hh]⟩

/-! ## Charges, builds and holds -/

/-- `t` is `s` but for carriages, plans and notices. -/
def PlanFrame (s t : State) : Prop :=
  (∃ c q ps, t = { s with carriages := c, plans := q, ports := ps }) ∧ ∀ p, PortFrame (s.port p) (t.port p)

theorem PlanFrame.refl (s : State) : PlanFrame s s :=
  ⟨⟨_, _, _, rfl⟩, fun _ => .refl _⟩

theorem PlanFrame.trans {s t u : State} (h : PlanFrame s t) (h' : PlanFrame t u) : PlanFrame s u := by
  obtain ⟨⟨c, q, ps, rfl⟩, hp⟩ := h
  obtain ⟨⟨c', q', ps', rfl⟩, hp'⟩ := h'
  exact ⟨⟨c', q', ps', rfl⟩, fun p => (hp p).trans (hp' p)⟩

/-- What a build or a hold of a sector reads, besides carriages and plans, it leaves. -/
theorem PlanFrame.sector {s t : State} (h : PlanFrame s t) (sec : SectorId) : t.sector sec = s.sector sec := by
  obtain ⟨⟨c, q, ps, rfl⟩, _⟩ := h
  rfl

theorem PlanFrame.setCarriage (s : State) (c : CellId) (x : StreamId) (k : Carriage) :
    PlanFrame s (s.setCarriage c x k) :=
  ⟨⟨_, _, _, rfl⟩, fun _ => .refl _⟩

theorem PlanFrame.setPlan (s : State) (c : CellId) (e : PlanEntry) : PlanFrame s (s.setPlan c e) :=
  ⟨⟨_, _, _, rfl⟩, fun _ => .refl _⟩

theorem PlanFrame.notifyAt (s : State) (dest : PortUnit → Bool) (n : Notice) (tag : Tag) (f : FrameNo) :
    PlanFrame s (s.notifyAt dest n tag f) :=
  ⟨⟨_, _, _, rfl⟩, fun p => by
    rw [port_notifyAt]
    split
    · exact deliver_frame _ _ _ _
    · exact .refl _⟩

/-- A charge changes its carriage and writes notices (R128 to R130). -/
theorem chargeCarriage_frame (s : State) (c : CellId) (x : StreamId) (k : Carriage) (g : Nat) (f : FrameNo) :
    PlanFrame s (s.chargeCarriage c x k g f) := by
  unfold State.chargeCarriage
  dsimp only
  split
  · exact .setCarriage s c x _
  · exact (PlanFrame.setCarriage s c x _).trans (.notifyAt _ _ _ _ _)
  · exact (PlanFrame.setCarriage s c x _).trans (.notifyAt _ _ _ _ _)

theorem grantNext_frame (c : CellId) (f : FrameNo) (b : Building) (x : StreamId) :
    PlanFrame b.state (grantNext c f b x).state := by
  unfold grantNext
  split
  · exact .refl _
  · split
    · exact chargeCarriage_frame _ _ _ _ _ _
    · exact .setCarriage _ _ _ _

theorem grants_frame (c : CellId) (f : FrameNo) (xs : List StreamId) (b : Building) :
    PlanFrame b.state (xs.foldl (grantNext c f) b).state := by
  induction xs generalizing b with
  | nil => exact .refl _
  | cons x xs ih => exact (grantNext_frame c f b x).trans (ih _)

/-- The build of a cell changes its carriages and its plan and writes notices (R124 to R134). -/
theorem buildCell_frame (f : FrameNo) (s : State) (c : CellId) : PlanFrame s (State.buildCell f s c) :=
  (grants_frame c f _ ⟨_, [], s⟩).trans (.setPlan _ c _)

theorem chargeHeld_frame (c : CellId) (f : FrameNo) (runs : List ReplayRun) (s : State) (x : StreamId) :
    PlanFrame s (chargeHeld c f runs s x) := by
  unfold chargeHeld
  split
  · exact .refl _
  · split
    · exact chargeCarriage_frame _ _ _ _ _ _
    · exact .setCarriage _ _ _ _

/-- The hold of a cell changes its carriages and its plan and writes notices (R145, R146). -/
theorem holdCell_frame (f : FrameNo) (s : State) (c : CellId) : PlanFrame s (State.holdCell f s c) := by
  have folds : ∀ (runs : List ReplayRun) (xs : List StreamId) (s : State),
      PlanFrame s (xs.foldl (chargeHeld c f runs) s) := by
    intro runs xs
    induction xs with
    | nil => exact fun s => .refl s
    | cons x xs ih => exact fun s => (chargeHeld_frame c f runs s x).trans (ih _)
  exact (PlanFrame.setPlan s c _).trans (folds _ _ _)

theorem cells_frame {act : State → CellId → State} (h : ∀ s c, PlanFrame s (act s c)) (cs : List CellId) (s : State) :
    PlanFrame s (cs.foldl act s) := by
  induction cs generalizing s with
  | nil => exact .refl s
  | cons c cs ih => exact (h s c).trans (ih _)

/-- A completed build changes the carriages and plans of its sector, its record and the start sector (R142). -/
theorem completeBuild_rest (s : State) (f : FrameNo) (sec : SectorId) :
    ∃ u, PlanFrame s u ∧ s.completeBuild f sec =
      { u.setSector sec { s.sector sec with planState := .stable, builtFor := some f } with
        startSector := s.sectorAfter sec } := by
  have h := cells_frame (buildCell_frame f) (s.cellsOf sec) s
  refine ⟨_, h, ?_⟩
  have hs := h.sector sec
  obtain ⟨⟨c, q, ps, he⟩, _⟩ := h
  simp only [State.completeBuild, hs]
  rw [he]
  rfl

/-- A held sector changes its carriages and plans and its built-for frame (R145). -/
theorem holdSector_rest (f : FrameNo) (s : State) (sec : SectorId) :
    ∃ u, PlanFrame s u ∧ State.holdSector f s sec = u.setSector sec { s.sector sec with builtFor := some f } := by
  have h := cells_frame (holdCell_frame f) (s.cellsOf sec) s
  exact ⟨_, h, by simp only [State.holdSector, h.sector sec]⟩

end Sys2Proof.Machine
end

