-- ==== Sys2Proof/Laws/Records.lean ====
section
/-! SUPPORT. The laws of the records: reading a record after a change, and what the joins, leaves, level moves and
evaluations of the Carriage Table and the Entitlement Unit leave as it was. -/

namespace Sys2Proof.Machine

open Sys2Proof

/-! ## Reading a record after a change -/

@[simp] theorem station?_setStation_self (s : State) (h : Handle) (st : Station) :
    (s.setStation h st).station? h = some st :=
  tableFind_store_self _ _ _

@[simp] theorem station?_setStation_of_ne (s : State) {h g : Handle} (st : Station) (hg : g ≠ h) :
    (s.setStation h st).station? g = s.station? g :=
  tableFind_store_of_ne _ _ hg

@[simp] theorem ticket?_setTicket_self (s : State) (t : TicketHandle) (k : Ticket) :
    (s.setTicket t k).ticket? t = some k :=
  tableFind_store_self _ _ _

@[simp] theorem ticket?_setTicket_of_ne (s : State) {t r : TicketHandle} (k : Ticket) (hr : r ≠ t) :
    (s.setTicket t k).ticket? r = s.ticket? r :=
  tableFind_store_of_ne _ _ hr

theorem val_ne_of_ne {n : Nat} {a b : Fin n} (h : a ≠ b) : a.val ≠ b.val := fun e => h (Fin.ext e)

@[simp] theorem rosterEntry_setRoster_self (s : State) (c : CellId) (e : RosterEntry) :
    (s.setRoster c e).rosterEntry c = e :=
  tableRead_write_self _ _ _ _

@[simp] theorem rosterEntry_setRoster_of_ne (s : State) {c d : CellId} (e : RosterEntry) (h : d ≠ c) :
    (s.setRoster c e).rosterEntry d = s.rosterEntry d :=
  tableRead_write_of_ne _ _ _ (val_ne_of_ne h)

@[simp] theorem zone_setZone_self (s : State) (z : ZoneId) (v : Zone) : (s.setZone z v).zone z = v :=
  tableRead_write_self _ _ _ _

@[simp] theorem zone_setZone_of_ne (s : State) {z y : ZoneId} (v : Zone) (h : y ≠ z) :
    (s.setZone z v).zone y = s.zone y :=
  tableRead_write_of_ne _ _ _ (val_ne_of_ne h)

@[simp] theorem stream_setStream_self (s : State) (x : StreamId) (v : Stream) : (s.setStream x v).stream x = v :=
  tableRead_write_self _ _ _ _

@[simp] theorem stream_setStream_of_ne (s : State) {x y : StreamId} (v : Stream) (h : y ≠ x) :
    (s.setStream x v).stream y = s.stream y :=
  tableRead_write_of_ne _ _ _ (val_ne_of_ne h)

@[simp] theorem sector_setSector_self (s : State) (sec : SectorId) (v : Sector) :
    (s.setSector sec v).sector sec = v :=
  tableRead_write_self _ _ _ _

@[simp] theorem sector_setSector_of_ne (s : State) {sec x : SectorId} (v : Sector) (h : x ≠ sec) :
    (s.setSector sec v).sector x = s.sector x :=
  tableRead_write_of_ne _ _ _ (val_ne_of_ne h)

@[simp] theorem planEntry_setPlan_self (s : State) (c : CellId) (e : PlanEntry) : (s.setPlan c e).planEntry c = e :=
  tableRead_write_self _ _ _ _

@[simp] theorem planEntry_setPlan_of_ne (s : State) {c d : CellId} (e : PlanEntry) (h : d ≠ c) :
    (s.setPlan c e).planEntry d = s.planEntry d :=
  tableRead_write_of_ne _ _ _ (val_ne_of_ne h)

/-- The key of a carriage names its cell and its stream. -/
theorem carriageKey_inj {c d : CellId} {x y : StreamId} (h : carriageKey c x = carriageKey d y) : c = d ∧ x = y := by
  simp only [carriageKey] at h
  exact ⟨Fin.ext (by omega), Fin.ext (by omega)⟩

@[simp] theorem carriage?_setCarriage_self (s : State) (c : CellId) (x : StreamId) (k : Carriage) :
    (s.setCarriage c x k).carriage? c x = some k :=
  tableFind_store_self _ _ _

theorem carriage?_setCarriage_of_ne (s : State) {c d : CellId} {x y : StreamId} (k : Carriage)
    (h : ¬(d = c ∧ y = x)) : (s.setCarriage c x k).carriage? d y = s.carriage? d y :=
  tableFind_store_of_ne _ _ fun e => h (carriageKey_inj e)

@[simp] theorem carriage?_eraseCarriage_self (s : State) (c : CellId) (x : StreamId) :
    (s.eraseCarriage c x).carriage? c x = none :=
  tableFind_erase_self _ _

theorem carriage?_eraseCarriage_of_ne (s : State) {c d : CellId} {x y : StreamId} (h : ¬(d = c ∧ y = x)) :
    (s.eraseCarriage c x).carriage? d y = s.carriage? d y :=
  tableFind_erase_of_ne _ fun e => h (carriageKey_inj e)

/-! ## The frame of joins, leaves, level moves and evaluations -/

theorem StationFrame.refl (a : Station) : StationFrame a a := ⟨rfl, rfl, rfl, rfl, rfl, rfl, rfl⟩

theorem StationFrame.trans {a b c : Station} (h : StationFrame a b) (h' : StationFrame b c) : StationFrame a c :=
  ⟨h'.address.trans h.address, h'.state.trans h.state, h'.serving.trans h.serving, h'.sequence.trans h.sequence,
    h'.level.trans h.level, h'.ticket.trans h.ticket, h'.streams.trans h.streams⟩

variable {hs : Handle → Prop} {cs : CellId → StreamId → Prop}

theorem SubscriptionFrame.refl (s : State) : SubscriptionFrame hs cs s s where
  device := rfl
  venue := rfl
  clock := rfl
  latch := rfl
  surge := rfl
  addressMap := rfl
  handles := rfl
  tickets := rfl
  ticketMap := rfl
  loaded := rfl
  zones := rfl
  sectors := rfl
  plans := rfl
  pass := rfl
  startSector := rfl
  arbiter := rfl
  answer := rfl
  pending := rfl
  stations _ _ := rfl
  own _ a ha := ⟨a, ha, .refl a⟩
  free _ hn := hn
  carriages _ _ _ := rfl
  lists _ _ _ := .rfl
  counts _ := ⟨rfl, rfl⟩
  streams _ := ⟨rfl, rfl⟩
  totals _ _ := rfl
  ports _ := .refl _
  quiet _ _ _ := rfl

/-- Port Units that agree but for notices have the same role. -/
theorem PortFrame.replay {u v : PortUnit} (h : PortFrame u v) : isReplayPort v = isReplayPort u := by
  simp [isReplayPort, h.role]

theorem PortFrame.owns {u v : PortUnit} (h : PortFrame u v) (c : CellId) : ownsCell v c = ownsCell u c := by
  simp [ownsCell, ownsSector, h.role]

theorem SubscriptionFrame.trans {s t u : State} (f : SubscriptionFrame hs cs s t) (f' : SubscriptionFrame hs cs t u) :
    SubscriptionFrame hs cs s u where
  device := f'.device.trans f.device
  venue := f'.venue.trans f.venue
  clock := f'.clock.trans f.clock
  latch := f'.latch.trans f.latch
  surge := f'.surge.trans f.surge
  addressMap := f'.addressMap.trans f.addressMap
  handles := f'.handles.trans f.handles
  tickets := f'.tickets.trans f.tickets
  ticketMap := f'.ticketMap.trans f.ticketMap
  loaded := f'.loaded.trans f.loaded
  zones := f'.zones.trans f.zones
  sectors := f'.sectors.trans f.sectors
  plans := f'.plans.trans f.plans
  pass := f'.pass.trans f.pass
  startSector := f'.startSector.trans f.startSector
  arbiter := f'.arbiter.trans f.arbiter
  answer := f'.answer.trans f.answer
  pending := f'.pending.trans f.pending
  stations h hh := (f'.stations h hh).trans (f.stations h hh)
  own h a ha := by
    obtain ⟨b, hb, hab⟩ := f.own h a ha
    obtain ⟨c, hc, hbc⟩ := f'.own h b hb
    exact ⟨c, hc, hab.trans hbc⟩
  free h hn := f'.free h (f.free h hn)
  carriages c x hc := (f'.carriages c x hc).trans (f.carriages c x hc)
  lists c x hc := (f'.lists c x hc).trans (f.lists c x hc)
  counts c := ⟨(f'.counts c).1.trans (f.counts c).1, (f'.counts c).2.trans (f.counts c).2⟩
  streams x := ⟨(f'.streams x).1.trans (f.streams x).1, (f'.streams x).2.trans (f.streams x).2⟩
  totals x hx := (f'.totals x hx).trans (f.totals x hx)
  ports p := (f.ports p).trans (f'.ports p)
  quiet p hr ho :=
    (f'.quiet p ((f.ports p).replay.trans hr) fun c x hc => ((f.ports p).owns c).trans (ho c x hc)).trans
      (f.quiet p hr ho)

/-- A frame that may reach less is a frame that may reach more. -/
theorem SubscriptionFrame.mono {hs' : Handle → Prop} {cs' : CellId → StreamId → Prop} {s t : State}
    (f : SubscriptionFrame hs cs s t) (hh : ∀ h, hs h → hs' h) (hc : ∀ c x, cs c x → cs' c x) :
    SubscriptionFrame hs' cs' s t :=
  { f with
    stations := fun h n => f.stations h fun m => n (hh h m)
    carriages := fun c x n => f.carriages c x fun m => n (hc c x m)
    lists := fun c x n => f.lists c x fun m => n (hc c x m)
    totals := fun x n => f.totals x fun c m => n c (hc c x m)
    quiet := fun p hr ho => f.quiet p hr fun c x m => ho c x (hc c x m) }

theorem SubscriptionFrame.notify (s : State) {dest : PortUnit → Bool} (n : Notice) (tag : Tag)
    (hto : ∀ u, isReplayPort u = false → (∀ c x, cs c x → ownsCell u c = false) → dest u = false) :
    SubscriptionFrame hs cs s (s.notify dest n tag) :=
  { SubscriptionFrame.refl s with
    ports := fun p => by
      rw [port_notify]
      split
      · exact deliver_frame _ _ _ _
      · exact PortFrame.refl _
    quiet := fun p hr ho => by rw [port_notify, hto _ hr ho]; rfl }

/-- A notice to the REPLAY ports and to the owner of a carriage's cell. -/
theorem SubscriptionFrame.notifyOwner (s : State) {c : CellId} {x : StreamId} (hc : cs c x) (n : Notice) (tag : Tag) :
    SubscriptionFrame hs cs s (s.notify (toReplayAndOwner c) n tag) :=
  .notify s n tag fun u hr ho => by simp [toReplayAndOwner, hr, ho c x hc]

/-- A notice to the REPLAY ports. -/
theorem SubscriptionFrame.notifyReplay (s : State) (n : Notice) (tag : Tag) :
    SubscriptionFrame hs cs s (s.notify isReplayPort n tag) :=
  .notify s n tag fun _ hr _ => hr

theorem SubscriptionFrame.setCarriage (s : State) {c : CellId} {x : StreamId} (hc : cs c x) (k : Carriage) :
    SubscriptionFrame hs cs s (s.setCarriage c x k) :=
  { SubscriptionFrame.refl s with
    carriages := fun _ _ n => carriage?_setCarriage_of_ne s k fun ⟨hd, hy⟩ => n (hd ▸ hy ▸ hc) }

theorem SubscriptionFrame.eraseCarriage (s : State) {c : CellId} {x : StreamId} (hc : cs c x) :
    SubscriptionFrame hs cs s (s.eraseCarriage c x) :=
  { SubscriptionFrame.refl s with
    carriages := fun _ _ n => carriage?_eraseCarriage_of_ne s fun ⟨hd, hy⟩ => n (hd ▸ hy ▸ hc) }

theorem SubscriptionFrame.setList (s : State) {c : CellId} {l : List StreamId}
    (hl : ∀ y, ¬cs c y → (y ∈ l ↔ y ∈ (s.rosterEntry c).carriages)) :
    SubscriptionFrame hs cs s (s.setRoster c { s.rosterEntry c with carriages := l }) :=
  { SubscriptionFrame.refl s with
    lists := fun d y n => by
      by_cases h : d = c
      · subst h
        simpa using hl y n
      · simp [h]
    counts := fun d => by
      by_cases h : d = c
      · subst h
        simp
      · simp [h] }

theorem SubscriptionFrame.setTotals (s : State) {c : CellId} {x : StreamId} (hc : cs c x) (a b : Nat) :
    SubscriptionFrame hs cs s (s.setTotals x a b) :=
  { SubscriptionFrame.refl s with
    streams := fun y => by
      by_cases h : y = x
      · subst h
        simp [State.setTotals]
      · simp [State.setTotals, h]
    totals := fun y n => by
      have h : y ≠ x := fun e => n c (e ▸ hc)
      simp [State.setTotals, h] }

/-- A mode evaluation reaches only its carriage and notices (R114). -/
theorem evalMode_frame (s : State) {c : CellId} {x : StreamId} (hc : cs c x) (tag : Tag) :
    SubscriptionFrame hs cs s (s.evalMode c x tag) := by
  unfold State.evalMode
  split
  · exact .refl s
  · split
    · dsimp only
      split
      · exact (SubscriptionFrame.setCarriage s hc _).trans (.notifyOwner _ hc _ _)
      · split
        · exact ((SubscriptionFrame.setCarriage s hc _).trans (.notifyOwner _ hc _ _)).trans (.notifyOwner _ hc _ _)
        · exact .setCarriage s hc _
    · split
      · exact (SubscriptionFrame.setCarriage s hc _).trans (.notifyOwner _ hc _ _)
      · exact .refl s

/-- A stream placed in a list is on it, and no other comes or goes (R109). -/
theorem mem_placeInOrder (s : State) (x y : StreamId) (l : List StreamId) :
    y ∈ s.placeInOrder x l ↔ y = x ∨ y ∈ l := by
  induction l with
  | nil => simp [State.placeInOrder]
  | cons z l ih =>
    unfold State.placeInOrder
    split
    · simp
    · simp only [List.mem_cons, ih]
      exact or_left_comm

theorem createCarriage_frame (s : State) {c : CellId} {x : StreamId} (hc : cs c x) (l : Level) :
    SubscriptionFrame hs cs s (s.createCarriage c x l) := by
  refine ((SubscriptionFrame.setCarriage s hc _).trans (.setList _ fun y n => ?_)).trans (.setTotals _ hc _ _)
  have h : y ≠ x := fun e => n (e ▸ hc)
  simp [mem_placeInOrder, h]

theorem joinExisting_frame (s : State) {c : CellId} {x : StreamId} (hc : cs c x) (l : Level) (tag : Tag) :
    SubscriptionFrame hs cs s (s.joinExisting c x l tag) := by
  unfold State.joinExisting
  split
  · exact .refl s
  · exact ((SubscriptionFrame.setCarriage s hc _).trans (.setTotals _ hc _ _)).trans (evalMode_frame _ hc tag)

/-- A join reaches only its carriage, its cell's list, its stream's totals and notices (R110). -/
theorem join_frame (s : State) {c : CellId} {x : StreamId} (hc : cs c x) (l : Level) (tag : Tag) :
    SubscriptionFrame hs cs s (s.join c x l tag) := by
  unfold State.join
  split
  · exact (createCarriage_frame s hc l).trans (joinExisting_frame _ hc l tag)
  · exact joinExisting_frame s hc l tag

theorem dropCarriage_frame (s : State) {c : CellId} {x : StreamId} (hc : cs c x) :
    SubscriptionFrame hs cs s (s.dropCarriage c x) := by
  refine (SubscriptionFrame.eraseCarriage s hc).trans (.setList _ fun y n => ?_)
  have h : y ≠ x := fun e => n (e ▸ hc)
  simp only [List.mem_filter, decide_eq_true_eq]
  exact and_iff_left h

/-- A leave reaches only its carriage, its cell's list, its stream's totals and notices (R111). -/
theorem leave_frame (s : State) {c : CellId} {x : StreamId} (hc : cs c x) (l : Level) (tag : Tag) :
    SubscriptionFrame hs cs s (s.leave c x l tag) := by
  unfold State.leave
  split
  · exact .refl s
  · dsimp only
    split
    · split
      · exact ((SubscriptionFrame.setTotals s hc _ _).trans (dropCarriage_frame _ hc)).trans (.setTotals _ hc _ _)
      · exact (((SubscriptionFrame.setTotals s hc _ _).trans (dropCarriage_frame _ hc)).trans
          (.setTotals _ hc _ _)).trans (.notifyOwner _ hc _ _)
    · exact ((SubscriptionFrame.setTotals s hc _ _).trans (.setCarriage _ hc _)).trans (evalMode_frame _ hc tag)

/-- A level move reaches only its carriage and notices (R112). -/
theorem moveLevel_frame (s : State) {c : CellId} {x : StreamId} (hc : cs c x) (old new : Level) (tag : Tag) :
    SubscriptionFrame hs cs s (s.moveLevel c x old new tag) := by
  unfold State.moveLevel
  split
  · exact .refl s
  · exact (SubscriptionFrame.setCarriage s hc _).trans (evalMode_frame _ hc tag)

/-- Giving a subscription a state leaves all else of its station. -/
theorem setSubState_frame (s : State) {h : Handle} (hh : hs h) (x : StreamId) (v : SubState) :
    SubscriptionFrame hs cs s (s.setSubState h x v) := by
  unfold State.setSubState
  split
  · exact .refl s
  · rename_i st hst
    have hl : StationFrame st
        { st with subs := st.subs.map fun e => if e.stream = x then { e with state := v } else e } := by
      refine ⟨rfl, rfl, rfl, rfl, rfl, rfl, ?_⟩
      simp only [List.map_map]
      refine List.map_congr_left fun e _ => ?_
      simp only [Function.comp]
      split <;> rfl
    exact
      { SubscriptionFrame.refl (hs := hs) s with
        stations := fun g hg => station?_setStation_of_ne s _ fun e => hg (e ▸ hh)
        own := fun g a ha => by
          by_cases e : g = h
          · subst e
            rw [hst] at ha
            cases ha
            exact ⟨_, station?_setStation_self s g _, hl⟩
          · exact ⟨a, by simpa [e] using ha, .refl a⟩
        free := fun g hn => by
          have e : g ≠ h := fun e => by rw [e, hst] at hn; cases hn
          simpa [e] using hn }

/-- The visit of one entry reaches only its station and the carriage of its stream in the serving cell (R100). -/
theorem evalEntry_frame (s : State) {h : Handle} (hh : hs h) (tag : Tag) (joined : Bool) (fresh : Option StreamId)
    (x : StreamId) (hc : ∀ a, s.station? h = some a → cs a.serving x) :
    SubscriptionFrame hs cs s (s.evalEntry h tag joined fresh x) := by
  unfold State.evalEntry
  split
  · exact .refl s
  · rename_i st hst
    have hcx := hc st hst
    split
    · exact .refl s
    · split
      · split
        · exact .refl s
        · exact (join_frame s hcx _ _).trans (setSubState_frame _ hh _ _)
      · dsimp only
        split
        · exact (join_frame s hcx _ _).trans (setSubState_frame _ hh _ _)
        · exact ((join_frame s hcx _ _).trans (setSubState_frame _ hh _ _)).trans (.notifyReplay _ _ _)
      · dsimp only
        refine SubscriptionFrame.trans (SubscriptionFrame.trans ?_ (setSubState_frame _ hh _ _)) (.notifyReplay _ _ _)
        split
        · exact leave_frame s hcx _ _
        · exact .refl s
      · split
        · exact .refl s
        · dsimp only
          split
          · exact setSubState_frame s hh _ _
          · exact (setSubState_frame s hh _ _).trans (.notifyReplay _ _ _)

/-- The visits of some of a station's entries reach only the station and the carriages of their streams in its serving
cell. -/
theorem visits_frame {h : Handle} (hh : hs h) (tag : Tag) (joined : Bool) (fresh : Option StreamId)
    (xs : List StreamId) (s : State) {st : Station} (hst : s.station? h = some st) (hc : ∀ x ∈ xs, cs st.serving x) :
    SubscriptionFrame hs cs s (xs.foldl (fun s x => s.evalEntry h tag joined fresh x) s) := by
  induction xs generalizing s st with
  | nil => exact .refl s
  | cons x xs ih =>
    have f : SubscriptionFrame hs cs s (s.evalEntry h tag joined fresh x) :=
      evalEntry_frame s hh tag joined fresh x fun a ha => by
        rw [hst] at ha
        cases ha
        exact hc x (by simp)
    obtain ⟨b, hb, hab⟩ := f.own h st hst
    exact f.trans (ih _ hb fun y hy => by rw [hab.serving]; exact hc y (by simp [hy]))

/-- An evaluation of a station leaves every other station, the tickets, the zones, the counts, the plans, the clock and
every other carriage as they were, and of the station itself it changes only the states of its subscriptions (R100). -/
theorem evaluateWith_frame (s : State) {h : Handle} (hh : hs h) (tag : Tag) (joined : Bool) (fresh : Option StreamId)
    (hc : ∀ st, s.station? h = some st → ∀ c x, carriagesOf st c x → cs c x) :
    SubscriptionFrame hs cs s (s.evaluateWith h tag joined fresh) := by
  unfold State.evaluateWith
  split
  · exact .refl s
  · rename_i st hst
    exact visits_frame hh tag joined fresh _ s hst fun x hx => hc st hst _ _ ⟨rfl, hx⟩

theorem evaluate_frame (s : State) {h : Handle} (hh : hs h) (tag : Tag)
    (hc : ∀ st, s.station? h = some st → ∀ c x, carriagesOf st c x → cs c x) :
    SubscriptionFrame hs cs s (s.evaluate h tag) :=
  evaluateWith_frame s hh tag true none hc

/-! ## What an evaluation decides -/

/-- The class, the flag and the ticket that decide an entry are out of an evaluation's reach. -/
theorem SubscriptionFrame.classOf {s t : State} (f : SubscriptionFrame hs cs s t) (x : StreamId) :
    t.classOf x = s.classOf x := by
  simp [State.classOf, (f.streams x).1]

theorem SubscriptionFrame.seatBoundOf {s t : State} (f : SubscriptionFrame hs cs s t) (x : StreamId) :
    t.seatBoundOf x = s.seatBoundOf x := by
  simp [State.seatBoundOf, (f.streams x).1]

theorem SubscriptionFrame.decided {s t : State} (f : SubscriptionFrame hs cs s t) {a b : Station}
    (g : StationFrame a b) (e : Subscription) : t.decided b e ↔ s.decided a e := by
  have h1 : t.entitled b e.stream = s.entitled a e.stream := by
    simp [State.entitled, State.boundTicket, State.ticket?, f.classOf, f.tickets, g.ticket]
  have h2 : t.seated b e.stream = s.seated a e.stream := by
    simp [State.seated, State.boundTicket, State.ticket?, f.seatBoundOf, f.tickets, g.ticket, g.serving]
  simp [State.decided, h1, h2, g.state]

/-- A list that holds a stream once has one entry for it, which is the one found. -/
theorem findSub_of_mem {subs : List Subscription} (hn : (subs.map (·.stream)).Nodup) {e : Subscription} (he : e ∈ subs) :
    findSub subs e.stream = some e := by
  induction subs with
  | nil => cases he
  | cons d subs ih =>
    simp only [List.map_cons, List.nodup_cons] at hn
    rcases List.mem_cons.mp he with rfl | hm
    · simp [findSub]
    · have hd : d.stream ≠ e.stream := fun h => hn.1 (h ▸ List.mem_map_of_mem hm)
      have := ih hn.2 hm
      simpa [findSub, hd] using this

theorem findSub_stream {subs : List Subscription} {x : StreamId} {e : Subscription} (h : findSub subs x = some e) :
    e.stream = x ∧ e ∈ subs := by
  unfold findSub at h
  exact ⟨by simpa using List.find?_some h, List.mem_of_find?_eq_some h⟩

/-- A verdict decides an entry. -/
theorem decided_verdict (s : State) (st : Station) (x : StreamId) : s.decided st ⟨x, s.verdict st x⟩ := by
  unfold State.decided State.verdict
  cases isLingering st.state <;> cases s.entitled st x <;> cases s.seated st x <;> simp
  by_cases hc : s.carriage? st.serving x = none <;> by_cases hf : s.freeCarriages = 0 <;> simp [hc, hf]

/-- What the visit of one entry leaves on the list: the visited entry stands as its checks decide it, and every other
entry stands as it stood. -/
theorem evalEntry_list (s : State) (h : Handle) (tag : Tag) (joined : Bool) (fresh : Option StreamId) (x : StreamId)
    {st : Station} (hst : s.station? h = some st) (hn : (st.subs.map (·.stream)).Nodup) :
    ∃ st', (s.evalEntry h tag joined fresh x).station? h = some st' ∧ StationFrame st st' ∧
      ∀ e ∈ st'.subs, if e.stream = x then s.decided st e else e ∈ st.subs := by
  have key : ∀ (u : State), SubscriptionFrame (fun _ => False) (fun _ _ => True) s u → ∀ v,
      s.decided st ⟨x, v⟩ → ∃ st', (u.setSubState h x v).station? h = some st' ∧ StationFrame st st' ∧
        ∀ e ∈ st'.subs, if e.stream = x then s.decided st e else e ∈ st.subs := by
    intro u f v hv
    have hu : u.station? h = some st := (f.stations h id).trans hst
    have hl : StationFrame st { st with subs := st.subs.map fun e => if e.stream = x then { e with state := v } else e } := by
      refine ⟨rfl, rfl, rfl, rfl, rfl, rfl, ?_⟩
      simp only [List.map_map]
      refine List.map_congr_left fun e _ => ?_
      simp only [Function.comp]
      split <;> rfl
    refine ⟨_, by rw [State.setSubState, hu]; exact station?_setStation_self _ _ _, hl, ?_⟩
    intro e he
    obtain ⟨d, hd, rfl⟩ := List.mem_map.mp he
    by_cases hx : d.stream = x
    · simp only [hx, if_true]
      exact hx ▸ hv
    · simpa [hx] using hd
  have same : ∀ e ∈ st.subs, e.stream = x → findSub st.subs x = some e := fun e he hx => hx ▸ findSub_of_mem hn he
  have keep : s.decided st ⟨x, s.verdict st x⟩ := decided_verdict s st x
  unfold State.evalEntry
  simp only [hst]
  cases hf : findSub st.subs x with
  | none =>
    refine ⟨st, hst, .refl st, fun e he => ?_⟩
    split
    · next hx => rw [same e he hx] at hf; cases hf
    · exact he
  | some e =>
    have he := findSub_stream hf
    have stay : s.verdict st x = e.state → ∃ st', s.station? h = some st' ∧ StationFrame st st' ∧
        ∀ e ∈ st'.subs, if e.stream = x then s.decided st e else e ∈ st.subs := by
      intro hv
      refine ⟨st, hst, .refl st, fun d hd => ?_⟩
      split
      · next hx =>
        have := same d hd hx
        rw [hf] at this
        cases this
        rw [hv] at keep
        have : e = ⟨x, e.state⟩ := by rw [← he.1]
        exact this ▸ keep
      · exact hd
    have jf : SubscriptionFrame (fun _ => False) (fun _ _ => True) s (s.join st.serving x st.level tag) :=
      join_frame s trivial _ _
    have at_ : ∀ v, s.verdict st x = v → s.decided st ⟨x, v⟩ := fun v hv => hv ▸ keep
    dsimp only
    split
    · next ha hv =>
      split
      · exact stay (hv.trans ha.symm)
      · exact key _ jf _ (at_ _ hv)
    · next r ha hv =>
      have := key _ jf _ (at_ _ hv)
      split
      all_goals exact this
    · next r ha hv =>
      have lf : SubscriptionFrame (fun _ => False) (fun _ _ => True) s
          (if joined = true then s.leave st.serving x st.level tag else s) := by
        split
        · exact leave_frame s trivial _ _
        · exact .refl s
      have := key _ lf _ (at_ _ hv)
      exact this
    · next r r' ha hv =>
      split
      · next hr => exact stay (by rw [hv, ha, hr])
      · have := key s (.refl s) _ (at_ _ hv)
        split
        · exact this
        · exact this

/-- After an evaluation every entry of a list that holds no stream twice stands as its checks decide it (R98, R100). -/
theorem evaluateWith_decides (s : State) (h : Handle) (tag : Tag) (joined : Bool) (fresh : Option StreamId)
    (hn : ∀ st, s.station? h = some st → (st.subs.map (·.stream)).Nodup) :
    (s.evaluateWith h tag joined fresh).evaluatedAt h := by
  have visits : ∀ (xs : List StreamId) (s : State) (st : Station), s.station? h = some st →
      (st.subs.map (·.stream)).Nodup → (∀ e ∈ st.subs, e.stream ∉ xs → s.decided st e) →
      (xs.foldl (fun s x => s.evalEntry h tag joined fresh x) s).evaluatedAt h := by
    intro xs
    induction xs with
    | nil =>
      intro s st hst _ hd st' e hst' he
      cases hst.symm.trans hst'
      exact hd e he (by simp)
    | cons x xs ih =>
      intro s st hst hnd hd
      have f : SubscriptionFrame (· = h) (fun _ _ => True) s (s.evalEntry h tag joined fresh x) :=
        evalEntry_frame (hs := (· = h)) (cs := fun _ _ => True) s rfl tag joined fresh x fun _ _ => trivial
      obtain ⟨st', hst', g, hl⟩ := evalEntry_list s h tag joined fresh x hst hnd
      refine ih _ st' hst' (by rw [g.streams]; exact hnd) fun e he hx => (f.decided g e).mpr ?_
      have := hl e he
      split at this
      · exact this
      · next hne => exact hd e this (by simp [hne, hx])
  unfold State.evaluateWith
  split
  · next hs =>
    intro st e hst
    rw [hs] at hst
    cases hst
  · next st hst => exact visits _ s st hst (hn st hst) fun e he hx => absurd (List.mem_map_of_mem he) hx

theorem evaluate_decides (s : State) (h : Handle) (tag : Tag)
    (hn : ∀ st, s.station? h = some st → (st.subs.map (·.stream)).Nodup) : (s.evaluate h tag).evaluatedAt h :=
  evaluateWith_decides s h tag true none hn

end Sys2Proof.Machine
end

