-- ==== Sys2Proof/Tests/Slice0.lean ====
section
/-! SUPPORT. Tests: the checks of well-formedness, worked examples of the spec, one step each, and for every statement
with hypotheses a concrete state and operands that meet them. -/

namespace Sys2Proof.Tests

open Sys2Proof Sys2Proof.Machine

-- One check at a time: many at once ask for more threads than the memory limit gives stacks to.
set_option Elab.async false

/-! ## Small states -/

/-- A ring element: the code with its flags, tag 77, operands from word 2 on. -/
def element (code : Nat) (ops : List Word) : List Word :=
  BitVec.ofNat 32 code :: 77 :: ops

/-- `s` with elements posted from element 0 of the ring of `p`, whose consumer index is 0. -/
def posting (s : State) (p : PortId) (els : List (List Word)) : State :=
  let u := s.port p
  s.setPort p { u with
    ring := els.zipIdx.foldl (fun r e => storeWords r (16 * e.2) e.1) u.ring, producer := BitVec.ofNat 7 els.length }

/-- `s` with one command posted. -/
def taken (s : State) (p : PortId) (c : Command) (ops : List Word) : State :=
  posting s p [element (commandCode c).toNat ops]

/-- The command the Port Unit of `p` finds. -/
def cmdIn (s : State) (p : PortId) : Cmd :=
  (takeable (s.port p)).getD ⟨0, 0, false, []⟩

/-- The command `c` is posted, and it passes the checks. -/
def fit (s : State) (p : PortId) (c : Command) : Bool :=
  decide (s.passes p c (cmdIn s p))

/-- A command posted alone is found there and passes the checks. -/
def ready (s : State) (p : PortId) (c : Command) (ops : List Word) : Bool :=
  fit (taken s p c ops) p c

/-- The operand words and the elements of the command posted. -/
abbrev posted? (s : State) (p : PortId) (c : Command) (ops : List Word) : Cmd :=
  cmdIn (taken s p c ops) p

/-- The state that an outcome answers. -/
def after (r : Host.Outcome State Fault Refusal) : State :=
  match r with
  | .next t => t
  | .fault _ => State.reset
  | .refused _ => State.reset

/-- Status code and result words of the command completed in element `e` of the ring of `p`. -/
def completion (s : State) (p : PortId) (e : Nat) : Word × List Word :=
  ((loadWord (s.port p).ring (16 * e) >>> 16) &&& 0xFF,
    (List.range 8).map fun j => loadWord (s.port p).ring (16 * e + 8 + j))

/-- The notices held by a port, as records of four words. -/
def notices (s : State) (p : PortId) : List (List Word) :=
  (List.range (heldNotices (s.port p))).map fun i =>
    (List.range 4).map fun j => loadWord (s.port p).queue (4 * i + j)

/-- Four declared ports in SETUP: CELL for sectors 0–15, CELL for 16–31, GATE, REPLAY. -/
def setup : State :=
  { State.reset with
    ports := ⟨{ role := .cell 0 15 }, { role := .cell 16 31 }, { role := .gate }, { role := .replay }⟩ }

/-- A match in frame 99. Station 0 is at cell 0 with an ADMITTED ticket and an ACTIVE subscription to the LIVE stream 1,
station 1 is being handed over from cell 0 to cell 512 of port 1, and station 2 lingers with an entry for the DRAINING
stream 2; every deadline is in the next frame. -/
def arena : State :=
  { setup with
    device := .service
    clock := ⟨.external, 99, 1000000000, 1000000000⟩
    stations := [
      (0, ⟨0xA1, .associated, 0, 5, 3, some 0, [⟨1, .active⟩]⟩),
      (1, ⟨0xA2, .inHandover 512 100 9, 0, 7, 2, none, []⟩),
      (2, ⟨0xA3, .lingering 100 8, 1, 0, 4, none, [⟨2, .suspended .lingering⟩]⟩)]
    addressMap := [(0xA1, 0), (0xA2, 1), (0xA3, 2)]
    handles := ⟨[], 3⟩
    roster := [(0, ⟨2, 0, [1]⟩), (512, ⟨0, 1, []⟩)]
    tickets := [
      (0, ⟨0x51, some ⟨0, 4, 9⟩, 1, false, .premium, .admitted, 1, some ⟨1, 16, 90⟩, some 0⟩),
      (1, ⟨0x52, none, 1, false, .basic, .issued, 0, none, none⟩),
      (2, ⟨0x53, none, 1, false, .basic, .exited, 1, some ⟨1, 16, 90⟩, none⟩),
      (3, ⟨0x54, none, 1, false, .basic, .exited, 0, some ⟨1, 16, 90⟩, none⟩),
      (4, ⟨0x55, none, 2, false, .basic, .voided, 0, none, none⟩),
      (5, ⟨0x56, none, 2, false, .basic, .admitted, 0, some ⟨2, 32, 95⟩, none⟩)]
    ticketMap := [(0x51, 0), (0x52, 1), (0x53, 2), (0x54, 3), (0x55, 4), (0x56, 5)]
    loaded := 6
    zones := [(1, ⟨.opened, 2, 1, 3⟩), (2, ⟨.opened, 1, 1, 1⟩)]
    streams := [
      (1, ⟨.live ⟨80, 0, .basic, true, 3, 10⟩, 1, 1, 1⟩),
      (2, ⟨.draining ⟨80, 0, .anyone, false, 3, 10⟩ 6 99, 0, 0, 1⟩)]
    carriages := [(1, ⟨1, [0, 0, 0, 1, 0, 0, 0, 0], 3, .unicast, 0, false, 0⟩)] }

/-- The match in frame 100, in which the claim deadline, the linger deadline, the drain and the end of a surge are due. -/
def due : State :=
  { arena with clock := { arena.clock with frame := 100 }, surge := some ⟨8, 24, 100⟩ }

/-- `s` with the bus held by `p`. -/
def holding (s : State) (p : PortId) : State :=
  { s with arbiter := ⟨some p, none, p, 0⟩ }

/-! ## Well-formedness refuses -/

theorem test_wf_grant_without_request : (Instr.busGrant 0).wellFormed = false := by decide
theorem test_wf_word_write_to_producer : (Instr.wordWrite 1 0x1600 0).wellFormed = false := by decide
theorem test_wf_word_write_to_head : (Instr.wordWrite 0 0x602 0).wellFormed = false := by decide
theorem test_wf_word_write_to_request : (Instr.wordWrite 0 0x604 0).wellFormed = false := by decide
theorem test_wf_word_write_to_enable : (Instr.wordWrite 0 0x605 0).wellFormed = false := by decide
theorem test_wf_word_write_of_port_reset : (Instr.wordWrite 0 0x606 0x80000000).wellFormed = false := by decide
theorem test_wf_word_read_of_plans : (Instr.wordRead 0 0x4000).wellFormed = false := by decide
theorem test_wf_word_write_elsewhere :
    (Instr.wordWrite 0 0x606 0x7FFFFFFF).wellFormed = true ∧ (Instr.wordWrite 0 0x1600 0).wellFormed = true := by decide

/-- The table gives no row any bits (log 30). -/
theorem test_no_word_spells_a_command : decodeTableWord 32 0xFFFFFFFF = none := by decide

/-! ## Worked examples of the spec -/

/-- Chapter 1, "a goal": a pulse 2.30 ms into frame 41,210 is at slot 35, and its surge ends at 43,210. -/
theorem test_moment_slot_and_surge :
    let s := { setup with latch := .armed 8 24, clock := ⟨.external, 41210, 5000000, 5000000⟩ }
    let t := after (exec (.momentPulse 7300000) s)
    t.latch = .latched 8 24 41210 35 ∧ t.surge = some ⟨8, 24, 43210⟩ ∧
      notices t 0 = [[0x11460000, 0, 41210, 0x46000000]] := by decide +kernel

/-- Chapter 1, "a goal": a pulse 6.50 ms into a lengthened frame is clamped to slot 79. -/
theorem test_moment_slot_clamped :
    let s := { setup with latch := .armed 16 16, clock := ⟨.internal, 43900, 0, 0⟩ }
    (after (exec (.momentPulse 6500000) s)).latch = .latched 16 16 43900 79 := by decide +kernel

/-- Chapter 1, "a goal": scope 8 under mask 24 takes in sectors 8–15 and no other. -/
theorem test_scope_of_a_surge : allSectors.filter (scopeMatches 8 24) = [8, 9, 10, 11, 12, 13, 14, 15] := by
  decide +kernel

/-- Chapter 8, cases 1 to 3: the wants of the cadence, a want of 0, and the caps of a sector with T = 4 and T = 16. -/
theorem test_wants_and_caps :
    [want 1280 192 0, want 1280 192 64, want 1280 192 128] = [7, 7, 6] ∧
    [want 160 480 0, want 160 480 320, want 160 480 160] = [1, 0, 0] ∧
    [capOf (pool 4 4) false, capOf (pool 8 4) false, capOf (pool 4 4) true, capOf (pool 8 4) true] = [54, 51, 72, 68] ∧
    [capOf (pool 4 16) false, capOf (pool 8 16) false] = [45, 42] := by decide +kernel

/-- Chapter 8, case 4: the eighth build starves, the ninth is silent, the eleventh recovers. -/
theorem test_charge_starves_and_recovers :
    charge (-4928) false 3 192 1280 = ⟨-5120, true, some .starved⟩ ∧
    charge (-5120) true 3 192 1280 = ⟨-5120, true, none⟩ ∧
    charge (-5120) true 32 192 1280 = ⟨-256, true, none⟩ ∧
    charge (-256) true 8 192 1280 = ⟨0, false, some .recovered⟩ := by decide +kernel

/-- Chapter 8, case 7: three carriages of cell 200. -/
def surgeCell : State :=
  { arena with
    roster := [(200, ⟨30, 0, [2, 4, 9]⟩)]
    streams := [(2, ⟨.live ⟨80, 0, .anyone, false, 3, 10⟩, 9, 1, 9⟩), (4, ⟨.live ⟨200, 1, .anyone, false, 3, 10⟩, 9, 1, 9⟩),
      (9, ⟨.live ⟨500, 1, .anyone, false, 3, 10⟩, 9, 1, 9⟩)]
    carriages := [(3202, ⟨9, [0, 0, 0, 9, 0, 0, 0, 0], 3, .multicast, 0, false, 0⟩),
      (3204, ⟨9, [0, 0, 0, 0, 9, 0, 0, 0], 4, .multicast, 0, false, 0⟩),
      (3209, ⟨9, [0, 0, 0, 9, 0, 0, 0, 0], 3, .multicast, 0, false, 0⟩)]
    pass := some ⟨7006, 6, []⟩, sectors := [(6, ⟨4, .normal, .rewriting, none⟩)], venue := { sectorsInUse := 7 } }

/-- Chapter 8, case 7, frame 7,006, under the cap of 54. -/
theorem test_sector_build_of_case_7 :
    let t := after (exec .sectorBuildCompletion surgeCell)
    t.planEntry 200 = ⟨⟨4, 4, [⟨2, 3, 7⟩, ⟨4, 4, 12⟩, ⟨9, 3, 32⟩], 21⟩, some 7006, false⟩ ∧
      (t.carriages.map fun e => e.2.balance) = [64, 256, -1856] ∧ t.pass = none ∧ t.sector 6 = ⟨4, .normal, .stable, some 7006⟩ := by
  decide +kernel

/-- Chapter 9, "an overrun into a beacon frame": cell 800 held for frame 4,096. -/
def heldCell : State :=
  { arena with
    roster := [(800, ⟨30, 0, [2, 4, 9]⟩)]
    streams := [(2, ⟨.live ⟨80, 0, .anyone, false, 3, 10⟩, 9, 1, 9⟩), (4, ⟨.live ⟨200, 1, .anyone, false, 3, 10⟩, 1, 1, 1⟩),
      (9, ⟨.live ⟨500, 1, .anyone, false, 3, 10⟩, 9, 1, 9⟩)]
    carriages := [(12802, ⟨9, [0, 0, 0, 9, 0, 0, 0, 0], 3, .multicast, 64, false, 7⟩),
      (12804, ⟨1, [0, 0, 0, 0, 1, 0, 0, 0], 4, .unicast, 0, false, 12⟩),
      (12809, ⟨9, [0, 0, 0, 9, 0, 0, 0, 0], 3, .multicast, -1856, false, 32⟩)]
    plans := [(800, ⟨⟨4, 4, [⟨2, 3, 7⟩, ⟨4, 4, 12⟩, ⟨9, 3, 32⟩], 21⟩, some 4095, false⟩)] }

theorem test_held_plan_of_cell_800 :
    (heldCell.holdCell 4096 800).planEntry 800 = ⟨⟨8, 4, [⟨2, 3, 7⟩, ⟨9, 3, 32⟩], 29⟩, some 4096, true⟩ := by
  decide +kernel

/-- Chapter 9, the same sequence: cell 832, held under the PRIORITY cap. -/
theorem test_control_taken_from_the_last_run :
    applyCap 68 (setControl 8 ⟨4, 4, [⟨2, 3, 7⟩, ⟨9, 3, 32⟩, ⟨12, 3, 32⟩], 1⟩) =
      ⟨8, 4, [⟨2, 3, 7⟩, ⟨9, 3, 32⟩, ⟨12, 3, 29⟩], 0⟩ := by decide +kernel

/-- Chapter 2, "association, linger and reuse", frame 10: A1 associates at cell 96, level 4. -/
theorem test_associate_takes_handle_0 :
    let s := { setup with device := .service, clock := ⟨.external, 10, 0, 0⟩ }
    let t := after (exec (.associate 0) (taken s 0 .associate [0xA1, 0, 96, 4]))
    t.station? 0 = some ⟨0xA1, .associated, 96, 0, 4, none, []⟩ ∧ popHandle t.handles = some (1, ⟨[], 2⟩) ∧
      t.rosterEntry 96 = ⟨1, 0, []⟩ ∧ (completion t 0 0).1 = 0 := by decide +kernel

/-- The same sequence, frame 50: an address that is not LINGERING is answered ALREADY (14) with its handle and serving cell. -/
theorem test_associate_already :
    completion (after (exec (.associate 1) (taken arena 1 .associate [0xA2, 0, 512, 5]))) 1 0 =
      (14, [0x00010000, 0, 0, 0, 0, 0, 0, 0]) := by decide +kernel

/-- A command that comes after the boundary of frame 100 finds the deadlines of that frame taken: the address of the
LINGERING station, whose handle 2 is free again, is unknown, and associates under it as a new record (R30). -/
theorem test_commands_come_after_the_acts :
    let t := after (exec (.associate 1) (taken due 1 .associate [0xA3, 0, 513, 5]))
    completion t 1 0 = (0, [0x00000200, 0x05000000, 0, 0, 0, 0, 0, 0]) ∧
      ((t.station? 1).map fun st => (st.state, st.serving)) = some (.associated, 512) := by decide +kernel

/-- READ_STREAM of a DRAINING stream: state 2, rate 80, D 1280, open frame 10, close tag 6, close frame 99, and, with the
carriage count across a word boundary so that all fit, the figure held in the last three bytes (R91, log 12). -/
theorem test_draining_stream_is_reported_whole :
    completion (after (exec (.readStream 3) (taken arena 3 .readStream [2]))) 3 0 =
      (0, [0x02005000, 0x05000000, 0x00030000, 10, 6, 99, 0, 1]) := by decide +kernel

/-- Chapter 10, "a driver's ring": with consumer 60, producer 63 is acknowledged, a write to posted element 61 is a fault
with its address 4F48H in the notice, and a second error quarantines the port. -/
def driver : State :=
  let s := holding arena 1
  s.setPort 1 { s.port 1 with role := .gate, producer := 60, consumer := 60 }

theorem test_drivers_ring :
    let a := after (exec (.producerIndexWrite 1 63) driver)
    let b := after (exec (.wordWrite 1 0x13D2 7) a)
    let c := after (exec (.producerIndexWrite 1 2) b)
    a.answer = some .ackWrite ∧ posted (a.port 1) = 3 ∧
      b.answer = some .error ∧ (b.port 1).request = 8 ||| 1 ∧ notices b 1 = [[0x16004F48, 0, 99, 0x00010000]] ∧
      c.answer = some .error ∧ (c.port 1).state = .quarantined ∧ heldNotices (c.port 1) = 1 := by decide +kernel

/-! ## The match of the tests meets the invariants -/

/-- A fact about every record of the arena is a fact about every listed one. -/
theorem arena_stations {P : Handle → Station → Prop} (hp : ∀ e ∈ arena.stations, P e.1 e.2) (h : Handle) (st : Station)
    (hf : arena.station? h = some st) : P h st :=
  hp (h, st) (mem_of_find hf)

theorem arena_tickets {P : TicketHandle → Ticket → Prop} (hp : ∀ e ∈ arena.tickets, P e.1 e.2) (t : TicketHandle)
    (k : Ticket) (hf : arena.ticket? t = some k) : P t k :=
  hp (t, k) (mem_of_find hf)

theorem arena_carriage {c : CellId} {x : StreamId} {k : Carriage} (hf : arena.carriage? c x = some k) :
    c = 0 ∧ x = 1 ∧ k = ⟨1, [0, 0, 0, 1, 0, 0, 0, 0], 3, .unicast, 0, false, 0⟩ := by
  have := mem_of_find hf
  simp only [arena, List.mem_singleton, Prod.mk.injEq, carriageKey] at this
  refine ⟨Fin.ext ?_, Fin.ext ?_, this.2⟩ <;> simp <;> omega

theorem arena_roster {c : CellId} (h₀ : c ≠ 0) (h₁ : c ≠ 512) : arena.rosterEntry c = {} := by
  have e₀ : 0 ≠ c.val := fun h => h₀ (Fin.ext h.symm)
  have e₁ : 512 ≠ c.val := fun h => h₁ (Fin.ext h.symm)
  simp [State.rosterEntry, tableRead, arena, tableFind, e₀, e₁]

theorem arena_lists {c : CellId} (h : c ≠ 0) : (arena.rosterEntry c).carriages = [] := by
  by_cases h₁ : c = 512
  · rw [h₁]
    rfl
  · rw [arena_roster h h₁]

theorem arena_lifecycleOk : arena.lifecycleOk := by
  show arena.clock.state ≠ .stopped
  decide

theorem arena_handlesOk : arena.handlesOk := by
  refine ⟨by decide, by decide, by decide, by decide, by decide, fun h => ?_, fun a h => ?_, by decide⟩
  · rw [State.station?, find_isSome]
    have key : ∀ n : Nat, n ∈ [0, 1, 2] ↔ n < 3 ∧ n ∉ [] := by
      intro n
      simp
      omega
    exact key h
  · constructor
    · intro hf
      have key : ∀ e ∈ arena.addressMap, ∃ st, arena.station? e.2 = some st ∧ st.address.toNat = e.1 := by decide
      obtain ⟨st, hs, ha⟩ := key _ (mem_of_find hf)
      exact ⟨st, hs, BitVec.eq_of_toNat_eq ha⟩
    · rintro ⟨st, hs, rfl⟩
      exact arena_stations (P := fun h st => tableFind arena.addressMap st.address.toNat = some h) (by decide) h st hs

theorem arena_countsOk : arena.countsOk := by
  refine ⟨by decide, by decide, arena_stations ?_, fun c => ?_⟩
  · intro e he
    simp only [arena, List.mem_cons, List.not_mem_nil, or_false] at he
    rcases he with rfl | rfl | rfl <;> simp [claimantDiffers]
  · by_cases h₀ : c = 0
    · subst h₀
      decide
    · by_cases h₁ : c = 512
      · subst h₁
        decide
      · rw [arena_roster h₀ h₁]
        simp [arena, servedBy, claimedInto, isLingering, Ne.symm h₀, Ne.symm h₁]

theorem arena_stationsOk : arena.stationsOk :=
  ⟨arena_lifecycleOk, arena_handlesOk, arena_countsOk⟩

theorem arena_bindingsOk : arena.bindingsOk := by
  constructor
  · refine fun h st t hs ht => arena_stations
      (P := fun h st => ∀ t, st.ticket = some t → ∃ k, arena.ticket? t = some k ∧ k.station = some h) ?_ h st hs t ht
    intro e he t ht
    simp only [arena, List.mem_cons, List.not_mem_nil, or_false] at he
    rcases he with rfl | rfl | rfl <;> cases ht
    exact ⟨_, rfl, rfl⟩
  · refine fun t k h hk hs => arena_tickets
      (P := fun t k => ∀ h, k.station = some h →
        (k.entry = .admitted ∨ k.entry = .exited) ∧ ∃ st, arena.station? h = some st ∧ st.ticket = some t) ?_ t k hk h hs
    intro e he h hs
    simp only [arena, List.mem_cons, List.not_mem_nil, or_false] at he
    rcases he with rfl | rfl | rfl | rfl | rfl | rfl <;> cases hs
    exact ⟨.inl rfl, _, rfl, rfl⟩

theorem arena_ticketsOk : arena.ticketsOk := by
  refine ⟨arena_stationsOk, ⟨by decide, by decide, by decide, fun t => ?_, fun n t => ?_⟩, arena_bindingsOk,
    ⟨by decide, by decide +kernel⟩, fun h => by cases h⟩
  · rw [State.ticket?, find_isSome]
    have key : ∀ n : Nat, n ∈ [0, 1, 2, 3, 4, 5] ↔ n < 6 := by
      intro n
      simp
      omega
    exact key t
  · constructor
    · intro hf
      have key : ∀ e ∈ arena.ticketMap, ∃ k, arena.ticket? e.2 = some k ∧ k.number.toNat = e.1 := by decide
      obtain ⟨k, hk, hn⟩ := key _ (mem_of_find hf)
      exact ⟨k, hk, BitVec.eq_of_toNat_eq hn⟩
    · rintro ⟨k, hk, rfl⟩
      exact arena_tickets (P := fun t k => tableFind arena.ticketMap k.number.toNat = some t) (by decide) t k hk

theorem arena_listsOk : arena.listsOk :=
  arena_stations (by decide +kernel)

theorem arena_subscriptionsOk : arena.subscriptionsOk :=
  ⟨arena_ticketsOk, arena_listsOk, fun h st e hs =>
    arena_stations (P := fun _ st => ∀ e ∈ st.subs, e.state = .active →
      isLingering st.state = false ∧ arena.entitled st e.stream = true ∧ arena.seated st e.stream = true)
      (by decide +kernel) h st hs e⟩

theorem arena_carriageListsOk : arena.carriageListsOk := by
  refine ⟨by decide, by decide, by decide, fun c => ⟨fun x => ?_, ?_⟩⟩
  · by_cases h : c = 0
    · subst h
      revert x
      decide +kernel
    · rw [arena_lists h]
      cases hk : arena.carriage? c x with
      | none => simp
      | some k => exact absurd (arena_carriage hk).1 h
  · by_cases h : c = 0
    · subst h
      decide +kernel
    · rw [arena_lists h]
      exact .nil

theorem arena_carriageCountsOk : arena.carriageCountsOk := by
  intro c x
  split
  · next h =>
    have hne : ¬(c = 0 ∧ x = 1) := by
      rintro ⟨rfl, rfl⟩
      cases h
    have h0 : (0 = c → ¬1 = x) := fun hc hx => hne ⟨hc.symm, hx.symm⟩
    simpa [arena, receives, servedBy, isLingering] using h0
  · next k h =>
    obtain ⟨rfl, rfl, rfl⟩ := arena_carriage h
    decide +kernel

theorem arena_balancesOk : arena.balancesOk := by
  intro c x k h
  obtain ⟨rfl, rfl, rfl⟩ := arena_carriage h
  decide

theorem arena_carriagesOk : arena.carriagesOk :=
  ⟨arena_stationsOk, arena_listsOk,
    fun h st e hs => arena_stations (P := fun _ st => ∀ e ∈ st.subs, e.state = .active → isLingering st.state = false)
      (by decide +kernel) h st hs e,
    arena_carriageListsOk, arena_carriageCountsOk, arena_balancesOk, by decide, by decide +kernel⟩

theorem due_deadlinesOk : due.deadlinesOk := by
  refine ⟨arena_lifecycleOk, by decide, by decide, by decide,
    arena_stations (P := fun _ st => deadlineNear due.clock.frame st) ?_⟩
  intro e he
  simp only [arena, List.mem_cons, List.not_mem_nil, or_false] at he
  rcases he with rfl | rfl | rfl <;> simp [deadlineNear, due]

/-- The pass of a match of eight sectors: sector 6 is being built for the frame after the one on air, and 7 and 0 are to
come; the completion of the build is waiting. -/
def passing : State :=
  { arena with
    venue := { sectorsInUse := 8 }, startSector := 6, pass := some ⟨100, 6, [7, 0]⟩
    sectors := [(6, { planState := .rewriting })], pending := [.sectorBuildCompletion] }

theorem passing_passOk : passing.passOk := by
  refine ⟨arena_lifecycleOk, by decide, by decide, by decide, fun sec => ?_, ?_⟩
  · constructor
    · have key : ∀ sec, (passing.sector sec).planState = .rewriting → sec = 6 := by decide +kernel
      exact fun h => ⟨_, rfl, (key sec h).symm⟩
    · rintro ⟨pass, h, rfl⟩
      cases h
      decide
  · rintro pass h
    cases h
    decide

theorem passing_plansOk : passing.plansOk := by
  refine ⟨by decide, by decide, by decide +kernel, fun c => ⟨rfl, rfl, ?_, ?_⟩⟩
  · exact (by decide : (4 : Nat) ≤ 16)
  · exact fun r h => absurd h (List.not_mem_nil)

/-! ## The canonical form after RESET -/

theorem reset_memory_wf : ∀ p, memoryWf 1024 (State.reset.port p).ring ∧ memoryWf 512 (State.reset.port p).queue := by
  decide

/-! ## Witnesses: for each statement with hypotheses, states and operands that meet them, clause by clause -/

theorem witness_StepRunsFrontCommand : State.reset.pending = [] := by decide

/-- In `due` four acts are due, in `arena` none. -/
theorem witness_EveryRowRunsAndKeepsTheQueue :
    tableWf due.stations = true ∧ due.claimsDue = [1] ∧ due.lingersDue = [2] ∧ due.drainsDue = [2] ∧
      (due.surge.map (·.endFrame)) = some due.clock.frame ∧ tableWf arena.stations = true ∧ arena.settled := by
  decide +kernel

/-- The part after RESET; a match in EXTERNAL and in INTERNAL, a strobe before the guard; a command posted, which is no
unknown code; four elements with CHAIN posted, five of which the fourth ends a command, a run without a further element, and
a QUARANTINED port. -/
theorem witness_EventsNotDueChangeNothing :
    let link := element 0x10000041 []
    let four := posting arena 2 [link, link, link, link]
    let ended := posting arena 2 [link, link, link, element 0x41 [], link]
    (arena.settled ∧ arena.clock.state = .external ∧ 1002559999 < arena.clock.lastBoundary + 2560000 ∧
      ({ arena with clock := { arena.clock with state := .internal } } : State).settled ∧
      (taken arena 0 .readCell [0]).settled ∧ takeable ((taken arena 0 .readCell [0]).port 0) ≠ none ∧
      (cmdIn (taken arena 0 .readCell [0]) 0).code = commandCode .readCell ∧
      four.settled ∧ (four.port 2).overlong = none ∧ posted (four.port 2) = 4 ∧ (∀ i < 4, chained (four.port 2) i = true) ∧
      ended.settled ∧ posted (ended.port 2) = 5 ∧ chained (ended.port 2) 3 = false ∧
      posted ({ arena.port 2 with overlong := some true } : PortUnit) = 0) ∧
    State.reset.settled ∧ (∀ p, takeable (State.reset.port p) = none) ∧ (∀ p : PortId, State.reset.arbiter.holder ≠ some p) ∧
      (∀ p : PortId, State.reset.arbiter.grant ≠ some p) ∧ State.reset.clock.state = .stopped ∧
      State.reset.latch = .disarmed ∧ State.reset.surge = none ∧
      (∀ e ∈ State.reset.stations, claimDue State.reset.clock.frame e.2 = false ∧ lingerDue State.reset.clock.frame e.2 = false) ∧
      (∀ x, drainDue State.reset.clock.frame (State.reset.stream x).state = false) ∧ State.reset.pass = none := by
  decide +kernel

theorem witness_BusIsGrantedInRotation :
    (State.reset.settled ∧ State.reset.arbiter.holder = none ∧ State.reset.arbiter.grant = none ∧
      (0b1110 : BitVec 4).getLsbD (State.reset.arbiter.lastHolder + 1 + 1).val = true ∧
      ∀ j < (1 : Fin 4), (0b1110 : BitVec 4).getLsbD (State.reset.arbiter.lastHolder + 1 + j).val = false) ∧
      (holding arena 2).settled ∧ (holding arena 2).arbiter.holder = some 2 ∧
      ({ arena with arbiter := ⟨none, some 0, 3, 1⟩ } : State).settled ∧
      ({ arena with arbiter := ⟨none, some 0, 3, 1⟩ } : State).arbiter.grant = some 0 := by decide +kernel

theorem witness_HolderReadsItsWindowAndThePlans :
    (holding arena 3).settled ∧ (holding arena 3).arbiter.holder = some 3 ∧ ((holding arena 3).port 3).state = .active := by
  decide +kernel

/-- Port 0 holds the bus with one element posted, and a QUARANTINED port 1 holds it. -/
theorem witness_ErrorFaultsAndThenQuarantines :
    let s := holding (taken arena 0 .readCell [0]) 0
    let q := (holding arena 1).setPort 1 { arena.port 1 with state := .quarantined }
    s.settled ∧ q.settled ∧ s.arbiter.holder = some 0 ∧ (0x607 : WordAddr).toNat = 0x1000 * 0 + 0x607 ∧ (0x607 : WordAddr).toNat < 0x4000 ∧
      0xC000 ≤ (0xC000 : WordAddr).toNat ∧ 0x4000 ≤ (0x4000 : WordAddr).toNat ∧ (0xBFFF : WordAddr).toNat < 0xC000 ∧
      (15 < 1024 ∧ ∃ i < posted (s.port 0), ringElement (s.port 0) i = 15 / 16) ∧
      127 < (128 : Word).toNat ∧ 63 < ((64 : Word).setWidth 7 - (s.port 0).consumer).toNat ∧
      ((0 : Word).setWidth 7 - (s.port 0).consumer).toNat < posted (s.port 0) ∧
      q.arbiter.holder = some 1 ∧ (q.port 1).state = .quarantined ∧ (0x1607 : WordAddr).toNat ≠ 0x1000 * 1 + 0x606 := by
  decide +kernel

/-- Port 0 holds the bus with one element posted: element 1 may be written, the producer index raised from 1 to 63. -/
theorem witness_HolderWritesRingAndIndexWords :
    let s := holding (taken arena 0 .readCell [0]) 0
    s.settled ∧ s.arbiter.holder = some 0 ∧ (s.port 0).state = .active ∧ (0x7FFFFFFF : Word).getLsbD 31 = false ∧
      (∀ i < posted (s.port 0), ringElement (s.port 0) i ≠ 16 / 16) ∧
      ((63 : Word).toNat + 128 - (s.port 0).consumer.toNat) % 128 ≤ 63 ∧
      posted (s.port 0) ≤ ((1 : Word).toNat + 128 - (s.port 0).consumer.toNat) % 128 := by decide +kernel

theorem witness_AttentionWritesSetAndClear :
    (holding arena 2).settled ∧ (holding arena 2).arbiter.holder = some 2 ∧ ((holding arena 2).port 2).state = .active := by
  decide +kernel

/-- A QUARANTINED port that holds the bus, with MASTER and FAULT enabled and FAULT requested. -/
theorem witness_AttnFollowsRequestAndEnable :
    let s := (holding arena 1).setPort 1 { arena.port 1 with state := .quarantined, request := 8, enable := 24 }
    (s.port 1).state = .quarantined ∧ attn (s.port 1) = true ∧ s.arbiter.holder = some 1 ∧
      ∃ t, exec (.frameStrobe 1005120000 []) s = .next t :=
  ⟨by decide, by decide, by decide, _, rfl⟩

theorem witness_PortResetClearsThePort :
    (holding driver 1).settled ∧ (holding driver 1).arbiter.holder = some 1 := by decide +kernel

theorem witness_QuarantineFreezesThePort :
    let s := arena.setPort 0 { arena.port 0 with state := .quarantined }
    (s.port 0).state = .quarantined ∧ (Instr.frameStrobe 1005120000 []).wellFormed = true ∧
      ∃ t, exec (.frameStrobe 1005120000 []) s = .next t :=
  ⟨by decide, by decide, _, rfl⟩

/-- One element, and a chain of four. -/
theorem witness_CommandIsTakenWhole :
    let one := (taken arena 0 .readCell [0]).port 0
    let four := (posting arena 2 [element 0x10000041 [], element 0x10000041 [], element 0x10000041 [], element 0x41 []]).port 2
    takeable one = some (posted? arena 0 .readCell [0]) ∧ one.state = .active ∧ one.overlong = none ∧
      1 ≤ posted one ∧ chained one 0 = false ∧
      four.state = .active ∧ four.overlong = none ∧ 4 ≤ posted four ∧ (∀ i < 3, chained four i = true) ∧
      chained four 3 = false := by decide +kernel

/-- A bad length, a role that may not, a command of SETUP in SERVICE, one of SERVICE in SETUP, and three that pass. -/
theorem witness_PortUnitChecksInOrder :
    let posts (s : State) (p : PortId) (c : Command) (ops : List Word) : Bool :=
      decide ((taken s p c ops).posts p c (posted? s p c ops))
    posts setup 0 .setVenue [32] = true ∧ (posted? setup 0 .setVenue [32]).elements.length ≠ 2 ∧
      posts arena 2 .claim [0, 0] = true ∧ (posted? arena 2 .claim [0, 0]).elements.length = 1 ∧
      ((taken arena 2 .claim [0, 0]).port 2).role = .gate ∧
      posts arena 0 .openMatch [] = true ∧ ((taken arena 0 .openMatch []).port 0).role ≠ .none ∧
      (taken arena 0 .openMatch []).device = .service ∧
      posts setup 0 .claim [0, 0] = true ∧ ((taken setup 0 .claim [0, 0]).port 0).role = .cell 0 15 ∧
      (taken setup 0 .claim [0, 0]).device = .setup ∧
      ready arena 1 .claim [0, 512] ∧ ready setup 2 .loadTickets [] ∧ ready State.reset 3 .declarePort [0] := by
  decide +kernel

/-- One element and four; items that end with the eighth word when aligned, and items that fit it only
when some stand across a word boundary: READ_STREAM in DRAINING, and READ_STATION in IN_HANDOVER with two entries, both
SUSPENDED and one of them ACTIVE. -/
theorem witness_CompletionWritesTheElements :
    let drained : List Item := [.bytes 1 2, .bytes 2 800, .bytes 2 12800, .bytes 1 3, .bytes 1 2, .bytes 1 1, .bytes 1 3,
      .bytes 4 10, .bytes 4 6, .bytes 4 99, .bytes 3 5, .bytes 2 6, .bytes 3 7]
    let moving : List Item := [.bytes 2 1, .wide 0xA2, .bytes 1 1, .bytes 2 0, .bytes 1 7, .bytes 2 512, .bytes 4 100,
      .bytes 1 2, .bytes 3 16777215, .bytes 1 3, .bytes 1 1, .bytes 1 2, .bytes 1 4, .bytes 1 1, .bytes 1 3]
    let mixed : List Item := [.bytes 2 1, .wide 0xA2, .bytes 1 1, .bytes 2 0, .bytes 1 7, .bytes 2 512, .bytes 4 100,
      .bytes 1 2, .bytes 3 16777215, .bytes 1 3, .bytes 1 0, .bytes 1 4, .bytes 1 1, .bytes 1 3]
    (⟨0x41, 77, true, [[], [], [], []]⟩ : Cmd).elements.length = 4 ∧
      (posted? arena 0 .readCell [0]).elements.length = 1 ∧
      resultWords [.bytes 4 1, .bytes 4 2, .wide 0x300000004, .wide 5, .bytes 2 6, .bytes 3 7, .bytes 1 8] =
        [1, 2, 4, 3, 5, 0, 0x00060000, 0x00000708] ∧
      resultWords drained = [0x02032000, 0x32000302, 0x01030000, 10, 6, 99, 0x00000500, 0x06000007] ∧
      resultWords moving =
        [0x00010000, 0xA2, 0, 0x01000007, 0x02000000, 0x006402FF, 0xFFFF0301, 0x02040103] ∧
      resultWords mixed =
        [0x00010000, 0xA2, 0, 0x01000007, 0x02000000, 0x00640200, 0xFFFFFF03, 0x00040103] := by decide +kernel

/-- A code of no command; five elements whose first four carry CHAIN, with the fifth ending the run and continuing it; and
a run that goes on with one element more, and with none. -/
theorem witness_UnknownCodesAndOverlongRunsAreCompleted :
    let bad := posting arena 2 [element 0xFF []]
    let link := element 0x10000041 []
    let run := (posting arena 2 [link, link, link, link, element 0x41 []]).port 2
    let on := (posting arena 2 [link, link, link, link, link]).port 2
    let more (els : List (List Word)) : PortUnit := { (posting arena 2 els).port 2 with overlong := some true }
    bad.settled ∧ takeable (bad.port 2) = some (cmdIn bad 2) ∧ (∀ c : Command, (cmdIn bad 2).code ≠ commandCode c) ∧
      run.state = .active ∧ run.overlong = none ∧ (∀ i < 4, chained run i = true) ∧ posted run = 5 ∧ chained run 4 = false ∧
      on.state = .active ∧ on.overlong = none ∧ (∀ i < 4, chained on i = true) ∧ posted on = 5 ∧ chained on 4 = true ∧
      (more [link]).state = .active ∧ posted (more [link]) = 1 ∧ chained (more [link]) 0 = true ∧
      posted (more [element 0x41 []]) = 1 ∧ chained (more [element 0x41 []]) 0 = false ∧ posted (more []) = 0 := by
  refine ⟨by decide +kernel, by decide +kernel, ?_, by decide +kernel⟩
  intro c
  cases c <;> decide +kernel

/-- The ranges of the notices' fields take in the largest value that the match gives each: 98,303 tickets, 65,535 handles,
costs of 267 slots, sums of 16 costs, and 32 sectors. -/
theorem witness_NoticesFillTheQueueUpToAnOverflow :
    98303 < 2 ^ 17 ∧ 65535 < 65536 ∧ 131070 < 2 ^ 17 ∧ 1024 < 2 ^ 11 ∧ 267 < 512 ∧ 16 * 267 < 2 ^ 13 ∧ 76 < 128 ∧ 32 < 64 ∧
      79 < 128 ∧ (0x17 < 32) ∧ ({ state := .quarantined } : PortUnit).state = .quarantined ∧
      heldNotices { tail := 126 } < 127 ∧ heldNotices { tail := 127 } = 127 ∧ heldNotices { tail := 128 } = 128 := by
  decide

/-! ### Match Control and the Frame Clock -/

theorem witness_DeclarePortReplacesTheDeclaration :
    ready State.reset 0 .declarePort [0] ∧ (posted? State.reset 0 .declarePort [0]).op 2 = 0 ∧
      ready State.reset 1 .declarePort [3] ∧ (posted? State.reset 1 .declarePort [3]).op 2 = 3 ∧
      ready State.reset 2 .declarePort [2] ∧ (posted? State.reset 2 .declarePort [2]).op 2 = 2 ∧
      ready State.reset 0 .declarePort [4] ∧ 3 < ((posted? State.reset 0 .declarePort [4]).op 2).toNat ∧
      ready State.reset 0 .declarePort [1, 1, 0] ∧ ready State.reset 0 .declarePort [1, 0, 32] ∧
      (ready State.reset 0 .declarePort [1, 0, 31] ∧
        ∀ q : PortId, q ≠ 0 → ∀ sec, ownsSector ((taken State.reset 0 .declarePort [1, 0, 31]).port q) sec = false) ∧
      ready setup 2 .declarePort [1, 15, 16] ∧ ownsSector ((taken setup 2 .declarePort [1, 15, 16]).port 0) 15 = true := by
  decide +kernel

/-- SET_VENUE with the given operands. -/
def venueCommand (a b : List Word) : State :=
  posting setup 0 [element (0x10000000 + (commandCode .setVenue).toNat) a, element (commandCode .setVenue).toNat b]

theorem witness_SetVenueTakesItsEightValues :
    let good := venueCommand [32, 1, 0, 33] [65, 199, 4001, 1]
    let bad := venueCommand [33, 32, 1, 1] [2, 200, 0, 0]
    let beyond := venueCommand [31, 32, 1, 1] [2, 200, 0, 0]
    fit good 0 .setVenue ∧ fit bad 0 .setVenue ∧ 32 < ((cmdIn bad 0).word 0 2).toNat ∧
      fit beyond 0 .setVenue ∧ (beyond.port 1).role = .cell 16 31 ∧
      ((cmdIn beyond 0).word 0 2).toNat ≤ 31 := by decide +kernel

theorem witness_OpenMatchStartsTheMatch :
    ready setup 3 .openMatch [] ∧ (taken setup 3 .openMatch []).startSector = 0 ∧
      (∀ sec, ∃ q, ownsSector ((taken setup 3 .openMatch []).port q) sec = true) ∧
      (let s := taken { setup with ports := { setup.ports with p1 := { role := .cell 17 31 } } } 0 .openMatch []
       fit s 0 .openMatch ∧ (∀ q, ownsSector (s.port q) 16 = false) ∧
        ∀ sec < (16 : SectorId), ∃ q, ownsSector (s.port q) sec = true) := by decide +kernel

theorem witness_CloseMatchClearsTheMatch : ready arena 0 .closeMatch [] := by decide +kernel

theorem witness_StrobesAndExpiriesMakeBoundaries :
    arena.settled ∧ 1002559999 < arena.clock.lastBoundary + 2560000 ∧ arena.clock.lastBoundary + 2560000 ≤ 1002560000 ∧
      arena.clock.state = .external ∧ arena.venue.frameSource = .external ∧
      ({ arena with clock := { arena.clock with state := .internal } } : State).clock.state = .internal ∧
      ({ arena with venue := { frameSource := .internal } } : State).venue.frameSource = .internal := by decide +kernel

theorem witness_MomentPulseIsLatched :
    arena.settled ∧ ({ arena with latch := .armed 8 24 } : State).latch = .armed 8 24 ∧ arena.latch = .disarmed ∧
      ({ arena with latch := .latched 8 24 99 79 } : State).latch = .latched 8 24 99 79 := by decide

theorem witness_ArmMomentAndSurgeEnd :
    ready arena 3 .armMoment [31, 0] ∧ ready arena 3 .armMoment [32, 0] ∧
      due.surge = some ⟨8, 24, 100⟩ ∧ (100 : FrameNo) = due.clock.frame := by decide +kernel

/-! ### Stations and handover -/

/-- An address of no record, and one that LINGERS; the level is clamped in the first. -/
theorem witness_AssociateCreatesOrRevives :
    ready arena 1 .associate [0xB1, 0, 513, 8] ∧ arena.stationByAddress 0xB1 = none ∧
      popHandle arena.handles = some (3, ⟨[], 4⟩) ∧ ownsCell (arena.port 1) 513 = true ∧ arena.inVenue 513 = true ∧
      (arena.rosterEntry 513).count + (arena.rosterEntry 513).pendingIn < arena.venue.cellLimit ∧
      ready arena 1 .associate [0xA3, 0, 513, 7] ∧
      ((arena.stationByAddress 0xA3).map fun e => (e.1, isLingering e.2.state)) = some (2, true) := by decide +kernel

/-- One operand list for each refusal; in `full` every cell takes one station, and in `spent` no handle is left. -/
theorem witness_AssociateRefusesInOrder :
    let full := { arena with venue := { cellLimit := 1 } }
    let spent := { arena with handles := ⟨[], 65536⟩ }
    ready arena 0 .associate [0xB1, 0x10000, 0, 0] ∧ ready arena 0 .associate [0xB1, 0, 1024, 0] ∧
      ready arena 0 .associate [0xB1, 0, 512, 0] ∧ ownsCell (arena.port 0) 512 = false ∧
      ready arena 0 .associate [0xA1, 0, 0, 0] ∧ ready full 0 .associate [0xA3, 0, 0, 0] ∧
      ready full 0 .associate [0xB1, 0xFFFF, 0, 0] ∧ full.hasRoom 0 = false ∧
      ready spent 0 .associate [0xB1, 0, 0, 0] ∧ spent.hasRoom 0 = true ∧ popHandle spent.handles = none := by
  decide +kernel

/-- A handle past the table and one not live, a LINGERING station, another port's cell, another sequence; and a station put
into linger. -/
theorem witness_DetachStartsTheLinger :
    (∀ ops ∈ [[65536, 0], [3, 0], [2, 0], [0, 4], [0, 5]], ready arena 0 .detach ops) ∧ ready arena 1 .detach [0, 5] ∧
      (3 < 65536 ∧ arena.station? 3 = none) ∧ ((arena.station? 2).map fun st => isLingering st.state) = some true ∧
      ((arena.station? 0).map fun st => (st.state, st.serving, st.sequence.toNat)) = some (.associated, 0, 5) ∧
      ownsCell (arena.port 0) 0 = true ∧ ownsCell (arena.port 1) 0 = false := by decide +kernel

/-- A handle not live, a port that owns neither cell; the same level, another level in linger, another level with an ACTIVE
and with a SUSPENDED entry, and a report from the claimant cell's port. The carriage of cell 0 has one member, and its list
takes a new stream before stream 1 and after it. -/
theorem witness_ReportLevelMovesTheHistograms :
    let waiting := arena.setStation 1 ⟨0xA2, .inHandover 512 100 9, 0, 7, 2, none, [⟨1, .suspended .noCarriage⟩]⟩
    ready arena 0 .reportLevel [3, 0] ∧ arena.station? 3 = none ∧ ready arena 1 .reportLevel [0, 0] ∧
      ownsCell (arena.port 1) 0 = false ∧ arena.carriage? 0 0 = none ∧ arena.carriage? 0 2 = none ∧
      arena.grantsBefore 0 1 = true ∧ arena.grantsBefore 2 1 = false ∧
      ((arena.carriage? 0 1).map fun k => (k.count, k.hist.length, k.hist.sum)) = some (1, 8, 1) ∧
      ready arena 0 .reportLevel [0, 3] ∧ ready arena 0 .reportLevel [2, 8] ∧ ready arena 0 .reportLevel [0, 0] ∧
      ready waiting 1 .reportLevel [1, 7] ∧ ownsCell (arena.port 0) 0 = true ∧ ownsCell (arena.port 0) 1 = true ∧
      ownsCell (arena.port 1) 512 = true ∧ ((arena.carriage? 0 1).map (·.hist.length)) = some 8 ∧
      ((arena.station? 0).map fun st => (st.level, st.subs)) = some (3, [⟨1, .active⟩]) ∧
      ((arena.station? 2).map fun st => (st.level, isLingering st.state)) = some (4, true) ∧
      ((waiting.station? 1).map fun st => (st.level, st.serving, st.subs)) = some (2, 0, [⟨1, .suspended .noCarriage⟩]) := by
  decide +kernel

/-- A cell outside the venue, one of another port, a handle not live; STALE, SAME_CELL, a LINGERING station, the standing claim, another one, a cell with room, a full cell. -/
theorem witness_ClaimStartsOneHandover :
    ready arena 1 .claim [0, 1024] ∧ ready arena 1 .claim [0, 511] ∧ ownsCell (arena.port 1) 511 = false ∧
      ready arena 1 .claim [3, 512] ∧ arena.station? 3 = none ∧ ready arena 1 .claim [0, 512, 4, 1] ∧ ready arena 0 .claim [0, 0, 5, 1] ∧ ready arena 1 .claim [2, 512, 0, 0] ∧
      ready arena 1 .claim [1, 512, 7, 1] ∧ ready arena 1 .claim [1, 513, 0, 0] ∧ ready arena 1 .claim [0, 1023, 0, 0] ∧
      ready { arena with venue := { cellLimit := 1 } } 1 .claim [0, 512, 0, 0] ∧
      ownsCell (arena.port 1) 512 = true ∧ ownsCell (arena.port 1) 1023 = true ∧ arena.inVenue 1023 = true ∧
      (arena.stations.map fun e => e.2.state) = [.associated, .inHandover 512 100 9, .lingering 100 8] ∧
      (arena.rosterEntry 512).count + (arena.rosterEntry 512).pendingIn = 1 := by decide +kernel

/-- RELEASE of a handle not live, with another sequence, of a LINGERING station, from another port and of a station without
a claim; a completion by RELEASE and by DETACH; in `due` the claim deadline of station 1. -/
theorem witness_HandoverCompletionMovesTheStation :
    (∀ ops ∈ [[3, 0], [1, 6], [2, 0], [0, 5], [1, 7]], ready arena 0 .release ops) ∧ ready arena 1 .release [1, 7] ∧
      ownsCell (arena.port 1) 0 = false ∧ arena.station? 3 = none ∧
      ((arena.station? 2).map fun st => (isLingering st.state, st.sequence)) = some (true, 0) ∧
      ((arena.station? 0).map fun st => (st.state, st.sequence)) = some (.associated, 5) ∧
      ready arena 0 .detach [1, 7] ∧ ownsCell (arena.port 0) 0 = true ∧
      ((arena.station? 1).map fun st => (st.state, st.serving, st.sequence)) = some (.inHandover 512 100 9, 0, 7) ∧
      arena.ownerOf (sectorOf 512) = some 1 ∧ (arena.port 1).state = .active ∧
      tableWf due.stations = true ∧ (100 : FrameNo) = due.clock.frame := by decide +kernel

/-- A handle not live, another sequence, stations without a claim, another port, and a withdrawal; a QUARANTINED owner of
the claimant cell. -/
theorem witness_AbandonedClaimsLeaveTheStation :
    let s := arena.setPort 1 { arena.port 1 with state := .quarantined }
    (∀ ops ∈ [[3, 0], [1, 8], [0, 5], [2, 0], [1, 7]], ready arena 1 .withdraw ops) ∧ ready arena 0 .withdraw [1, 7] ∧
      ownsCell (arena.port 1) 512 = true ∧ ownsCell (arena.port 0) 512 = false ∧
      (arena.stations.map fun e => (e.2.state, e.2.sequence)) =
        [(.associated, 5), (.inHandover 512 100 9, 7), (.lingering 100 8, 0)] ∧
      s.ownerOf (sectorOf 512) = some 1 ∧ (s.port 1).state = .quarantined := by decide +kernel

/-- In `due` the linger deadline of station 2 is the frame. -/
theorem witness_LingerExpiryFreesTheRecord :
    due.stationsOk ∧ due.bindingsOk ∧ tableWf due.stations = true ∧
      ((due.station? 2).map fun st => (st.state, st.subs.map (·.stream))) = some (.lingering 100 8, [2]) ∧
      (100 : FrameNo) = due.clock.frame :=
  ⟨arena_stationsOk, arena_bindingsOk, by decide, by decide, by decide⟩

/-! ### Tickets, zones and bindings -/

/-- A ticket and its four operand words. -/
def newTicket : Ticket := ⟨0x100000061, some ⟨31, 127, 255⟩, 15, true, .premium, .issued, 3, none, none⟩
def newTicketWords : List Word := [0x61, 1, 0x1F7F00FF, 0x0F020303]

/-- The loaded count below the table's size, one below it, and at it; each field one above its range, or 0 where that is
outside it; and a number that is loaded, or stands in the element before. -/
theorem witness_LoadTicketsLoadsTheChain :
    ready arena 2 .loadTickets newTicketWords ∧ ready { arena with loaded := 98303 } 2 .loadTickets newTicketWords ∧
      ready { arena with loaded := 98304 } 2 .loadTickets newTicketWords ∧
      (let cmd := posted? arena 2 .loadTickets newTicketWords
       let k := newTicket
       cmd.elements.length = 1 ∧ k.reentries ≤ 3 ∧
        cmd.word 0 2 = BitVec.ofNat 32 k.number.toNat ∧ cmd.word 0 3 = BitVec.ofNat 32 (k.number.toNat / 2 ^ 32) ∧
        k.seat = some ⟨31, 127, 255⟩ ∧ cmd.word 0 4 = BitVec.ofNat 32 (31 * 2 ^ 24 + 127 * 2 ^ 16 + 255) ∧
        cmd.word 0 5 = BitVec.ofNat 32 (k.zone.val * 2 ^ 24 + ticketClassCode k.cls * 2 ^ 16 + k.reentries * 2 ^ 8 +
          2 * bit k.anyZone + bit k.seat.isSome) ∧ tableFind arena.ticketMap k.number.toNat = none) ∧
      (∀ ops ∈ [[0x61, 1, 0, 0x10010000], [0x61, 1, 0, 0x00000000], [0x61, 1, 0, 0x00030000], [0x61, 1, 0, 0x00010400],
          [0x61, 1, 0x20000000, 0x00010001], [0x61, 1, 0x00800000, 0x00010001], [0x61, 1, 0x00000100, 0x00010001],
          [0x51, 0, 0, 0x00010000]], ready arena 2 .loadTickets ops) ∧ tableFind arena.ticketMap 0x51 = some 0 ∧
      (let twice := posting arena 2 [element 0x10000020 newTicketWords, element 0x20 newTicketWords]
       fit twice 2 .loadTickets ∧ (cmdIn twice 2).elements.length = 2 ∧
        (cmdIn twice 2).word 1 3 ++ (cmdIn twice 2).word 1 2 = (cmdIn twice 2).word 0 3 ++ (cmdIn twice 2).word 0 2) := by
  decide +kernel

/-- Ticket 1 is ISSUED and unbound; ticket 0, made EXITED, is bound and has a re-entry left; zone 1 has one place left. -/
theorem witness_AdmitLetsTheTicketIn :
    let s := arena.setTicket 0
      ⟨0x51, some ⟨0, 4, 9⟩, 1, false, .premium, .exited, 1, some ⟨1, 16, 90⟩, some 0⟩
    (ready arena 2 .admitTicket [0x52, 0, 16] ∧ (posted? arena 2 .admitTicket [0x52, 0, 31]).op 4 = 31 ∧
      ready s 2 .admitTicket [0x51, 0, 31] ∧ (arena.zone 1).state = .opened ∧
      (arena.zone 1).occupancy + 1 = (arena.zone 1).limit ∧
      ((arena.ticketByNumber 0x52).map fun e => (e.1, e.2.entry, e.2.zone, e.2.station)) = some (1, .issued, 1, none) ∧
      ((s.ticketByNumber 0x51).map fun e => (e.1, e.2.entry, e.2.reentries, e.2.station)) = some (0, .exited, 1, some 0)) ∧
      s.listsOk :=
  ⟨by decide +kernel, arena_listsOk⟩

/-- Gate 256 with a number that is not known and one that is; a CLOSED zone, another zone, and tickets VOID, ADMITTED,
without a re-entry left, and before a full zone. -/
theorem witness_AdmitRefusesInOrder :
    let full := arena.setZone 1 ⟨.opened, 1, 1, 3⟩
    (∀ ops ∈ [[0x99, 0, 256], [0x99, 0, 0], [0x52, 0, 256], [0x52, 0, 255], [0x52, 0, 32], [0x55, 0, 32], [0x51, 0, 16],
      [0x54, 0, 16]], ready arena 2 .admitTicket ops) ∧ ready full 2 .admitTicket [0x52, 0, 16] ∧
      (arena.zone 15).state = .closed ∧ (arena.zone 2).state = .opened ∧
      ((arena.tickets.map fun e => (e.2.entry, e.2.zone))) =
        [(.admitted, 1), (.issued, 1), (.exited, 1), (.exited, 1), (.voided, 2), (.admitted, 2)] ∧
      (full.zone 1).limit = 1 ∧ (full.zone 1).occupancy = 1 := by decide +kernel

/-- A gate above 255, an unknown number, a gate of a CLOSED zone, a ticket that is not ADMITTED; a bound ticket at a gate of
an EXIT_ONLY zone. -/
theorem witness_ExitLeavesTheEntryZone :
    let s := arena.setZone 1 ⟨.exitOnly, 0, 1, 3⟩
    ((∀ ops ∈ [[0x51, 0, 256], [0x99, 0, 255], [0x51, 0, 255], [0x52, 0, 17], [0x51, 0, 17]], ready s 2 .exitTicket ops) ∧
      (s.zone 15).state = .closed ∧ s.ticketByNumber 0x99 = none ∧
      ((s.ticketByNumber 0x52).map fun e => e.2.entry) = some .issued ∧ (s.zone 1).state = .exitOnly ∧
      ((s.ticketByNumber 0x51).map fun e => (e.1, e.2.entry, e.2.admission, e.2.station)) =
        some (0, .admitted, some ⟨1, 16, 90⟩, some 0)) ∧ s.listsOk :=
  ⟨by decide +kernel, arena_listsOk⟩

/-- An unknown number, a VOID ticket, a bound ticket that is ADMITTED, and one that is ISSUED. -/
theorem witness_VoidRemovesTicketedSubscriptions :
    ((∀ ops ∈ [[0x99, 0], [0x55, 0], [0x51, 0], [0x52, 0]], ready arena 2 .voidTicket ops) ∧
      arena.ticketByNumber 0x99 = none ∧ ((arena.ticketByNumber 0x55).map fun e => e.2.entry) = some .voided ∧
      ((arena.ticketByNumber 0x51).map fun e => (e.2.entry, e.2.station)) = some (.admitted, some 0) ∧
      (arena.station? 0).isSome = true ∧ ((arena.ticketByNumber 0x52).map fun e => e.2.station) = some none) ∧
      (taken arena 2 .voidTicket [0x51, 0]).bindingsOk ∧ (taken arena 2 .voidTicket [0x51, 0]).listsOk :=
  ⟨by decide +kernel, arena_bindingsOk, arena_listsOk⟩

theorem witness_SetZoneReplacesStateAndLimit :
    ready arena 2 .setZone [15, 2, 65535] ∧ ready arena 2 .setZone [16, 0, 0] ∧ ready arena 2 .setZone [0, 3, 0] ∧
      ready arena 2 .setZone [0, 0, 65536] := by decide +kernel

/-- BIND of a handle not live, an unknown number and a VOID ticket, which are refused; a ticket bound to the station already,
another for a bound station, an unbound one, and one bound elsewhere without and with the move flag; an unknown, an unbound
and a bound ticket unbound. -/
theorem witness_BindAndUnbindKeepBothSides :
    ((∀ ops ∈ [[3, 0x51, 0, 0], [0, 0x99, 0, 0], [0, 0x55, 0, 0], [0, 0x51, 0, 0], [0, 0x56, 0, 0], [1, 0x56, 0, 0],
          [1, 0x51, 0, 0], [1, 0x51, 0, 1]], ready arena 2 .bindTicket ops) ∧
      (∀ ops ∈ [[0x99, 0], [0x56, 0], [0x51, 0]], ready arena 2 .unbindTicket ops) ∧ arena.station? 3 = none ∧
      ((arena.station? 0).map (·.ticket)) = some (some 0) ∧ ((arena.station? 1).map (·.ticket)) = some none ∧
      ((arena.ticketByNumber 0x51).map fun e => (e.1, e.2.entry, e.2.station)) = some (0, .admitted, some 0) ∧
      ((arena.ticketByNumber 0x55).map fun e => e.2.entry) = some .voided ∧
      ((arena.ticketByNumber 0x56).map fun e => (e.1, e.2.entry, e.2.station)) = some (5, .admitted, none) ∧
      arena.ticketByNumber 0x99 = none) ∧ (taken arena 2 .bindTicket [1, 0x56, 0, 0]).listsOk ∧
      (taken arena 2 .bindTicket [1, 0x56, 0, 0]).bindingsOk :=
  ⟨by decide +kernel, arena_listsOk, arena_bindingsOk⟩

/-! ### Streams and subscriptions -/

/-- Each operand one above its range; an IDLE stream, a LIVE one and a DRAINING one. -/
theorem witness_StreamsOpenAndClose :
    (∀ ops ∈ [[16, 9, 3, 2, 1], [0, 9, 4, 2, 1], [0, 9, 3, 3, 1], [0, 9, 3, 2, 1], [1, 800, 0, 0, 0]],
        ready arena 3 .openStream ops) ∧
      (∀ ops ∈ [[16], [0], [1], [2]], ready arena 3 .closeStream ops) ∧ (arena.stream 0).state = .idle ∧
      (arena.stream 1).state = .live ⟨80, 0, .basic, true, 3, 10⟩ ∧ streamStateCode (arena.stream 2).state = 2 := by
  decide +kernel

/-- A stream above 15, an IDLE and a DRAINING one, and a LIVE one with a carriage. -/
theorem witness_SetStreamRateAdjustsTheCarriages :
    ((∀ ops ∈ [[16, 80], [0, 80], [2, 80], [1, 801]], ready arena 3 .setStreamRate ops) ∧ (arena.stream 0).state = .idle ∧
      streamStateCode (arena.stream 2).state = 2 ∧ (arena.stream 1).state = .live ⟨80, 0, .basic, true, 3, 10⟩ ∧
      (arena.carriage? 0 1).isSome = true) ∧
      (taken arena 3 .setStreamRate [1, 801]).carriageListsOk ∧ (taken arena 3 .setStreamRate [1, 801]).balancesOk :=
  ⟨by decide +kernel, arena_carriageListsOk, arena_balancesOk⟩

/-- A stream above 15, a handle not live, a stream that is not LIVE; a list with room, one that holds the stream, a full
one; an ACTIVE and a SUSPENDED entry taken off, and one that is not there. An evaluation of an ACTIVE entry that passes; of
SUSPENDED ones that pass, by the carriage or by a free record; and of entries that fail each check: station 2 LINGERS, station
1 has no ticket, station 0 is away from its seat, and in `spent` no carriage record is free. -/
theorem witness_SubscribeAppendsAndUnsubscribeRemoves :
    let two := arena.setStation 1
      ⟨0xA2, .associated, 0, 7, 2, none, [⟨3, .suspended .away⟩, ⟨4, .suspended .away⟩]⟩
    let away := arena.setStation 0 ⟨0xA1, .associated, 32, 5, 3, some 0, [⟨1, .active⟩, ⟨2, .suspended .away⟩]⟩
    let bare := arena.setStation 1 ⟨0xA2, .associated, 0, 7, 2, none, [⟨1, .suspended .away⟩, ⟨2, .suspended .lingering⟩]⟩
    let spent : State := { bare with carriages := List.replicate 4096 (0, ⟨1, [], 0, .unicast, 0, false, 0⟩) }
    (∀ ops ∈ [[0, 16], [3, 15], [1, 0], [1, 2], [1, 1], [0, 1]], ready arena 3 .subscribe ops) ∧
      ready two 3 .subscribe [1, 1] ∧ arena.station? 3 = none ∧ (arena.stream 0).state = .idle ∧
      (∀ ops ∈ [[0, 16], [3, 15], [0, 1], [2, 2], [1, 0]], ready arena 3 .unsubscribe ops) ∧
      ((arena.stream 1).state = .live ⟨80, 0, .basic, true, 3, 10⟩) ∧
      (arena.stream 2).state = .draining ⟨80, 0, .anyone, false, 3, 10⟩ 6 99 ∧
      (arena.stations.map fun e => e.2.subs) = [[⟨1, .active⟩], [], [⟨2, .suspended .lingering⟩]] ∧
      ((two.station? 1).map fun st => (st.subs.map (·.stream)).length) = some 2 ∧
      (arena.carriage? 0 1).isSome = true ∧ bare.carriage? 0 2 = none ∧ bare.carriages.length < 4096 ∧
      spent.carriage? 0 2 = none ∧ spent.carriages.length = 4096 ∧ (0 : CellId).val / 32 = 0 ∧ (32 : CellId).val / 32 = 1 ∧
      ((arena.ticket? 0).map fun k => (k.entry, k.cls, k.seat)) = some (.admitted, .premium, some ⟨0, 4, 9⟩) ∧
      ((away.station? 0).map fun st => decide (st.subs.map (·.stream)).Nodup) = some true ∧
      ((bare.station? 1).map fun st => st.ticket) = some none := by
  refine ⟨?_, ?_, ?_, ?_, ?_, ?_, ?_, ?_, ?_, ?_, ?_, ?_, ?_, ?_, ?_, ?_, ?_, ?_, ?_⟩
  all_goals decide +kernel

theorem witness_DrainEndsTheStream :
    tableWf due.stations = true ∧ due.carriageListsOk ∧
      (due.stream 2).state = .draining ⟨80, 0, .anyone, false, 3, 10⟩ 6 99 ∧ (99 : FrameNo) ≠ due.clock.frame :=
  ⟨by decide, arena_carriageListsOk, by decide, by decide⟩

theorem witness_QueriesReportTheRecords :
    (∀ e ∈ [(Command.readStation, [0, 0, 0]), (.readStation, [0xA1, 0, 1]), (.readCell, [1023]), (.readTicket, [5, 0, 0]),
        (.readTicket, [0x51, 0, 1]), (.readZone, [15]), (.readStream, [0]), (.readStream, [1]), (.readStream, [2]),
        (.readCarriage, [0, 1]), (.readCarriage, [1, 1])], ready arena 3 e.1 e.2) ∧
      (∀ e ∈ [(Command.readStation, [65536, 0, 0]), (.readStation, [3, 0, 0]), (.readStation, [0xA1, 0x10000, 1]),
        (.readStation, [0xB1, 0xFFFF, 1]), (.readCell, [1024]), (.readTicket, [6, 0, 0]), (.readTicket, [0x99, 0, 1]),
        (.readZone, [16]), (.readStream, [16]), (.readCarriage, [1024, 0]), (.readCarriage, [0, 16])],
        ready arena 3 e.1 e.2) ∧
      arena.station? 3 = none ∧ tableFind arena.addressMap (0xB1 + 2 ^ 32 * 0xFFFF) = none ∧ arena.loaded = 6 ∧
      tableFind arena.ticketMap 0x99 = none ∧
      (arena.station? 0).isSome = true ∧ tableFind arena.addressMap 0xA1 = some 0 ∧ arena.inVenue 1023 = true ∧
      (arena.ticket? 5).isSome = true ∧ 5 < arena.loaded ∧ tableFind arena.ticketMap 0x51 = some 0 ∧
      (arena.carriage? 0 1).isSome = true ∧ arena.carriage? 1 1 = none := by decide +kernel

/-! ### Carriages, airtime and plans -/

/-- The arena with `n` subscribers, mode `m` and min level `l` on its carriage, and stream 1 at `rate`. -/
def crowd (n : Nat) (m : Mode) (rate : Nat) (l : Level) : State :=
  { arena with
    streams := [(1, ⟨.live ⟨rate, 0, .basic, true, 3, 10⟩, n, 1, n⟩)]
    carriages := [(1, ⟨n, (List.range 8).map fun i => if i = l.val then n else 0, l, m, 0, false, 0⟩)] }

/-- M is 3 and Q 72. Costs of 7, 67 and 134 slots fit the cap of 54, the cap of 72 alone, and neither. -/
theorem witness_ModeFollowsCountAndAdmission :
    (∀ n ∈ [1, 2, 3], ∀ m ∈ [Mode.unicast, .multicast, .held],
      ((crowd n m 80 3).carriage? 0 1).map (fun k => (k.count, k.mode)) = some (n, m)) ∧
      arena.venue.threshold = 3 ∧ 76 - (arena.sector (sectorOf 0)).reservation = 72 ∧ 72 - 72 / 4 = 54 ∧
      ((crowd 3 .unicast 80 3).demand 1 + payload 3 - 1) / payload 3 = 7 ∧
      ((crowd 3 .unicast 800 3).demand 1 + payload 3 - 1) / payload 3 = 67 ∧
      ((crowd 3 .unicast 800 1).demand 1 + payload 1 - 1) / payload 1 = 134 ∧
      (arena.sector (sectorOf 0)).priority = .normal ∧ arena.surge = none ∧
      Nat.land (sectorOf 0).val (24 : SectorId).val = Nat.land (0 : SectorId).val (24 : SectorId).val := by decide +kernel

theorem witness_BuildTermsCapAndGrants :
    (({ arena with sectors := [(0, { reservation := 16, priority := .priority })] } : State).sector 0).reservation ≤ 16 ∧
      ({ arena with sectors := [(0, { reservation := 16, priority := .priority })] } : State).prioritised 0 = true ∧
      arena.prioritised 0 = false ∧ 0 < want 160 480 0 ∧ want 160 480 160 = 0 ∧ (479 : Int) < (480 : Nat) ∧
      grantOf 53 40 = 32 ∧ grantOf 12 3 = 3 ∧
      planTotal ⟨8, 4, [⟨2, 3, 7⟩, ⟨9, 3, 32⟩], 29⟩ = 80 ∧ planTotal ⟨4, 16, [⟨2, 3, 32⟩, ⟨9, 3, 28⟩], 0⟩ = 80 ∧
      capOf (pool 4 16) false < 32 + 28 := by decide +kernel

/-- Under the floor; at it and above when not starved; just below 0 and at 0 when starved. -/
theorem witness_ChargeStarvesAndRecovers :
    (arena.demand 1 : Int) = 1280 ∧ payload 3 = 192 ∧ (-4928 + (3 : Int) * 192 - 1280 < -4 * 1280) ∧
      (-3840 + (0 : Int) * 192 - 1280 = -4 * 1280) ∧
      (-4 * 1280 ≤ -257 + (8 : Int) * 192 - 1280 ∧ -257 + (8 : Int) * 192 - 1280 < 0) ∧
      (0 ≤ -256 + (8 : Int) * 192 - 1280) := by decide +kernel

/-- No act is put before the Plan Engine; sector 6 completes, 7 and 0 are held, sector 1 is not of the pass. -/
theorem witness_BoundaryAdvancesTheFrame :
    passing.passOk ∧ passing.settled ∧ passing.carriageListsOk ∧ (passing.pass.map (·.rest)) = some [7, 0] ∧
      passing.inVenue 0 = true ∧ sectorOf 0 = 0 ∧ (passing.carriage? 0 1).isSome = true :=
  ⟨passing_passOk, by decide, arena_carriageListsOk, by decide, by decide, by decide, by decide⟩

theorem witness_SectorBuildPlansEveryCell :
    passing.pass = some ⟨100, 6, [7, 0]⟩ ∧ passing.settled ∧ passing.passOk ∧ passing.carriageListsOk ∧ passing.plansOk :=
  ⟨rfl, by decide, passing_passOk, arena_carriageListsOk, passing_plansOk⟩

/-- Port 1 owns sectors 16–31: the policy of those, operands out of range, and a mask that takes in sector 0. -/
theorem witness_SectorPolicyIsSetWhole :
    ready arena 1 .setSectorPolicy [16, 16, 17, 1] ∧ ready arena 1 .setSectorPolicy [32, 0, 0, 0] ∧
      ready arena 1 .setSectorPolicy [0, 32, 0, 0] ∧ ready arena 1 .setSectorPolicy [0, 0, 0, 2] ∧
      ready arena 1 .setSectorPolicy [31, 0, 16, 1] ∧ ownsSector (arena.port 1) 0 = false ∧
      ∀ sec : SectorId, Nat.land sec.val 16 = Nat.land 16 16 → ownsSector (arena.port 1) sec = true := by decide +kernel

/-! ### Whole-machine rules and invariants -/

theorem witness_VenueAndRolesAreFixedInService :
    arena.device = .service ∧ Instr.surgeEnd ≠ .reset ∧ ∃ t, exec .surgeEnd arena = .next t :=
  ⟨rfl, by decide, _, rfl⟩

/-- The match of frame 100 with a row waiting. -/
def waiting (i : Instr) : State := { due with pending := [i] }

theorem witness_StepKeepsPortsOk :
    (waiting (.momentPulse 0)).portsOk ∧ ∃ t, step (waiting (.momentPulse 0)) = .next t :=
  ⟨by decide, _, rfl⟩

theorem witness_StepKeepsStationsOk :
    (waiting .claimDeadline).stationsOk ∧ ∃ t, step (waiting .claimDeadline) = .next t :=
  ⟨arena_stationsOk, _, rfl⟩

theorem witness_StepKeepsTicketsOk :
    (waiting .lingerExpiry).ticketsOk ∧ ∃ t, step (waiting .lingerExpiry) = .next t :=
  ⟨arena_ticketsOk, _, rfl⟩

theorem witness_StepKeepsSubscriptionsOk :
    (waiting .drainCompletion).subscriptionsOk ∧ ∃ t, step (waiting .drainCompletion) = .next t :=
  ⟨arena_subscriptionsOk, _, rfl⟩

theorem witness_StepKeepsCarriagesOk :
    (waiting .claimDeadline).carriagesOk ∧ ∃ t, step (waiting .claimDeadline) = .next t :=
  ⟨arena_carriagesOk, _, rfl⟩

theorem witness_StepKeepsPlansOk :
    passing.plansOk ∧ ∃ t, step passing = .next t :=
  ⟨passing_plansOk, _, rfl⟩

theorem witness_StepKeepsPassOk :
    passing.passOk ∧ ∃ t, step passing = .next t :=
  ⟨passing_passOk, _, rfl⟩

theorem witness_StepKeepsDeadlinesOk :
    (waiting (.frameStrobe 1005120000 [])).deadlinesOk ∧ ∃ t, step (waiting (.frameStrobe 1005120000 [])) = .next t :=
  ⟨due_deadlinesOk, _, rfl⟩

end Sys2Proof.Tests
end

section
/-! ## What the acts and the commands on records leave as it was -/

namespace Sys2Proof.Machine

open Sys2Proof

/-! ### Ports under a notice -/

/-- A notice changes of a port its queue, its tail and its attention requests, and it clears no request (R162, R163). -/
structure NoticeFrame (u v : PortUnit) : Prop extends PortFrame u v where
  request : ∀ i, u.request.getLsbD i = true → v.request.getLsbD i = true

theorem NoticeFrame.refl (u : PortUnit) : NoticeFrame u u := ⟨.refl u, fun _ h => h⟩

theorem NoticeFrame.trans {u v w : PortUnit} (h : NoticeFrame u v) (h' : NoticeFrame v w) : NoticeFrame u w :=
  ⟨h.toPortFrame.trans h'.toPortFrame, fun i hi => h'.request i (h.request i hi)⟩

/-- A delivery clears no attention request. -/
theorem deliver_noticeFrame (kind : Nat) (record : List Word) (now : FrameNo) (u : PortUnit) :
    NoticeFrame u (deliver kind record now u) := by
  refine ⟨deliver_frame kind record now u, fun i hi => ?_⟩
  rcases deliver_cases kind record now u with ⟨_, h⟩ | ⟨_, _, h⟩ | ⟨_, _, h⟩ | ⟨_, _, h⟩ <;>
    simp [h, enqueue, addDropped, raise, hi]

/-! ### The frame -/

/-- `t` is `s` but for the records of stations, tickets, zones, streams and carriages, an open surge, and notices; and every
station of `t` stands in the state it has in `s`, or in one that is `fresh`. -/
structure RecordFrame (fresh : StationState → Prop) (s t : State) : Prop where
  device : t.device = s.device
  venue : t.venue = s.venue
  clock : t.clock = s.clock
  latch : t.latch = s.latch
  sectors : t.sectors = s.sectors
  plans : t.plans = s.plans
  pass : t.pass = s.pass
  startSector : t.startSector = s.startSector
  arbiter : t.arbiter = s.arbiter
  answer : t.answer = s.answer
  pending : t.pending = s.pending
  ports : ∀ p, NoticeFrame (s.port p) (t.port p)
  wf : tableWf s.stations = true → tableWf t.stations = true
  states : ∀ h b, t.station? h = some b → (∃ a, s.station? h = some a ∧ b.state = a.state) ∨ fresh b.state

variable {fresh : StationState → Prop}

theorem RecordFrame.refl (s : State) : RecordFrame fresh s s where
  device := rfl
  venue := rfl
  clock := rfl
  latch := rfl
  sectors := rfl
  plans := rfl
  pass := rfl
  startSector := rfl
  arbiter := rfl
  answer := rfl
  pending := rfl
  ports _ := .refl _
  wf h := h
  states _ b hb := .inl ⟨b, hb, rfl⟩

theorem RecordFrame.trans {s t u : State} (f : RecordFrame fresh s t) (f' : RecordFrame fresh t u) :
    RecordFrame fresh s u where
  device := f'.device.trans f.device
  venue := f'.venue.trans f.venue
  clock := f'.clock.trans f.clock
  latch := f'.latch.trans f.latch
  sectors := f'.sectors.trans f.sectors
  plans := f'.plans.trans f.plans
  pass := f'.pass.trans f.pass
  startSector := f'.startSector.trans f.startSector
  arbiter := f'.arbiter.trans f.arbiter
  answer := f'.answer.trans f.answer
  pending := f'.pending.trans f.pending
  ports p := (f.ports p).trans (f'.ports p)
  wf h := f'.wf (f.wf h)
  states h c hc := by
    rcases f'.states h c hc with ⟨b, hb, hcb⟩ | hfresh
    · rcases f.states h b hb with ⟨a, ha, hba⟩ | hfresh
      · exact .inl ⟨a, ha, hcb.trans hba⟩
      · exact .inr (hcb ▸ hfresh)
    · exact .inr hfresh

/-- A frame that calls fewer states fresh is a frame that calls more of them fresh. -/
theorem RecordFrame.mono {fresh' : StationState → Prop} {s t : State} (f : RecordFrame fresh s t)
    (h : ∀ st, fresh st → fresh' st) : RecordFrame fresh' s t :=
  { f with states := fun g b hb => (f.states g b hb).imp_right (h _) }

/-- Changes that each keep the frame keep it one after another. -/
theorem RecordFrame.foldl {α : Type} {act : State → α → State} (h : ∀ s a, RecordFrame fresh s (act s a)) (l : List α)
    (s : State) : RecordFrame fresh s (l.foldl act s) := by
  induction l generalizing s with
  | nil => exact .refl s
  | cons a l ih => exact (h s a).trans (ih _)

/-! ### Updates of single records -/

theorem RecordFrame.notify (s : State) (dest : PortUnit → Bool) (n : Notice) (tag : Tag) :
    RecordFrame fresh s (s.notify dest n tag) :=
  { RecordFrame.refl s with
    ports := fun p => by
      rw [port_notify]
      split
      · exact deliver_noticeFrame _ _ _ _
      · exact .refl _ }

theorem RecordFrame.setStation (s : State) (h : Handle) (st : Station)
    (hst : (∃ a, s.station? h = some a ∧ st.state = a.state) ∨ fresh st.state) :
    RecordFrame fresh s (s.setStation h st) :=
  { RecordFrame.refl (fresh := fresh) s with
    wf := fun hw => tableWf_store hw h st
    states := fun g b hb => by
      by_cases e : g = h
      · subst e
        rw [station?_setStation_self] at hb
        cases hb
        exact hst
      · rw [station?_setStation_of_ne s st e] at hb
        exact .inl ⟨b, hb, rfl⟩ }

theorem RecordFrame.freeStation (s : State) (h : Handle) (a : BitVec 48) : RecordFrame fresh s (s.freeStation h a) :=
  { RecordFrame.refl (fresh := fresh) s with
    wf := fun hw => tableWf_erase hw h
    states := fun g b hb => by
      by_cases e : g = h
      · subst e
        simp [State.station?] at hb
      · exact .inl ⟨b, by simpa [State.station?, e] using hb, rfl⟩ }

theorem RecordFrame.setCarriage (s : State) (c : CellId) (x : StreamId) (k : Carriage) :
    RecordFrame fresh s (s.setCarriage c x k) := { RecordFrame.refl s with }

theorem RecordFrame.setRoster (s : State) (c : CellId) (e : RosterEntry) : RecordFrame fresh s (s.setRoster c e) :=
  { RecordFrame.refl s with }

theorem RecordFrame.setStream (s : State) (x : StreamId) (v : Stream) : RecordFrame fresh s (s.setStream x v) :=
  { RecordFrame.refl s with }

theorem RecordFrame.setZone (s : State) (z : ZoneId) (v : Zone) : RecordFrame fresh s (s.setZone z v) :=
  { RecordFrame.refl s with }

theorem RecordFrame.setTicket (s : State) (t : TicketHandle) (k : Ticket) : RecordFrame fresh s (s.setTicket t k) :=
  { RecordFrame.refl s with }

theorem RecordFrame.loadTicket (s : State) (t : Ticket) : RecordFrame fresh s (s.loadTicket t) :=
  { RecordFrame.refl s with }

theorem RecordFrame.dropCarriage (s : State) (c : CellId) (x : StreamId) : RecordFrame fresh s (s.dropCarriage c x) :=
  { RecordFrame.refl s with }

theorem RecordFrame.createCarriage (s : State) (c : CellId) (x : StreamId) (l : Level) :
    RecordFrame fresh s (s.createCarriage c x l) := { RecordFrame.refl s with }

theorem RecordFrame.setTotals (s : State) (x : StreamId) (a b : Nat) : RecordFrame fresh s (s.setTotals x a b) :=
  .setStream s x _

theorem RecordFrame.addHeld (s : State) (x : StreamId) : RecordFrame fresh s (s.addHeld x) := .setStream s x _

theorem RecordFrame.subHeld (s : State) (x : StreamId) : RecordFrame fresh s (s.subHeld x) := .setStream s x _

/-! ### Joins, leaves and evaluations -/

theorem RecordFrame.evalMode (s : State) (c : CellId) (x : StreamId) (tag : Tag) :
    RecordFrame fresh s (s.evalMode c x tag) := by
  unfold State.evalMode
  split
  · exact .refl s
  · split
    · dsimp only
      split
      · exact (RecordFrame.setCarriage s c x _).trans (.notify _ _ _ _)
      · split
        · exact ((RecordFrame.setCarriage s c x _).trans (.notify _ _ _ _)).trans (.notify _ _ _ _)
        · exact .setCarriage s c x _
    · split
      · exact (RecordFrame.setCarriage s c x _).trans (.notify _ _ _ _)
      · exact .refl s

theorem RecordFrame.joinExisting (s : State) (c : CellId) (x : StreamId) (l : Level) (tag : Tag) :
    RecordFrame fresh s (s.joinExisting c x l tag) := by
  unfold State.joinExisting
  split
  · exact .refl s
  · exact ((RecordFrame.setCarriage s c x _).trans (.setTotals _ x _ _)).trans (.evalMode _ c x tag)

theorem RecordFrame.join (s : State) (c : CellId) (x : StreamId) (l : Level) (tag : Tag) :
    RecordFrame fresh s (s.join c x l tag) := by
  unfold State.join
  split
  · exact (RecordFrame.createCarriage s c x l).trans (.joinExisting _ c x l tag)
  · exact .joinExisting s c x l tag

theorem RecordFrame.leave (s : State) (c : CellId) (x : StreamId) (l : Level) (tag : Tag) :
    RecordFrame fresh s (s.leave c x l tag) := by
  unfold State.leave
  split
  · exact .refl s
  · dsimp only
    split
    · split
      · exact ((RecordFrame.setTotals s x _ _).trans (.dropCarriage _ c x)).trans (.setTotals _ x _ _)
      · exact (((RecordFrame.setTotals s x _ _).trans (.dropCarriage _ c x)).trans (.setTotals _ x _ _)).trans
          (.notify _ _ _ _)
    · exact ((RecordFrame.setTotals s x _ _).trans (.setCarriage _ c x _)).trans (.evalMode _ c x tag)

theorem RecordFrame.moveLevel (s : State) (c : CellId) (x : StreamId) (old new : Level) (tag : Tag) :
    RecordFrame fresh s (s.moveLevel c x old new tag) := by
  unfold State.moveLevel
  split
  · exact .refl s
  · exact (RecordFrame.setCarriage s c x _).trans (.evalMode _ c x tag)

theorem RecordFrame.setSubState (s : State) (h : Handle) (x : StreamId) (v : SubState) :
    RecordFrame fresh s (s.setSubState h x v) := by
  unfold State.setSubState
  split
  · exact .refl s
  · next st hst => exact .setStation s h _ (.inl ⟨st, hst, rfl⟩)

theorem RecordFrame.evalEntry (h : Handle) (tag : Tag) (joined : Bool) (new : Option StreamId) (s : State)
    (x : StreamId) : RecordFrame fresh s (s.evalEntry h tag joined new x) := by
  unfold State.evalEntry
  split
  · exact .refl s
  · next st hst =>
    have join := fun v => (RecordFrame.join (fresh := fresh) s st.serving x st.level tag).trans (.setSubState _ h x v)
    split
    · exact .refl s
    · split
      · split
        · exact .refl s
        · exact join _
      · dsimp only
        split
        · exact join _
        · exact (join _).trans (.notify _ _ _ _)
      · dsimp only
        refine RecordFrame.trans (RecordFrame.trans ?_ (.setSubState _ h x _)) (.notify _ _ _ _)
        split
        · exact .leave s _ x _ tag
        · exact .refl s
      · split
        · exact .refl s
        · dsimp only
          split
          · exact .setSubState s h x _
          · exact (RecordFrame.setSubState s h x _).trans (.notify _ _ _ _)

/-- An evaluation changes no station's state (R100). -/
theorem RecordFrame.evaluateWith (s : State) (h : Handle) (tag : Tag) (joined : Bool) (new : Option StreamId) :
    RecordFrame fresh s (s.evaluateWith h tag joined new) := by
  unfold State.evaluateWith
  split
  · exact .refl s
  · exact .foldl (RecordFrame.evalEntry h tag joined new) _ s

theorem RecordFrame.evaluate (s : State) (h : Handle) (tag : Tag) : RecordFrame fresh s (s.evaluate h tag) :=
  .evaluateWith s h tag true none

theorem RecordFrame.removeSub (s : State) (h : Handle) (x : StreamId) : RecordFrame fresh s (s.removeSub h x) := by
  unfold State.removeSub
  split
  · exact .refl s
  · next st hst =>
    refine RecordFrame.trans (.setStation s h _ ?_) (.subHeld _ x)
    exact .inl ⟨st, hst, rfl⟩

theorem RecordFrame.leaveAndRemove (s : State) (h : Handle) (x : StreamId) (tag : Tag) :
    RecordFrame fresh s (s.leaveAndRemove h x tag) := by
  unfold State.leaveAndRemove
  split
  · exact .refl s
  · split
    · exact .refl s
    · dsimp only
      refine RecordFrame.trans ?_ (.removeSub _ h x)
      split
      · exact .leave s _ x _ tag
      · exact .refl s

/-- A binding cleared changes no station's state (R92). -/
theorem RecordFrame.clearBinding (s : State) (h : Handle) (t : TicketHandle) (cause : UnbindCause) (tag : Tag) :
    RecordFrame fresh s (s.clearBinding h t cause tag) := by
  have station : ∀ st, s.station? h = some st → RecordFrame fresh s (s.setStation h { st with ticket := none }) :=
    fun st hst => .setStation s h _ (.inl ⟨st, hst, rfl⟩)
  unfold State.clearBinding
  refine RecordFrame.trans ?_ (.notify _ _ _ _)
  cases hs : s.station? h with
  | none =>
    cases ht : s.ticket? t with
    | none => simpa only [ht] using RecordFrame.refl s
    | some k => simpa only [ht] using RecordFrame.setTicket s t _
  | some st =>
    have ht' : (s.setStation h { st with ticket := none }).ticket? t = s.ticket? t := rfl
    cases ht : s.ticket? t with
    | none => simpa only [ht', ht] using station st hs
    | some k => simpa only [ht', ht] using (station st hs).trans (.setTicket _ t _)

/-! ### The acts of a boundary -/

/-- A completed handover makes its station ASSOCIATED at the claimant cell; all that follows changes no station's state
(R42, R43). -/
theorem RecordFrame.completeHandover_rest {s : State} {h : Handle} {st : Station} {claimant : CellId}
    {deadline : FrameNo} {tag : Tag} (hst : s.station? h = some st) (hs : st.state = .inHandover claimant deadline tag)
    (by_ : Completion) :
    RecordFrame fresh
      (s.setStation h { st with serving := claimant, state := .associated, sequence := st.sequence + 1 })
      (s.completeHandover h by_) := by
  have leaveOld : ∀ (old : CellId) (l : Level) (tag : Tag) (subs : List Subscription) (s : State),
      RecordFrame fresh s (s.leaveOld old l tag subs) := fun old l tag subs s =>
    .foldl (fun s e => by
      split
      · exact .leave s old e.stream l tag
      · exact .refl s) subs s
  simp only [State.completeHandover, hst, hs]
  exact ((((RecordFrame.setRoster _ st.serving _).trans (.setRoster _ claimant _)).trans (.setRoster _ claimant _)).trans
    (leaveOld _ _ _ _ _)).trans ((RecordFrame.evaluateWith _ h tag false none).trans (.notify _ _ _ _))

/-- An abandoned claim makes its station ASSOCIATED, and changes no other station (R45, R47). -/
theorem RecordFrame.abandonClaim_rest {s : State} {h : Handle} {st : Station} {claimant : CellId}
    {deadline : FrameNo} {tag : Tag} (hst : s.station? h = some st) (hs : st.state = .inHandover claimant deadline tag)
    (lapsed : Bool) :
    RecordFrame fresh (s.setStation h { st with state := .associated }) (s.abandonClaim h lapsed) := by
  simp only [State.abandonClaim, hst, hs]
  exact (RecordFrame.setRoster _ claimant _).trans (.notify _ _ _ _)

section
variable (hassociated : fresh .associated)
include hassociated

theorem RecordFrame.completeHandover (s : State) (h : Handle) (by_ : Completion) :
    RecordFrame fresh s (s.completeHandover h by_) := by
  cases hst : s.station? h with
  | none => simpa only [State.completeHandover, hst] using RecordFrame.refl s
  | some st =>
    cases hs : st.state with
    | associated => simpa only [State.completeHandover, hst, hs] using RecordFrame.refl s
    | lingering d tag => simpa only [State.completeHandover, hst, hs] using RecordFrame.refl s
    | inHandover c d tag =>
      exact (RecordFrame.setStation s h _ (.inr hassociated)).trans (.completeHandover_rest hst hs by_)

theorem RecordFrame.abandonClaim (s : State) (h : Handle) (lapsed : Bool) :
    RecordFrame fresh s (s.abandonClaim h lapsed) := by
  cases hst : s.station? h with
  | none => simpa only [State.abandonClaim, hst] using RecordFrame.refl s
  | some st =>
    cases hs : st.state with
    | associated => simpa only [State.abandonClaim, hst, hs] using RecordFrame.refl s
    | lingering d tag => simpa only [State.abandonClaim, hst, hs] using RecordFrame.refl s
    | inHandover c d tag =>
      exact (RecordFrame.setStation s h _ (.inr hassociated)).trans (.abandonClaim_rest hst hs lapsed)

theorem RecordFrame.expireClaim (s : State) (h : Handle) : RecordFrame fresh s (s.expireClaim h) := by
  rcases expireClaim_cases s h with he | ⟨st, claimant, deadline, tag, _, _, he⟩
  · rw [he]
    exact .refl s
  · rw [he]
    split
    · exact .abandonClaim hassociated s h true
    · exact .completeHandover hassociated s h .deadline

theorem RecordFrame.actClaimDeadline (s : State) : RecordFrame fresh s s.actClaimDeadline :=
  .foldl (.expireClaim hassociated) _ s

end

theorem RecordFrame.expireLinger (s : State) (h : Handle) : RecordFrame fresh s (s.expireLinger h) := by
  unfold State.expireLinger
  split
  · exact .refl s
  · next st hst =>
    split
    · exact .refl s
    · exact .refl s
    · next deadline tag _ =>
      dsimp only
      have subs : RecordFrame fresh s (s.removeAllSubs h tag st.subs) :=
        .foldl (fun s (e : Subscription) => (RecordFrame.removeSub s h e.stream).trans (.notify _ _ _ _)) _ s
      refine RecordFrame.trans (RecordFrame.trans (subs.trans ?_) (.freeStation _ h st.address)) (.notify _ _ _ _)
      split
      · exact .refl _
      · exact .clearBinding _ h _ .expiry tag

theorem RecordFrame.actLingerExpiry (s : State) : RecordFrame fresh s s.actLingerExpiry :=
  .foldl .expireLinger _ s

theorem RecordFrame.drainStream (s : State) (x : StreamId) (tag : Tag) : RecordFrame fresh s (s.drainStream x tag) := by
  unfold State.drainStream
  exact (((RecordFrame.foldl (fun s h => .removeSub s h x) _ s).trans (.foldl (fun s c => .dropCarriage s c x) _ _)).trans
    (.setStream _ x _)).trans (.notify _ _ _ _)

theorem RecordFrame.completeDrain (s : State) (x : StreamId) : RecordFrame fresh s (s.completeDrain x) := by
  rcases completeDrain_cases s x with he | ⟨info, tag, f, _, he⟩
  · rw [he]
    exact .refl s
  · rw [he]
    exact .drainStream s x tag

theorem RecordFrame.actDrainCompletion (s : State) : RecordFrame fresh s s.actDrainCompletion :=
  .foldl .completeDrain _ s

theorem RecordFrame.actSurgeEnd (s : State) : RecordFrame fresh s s.actSurgeEnd := by
  unfold State.actSurgeEnd
  split
  · exact .refl s
  · split
    · exact { RecordFrame.refl s with }
    · exact .refl s

/-- An act of a boundary brings no station but into ASSOCIATED (R14, R30, R46, R83). -/
theorem RecordFrame.act (hassociated : fresh .associated) (s : State) (a : BoundaryAct) : RecordFrame fresh s (s.act a) := by
  cases a with
  | claimDeadline => exact .actClaimDeadline hassociated s
  | lingerExpiry => exact .actLingerExpiry s
  | drainCompletion => exact .actDrainCompletion s
  | surgeEnd => exact .actSurgeEnd s

theorem RecordFrame.settle (hassociated : fresh .associated) (s : State) : RecordFrame fresh s s.settle :=
  (((RecordFrame.actClaimDeadline hassociated s).trans (.actLingerExpiry _)).trans (.actDrainCompletion _)).trans
    (.actSurgeEnd _)

end Sys2Proof.Machine
end

section
namespace Sys2Proof.Machine

open Sys2Proof

/-! ### The commands on records -/

/-- A deadline as an accepted CLAIM or DETACH of this frame sets it (R28, R39). -/
def State.newDeadline (s : State) : StationState → Prop
  | .associated => True
  | .inHandover _ deadline _ => deadline = s.clock.frame + BitVec.ofNat 32 s.venue.handoverWindow
  | .lingering deadline _ => deadline = s.clock.frame + BitVec.ofNat 32 s.venue.lingerTime

theorem station?_of_asStation {s : State} {w : Word} {st : Station} (h : s.asStation w = some st) :
    s.station? w.toNat = some st := by
  unfold State.asStation at h
  split at h
  · exact h
  · cases h

variable {fresh : StationState → Prop}

theorem RecordFrame.createStation (hassociated : fresh .associated) (s : State) (h : Handle) (rest : HandleStack)
    (a : BitVec 48) (c : CellId) (l : Level) : RecordFrame fresh s (s.createStation h rest a c l) := by
  have maps : RecordFrame fresh s { s with handles := rest, addressMap := tableStore s.addressMap a.toNat h } :=
    { RecordFrame.refl s with }
  exact (maps.trans (.setStation _ h _ (.inr hassociated))).trans (.setRoster _ c _)

theorem associateReply_frame (p : PortId) (cmd : Cmd) (s : State) :
    RecordFrame s.newDeadline s (associateReply p cmd s).state := by
  have at_ : ∀ a c, RecordFrame s.newDeadline s (associateAt cmd a c s).state := by
    intro a c
    unfold associateAt
    dsimp only
    split
    · next h st _ =>
      split
      · exact .refl s
      · split
        · exact .refl s
        · have revived : s.newDeadline .associated := trivial
          exact ((RecordFrame.setStation s h _ (.inr revived)).trans (.setRoster _ c _)).trans (.evaluate _ h cmd.tag)
    · split
      · exact .refl s
      · split
        · exact .refl s
        · exact .createStation trivial s _ _ a c _
  unfold associateReply
  split
  · exact .refl s
  · split
    · exact .refl s
    · split
      · exact .refl s
      · exact at_ _ _

theorem detachReply_frame (p : PortId) (cmd : Cmd) (s : State) :
    RecordFrame s.newDeadline s (detachReply p cmd s).state := by
  unfold detachReply
  split
  · exact .refl s
  · split
    · exact .refl s
    · split
      · exact .refl s
      · split
        · exact .refl s
        · split
          · exact .refl s
          · refine RecordFrame.trans (RecordFrame.trans (.setStation s _ _ ?_) (.setRoster _ _ _)) (.evaluate _ _ cmd.tag)
            exact .inr rfl
          · exact .completeHandover trivial s _ .detach

theorem reportLevelReply_frame (p : PortId) (cmd : Cmd) (s : State) :
    RecordFrame s.newDeadline s (reportLevelReply p cmd s).state := by
  unfold reportLevelReply
  split
  · exact .refl s
  · next st hst =>
    split
    · exact .refl s
    · dsimp only
      split
      · exact .refl s
      · have level : RecordFrame s.newDeadline s (s.setStation (cmd.op 2).toNat { st with level := asLevel (cmd.op 3) }) :=
          .setStation s _ _ (.inl ⟨st, station?_of_asStation hst, rfl⟩)
        unfold State.replaceLevel
        dsimp only
        split
        · exact level
        · refine level.trans (.foldl (fun s (e : Subscription) => ?_) st.subs _)
          split
          · exact .moveLevel s st.serving e.stream _ _ cmd.tag
          · exact .refl s

theorem claimReply_frame (p : PortId) (cmd : Cmd) (s : State) :
    RecordFrame s.newDeadline s (claimReply p cmd s).state := by
  have station : ∀ c h st, RecordFrame s.newDeadline s (claimStation cmd c h st s).state := by
    intro c h st
    unfold claimStation
    split
    · exact .refl s
    · split
      · exact .refl s
      · split
        · exact .refl s
        · split
          · exact .refl s
          · exact .refl s
        · split
          · refine RecordFrame.trans (RecordFrame.trans (.setStation s h _ ?_) (.setRoster _ c _)) (.notify _ _ _ _)
            exact .inr rfl
          · exact .refl s
  unfold claimReply
  split
  · exact .refl s
  · split
    · exact .refl s
    · split
      · exact .refl s
      · exact station _ _ _

theorem releaseReply_frame (p : PortId) (cmd : Cmd) (s : State) :
    RecordFrame s.newDeadline s (releaseReply p cmd s).state := by
  unfold releaseReply
  split
  · exact .refl s
  · split
    · exact .refl s
    · split
      · exact .refl s
      · split
        · exact .refl s
        · split
          · exact .refl s
          · exact .refl s
          · exact .completeHandover trivial s _ .release

theorem withdrawReply_frame (p : PortId) (cmd : Cmd) (s : State) :
    RecordFrame s.newDeadline s (withdrawReply p cmd s).state := by
  unfold withdrawReply
  split
  · exact .refl s
  · split
    · exact .refl s
    · split
      · exact .refl s
      · exact .refl s
      · split
        · exact .refl s
        · exact .abandonClaim trivial s _ false

theorem loadTicketsReply_frame (cmd : Cmd) (s : State) : RecordFrame fresh s (loadTicketsReply cmd s).state := by
  unfold loadTicketsReply
  split
  · exact .refl s
  · split
    · exact .refl s
    · split
      · exact .refl s
      · exact .foldl .loadTicket _ s

theorem RecordFrame.evaluateBound (s : State) (k : Ticket) (tag : Tag) : RecordFrame fresh s (s.evaluateBound k tag) := by
  unfold State.evaluateBound
  split
  · exact .refl s
  · exact .evaluate s _ tag

theorem admitTicketReply_frame (cmd : Cmd) (s : State) : RecordFrame fresh s (admitTicketReply cmd s).state := by
  have at_ : ∀ g t k, RecordFrame fresh s (admitTicketAt cmd g t k s).state := by
    intro g t k
    unfold admitTicketAt
    dsimp only
    split
    · exact .refl s
    · split
      · exact .refl s
      · split
        · exact .refl s
        · split
          · exact .refl s
          · split
            · exact .refl s
            · split
              · exact .refl s
              · exact ((RecordFrame.setTicket s t _).trans (.setZone _ _ _)).trans (.evaluateBound _ k cmd.tag)
  unfold admitTicketReply
  split
  · exact .refl s
  · exact .refl s
  · exact .refl s
  · exact at_ _ _ _

theorem exitTicketReply_frame (cmd : Cmd) (s : State) : RecordFrame fresh s (exitTicketReply cmd s).state := by
  unfold exitTicketReply
  split
  · exact .refl s
  · split
    · exact .refl s
    · split
      · exact .refl s
      · split
        · exact .refl s
        · exact ((RecordFrame.setTicket s _ _).trans (.setZone _ _ _)).trans (.evaluateBound _ _ cmd.tag)

theorem voidTicketReply_frame (cmd : Cmd) (s : State) : RecordFrame fresh s (voidTicketReply cmd s).state := by
  have mark : ∀ t k, RecordFrame fresh s (s.markVoid t k) := by
    intro t k
    unfold State.markVoid
    dsimp only
    split
    · exact (RecordFrame.setTicket s t _).trans (.setZone _ _ _)
    · exact .setTicket s t _
  unfold voidTicketReply
  split
  · exact .refl s
  · next t k _ =>
    split
    · exact .refl s
    · dsimp only
      unfold State.voidRecord
      dsimp only
      split
      · exact mark t k
      · next h _ =>
        refine (((mark t k).trans (.clearBinding _ h t .voiding cmd.tag)).trans ?_).trans (.evaluate _ h cmd.tag)
        exact .foldl (fun s (e : Subscription) => (RecordFrame.leaveAndRemove s h e.stream cmd.tag).trans (.notify _ _ _ _))
          _ _

theorem setZoneReply_frame (cmd : Cmd) (s : State) : RecordFrame fresh s (setZoneReply cmd s).state := by
  unfold setZoneReply
  split
  · split
    · exact .refl s
    · exact .setZone s _ _
  · exact .refl s
  · exact .refl s

theorem RecordFrame.makeBinding (s : State) (h : Handle) (t : TicketHandle) (tag : Tag) :
    RecordFrame fresh s (s.makeBinding h t tag) := by
  have station : ∀ st, s.station? h = some st → RecordFrame fresh s (s.setStation h { st with ticket := some t }) :=
    fun st hst => .setStation s h _ (.inl ⟨st, hst, rfl⟩)
  unfold State.makeBinding
  refine RecordFrame.trans ?_ (.evaluate _ h tag)
  cases hs : s.station? h with
  | none =>
    cases ht : s.ticket? t with
    | none => simpa only [ht] using RecordFrame.refl s
    | some k => simpa only [ht] using RecordFrame.setTicket s t _
  | some st =>
    have ht' : (s.setStation h { st with ticket := some t }).ticket? t = s.ticket? t := rfl
    cases ht : s.ticket? t with
    | none => simpa only [ht', ht] using station st hs
    | some k => simpa only [ht', ht] using (station st hs).trans (.setTicket _ t _)

theorem bindTicketReply_frame (cmd : Cmd) (s : State) : RecordFrame fresh s (bindTicketReply cmd s).state := by
  have bound : ∀ h st t k, RecordFrame fresh s (bindTicketTo cmd h st t k s).state := by
    intro h st t k
    unfold bindTicketTo
    split
    · exact .refl s
    · split
      · exact .evaluate s h cmd.tag
      · split
        · exact .refl s
        · split
          · exact .makeBinding s h t cmd.tag
          · next earlier _ =>
            split
            · exact ((RecordFrame.clearBinding s earlier t .move cmd.tag).trans (.evaluate _ earlier cmd.tag)).trans
                (.makeBinding _ h t cmd.tag)
            · exact .refl s
  unfold bindTicketReply
  split
  · exact .refl s
  · split
    · exact .refl s
    · exact bound _ _ _ _

theorem unbindTicketReply_frame (cmd : Cmd) (s : State) : RecordFrame fresh s (unbindTicketReply cmd s).state := by
  unfold unbindTicketReply
  split
  · exact .refl s
  · split
    · exact .refl s
    · next t k _ _ h _ => exact (RecordFrame.clearBinding s h t .unbind cmd.tag).trans (.evaluate _ h cmd.tag)

theorem openStreamReply_frame (p : PortId) (cmd : Cmd) (s : State) :
    RecordFrame fresh s (openStreamReply p cmd s).state := by
  unfold openStreamReply
  split
  · split
    · exact .setStream s _ _
    · exact .refl s
    · exact .refl s
  · exact .refl s
  · exact .refl s
  · exact .refl s

theorem RecordFrame.adjustCarriages (s : State) (x : StreamId) (tag : Tag) :
    RecordFrame fresh s (s.adjustCarriages x tag).state := by
  have one : ∀ (r : RateChange) (c : CellId), RecordFrame fresh r.state (adjustCarriage x tag r c).state := by
    intro r c
    unfold adjustCarriage
    split
    · exact .refl _
    · exact (RecordFrame.setCarriage r.state c x _).trans (.evalMode _ c x tag)
  have all : ∀ (cs : List CellId) (r : RateChange),
      RecordFrame fresh r.state (cs.foldl (adjustCarriage x tag) r).state := by
    intro cs
    induction cs with
    | nil => exact fun r => .refl _
    | cons c cs ih => exact fun r => (one r c).trans (ih _)
  exact all (s.cellsWith x) ⟨s, 0, 0⟩

theorem setStreamRateReply_frame (cmd : Cmd) (s : State) : RecordFrame fresh s (setStreamRateReply cmd s).state := by
  unfold setStreamRateReply
  split
  · exact .refl s
  · split
    · exact .refl s
    · exact .refl s
    · exact (RecordFrame.setStream s _ _).trans (.adjustCarriages _ _ cmd.tag)

theorem closeStreamReply_frame (cmd : Cmd) (s : State) : RecordFrame fresh s (closeStreamReply cmd s).state := by
  unfold closeStreamReply
  split
  · exact .refl s
  · split
    · exact .refl s
    · exact .refl s
    · exact .setStream s _ _

theorem subscribeReply_frame (cmd : Cmd) (s : State) : RecordFrame fresh s (subscribeReply cmd s).state := by
  unfold subscribeReply
  split
  · exact .refl s
  · next x _ =>
    split
    · exact .refl s
    · next st hst =>
      split
      · exact .refl s
      · exact .refl s
      · have appended : RecordFrame fresh s (s.appendSub (cmd.op 2).toNat st x) :=
          (RecordFrame.setStation s (cmd.op 2).toNat { st with subs := st.subs ++ [⟨x, .suspended .lingering⟩] }
            (.inl ⟨st, station?_of_asStation hst, rfl⟩)).trans (.addHeld _ x)
        unfold subscribeStation
        split
        · exact .refl s
        · split
          · exact .refl s
          · exact appended.trans (.evaluateWith _ _ cmd.tag true (some x))

theorem unsubscribeReply_frame (cmd : Cmd) (s : State) : RecordFrame fresh s (unsubscribeReply cmd s).state := by
  unfold unsubscribeReply
  split
  · exact .refl s
  · split
    · exact .refl s
    · split
      · exact .refl s
      · exact .leaveAndRemove s _ _ cmd.tag

/-! ### The queries -/

theorem readStationReply_state (cmd : Cmd) (s : State) : (readStationReply cmd s).state = s := by
  unfold readStationReply
  split
  · split
    · rfl
    · split <;> rfl
  · split <;> rfl

theorem readTicketReply_state (cmd : Cmd) (s : State) : (readTicketReply cmd s).state = s := by
  unfold readTicketReply
  split
  · split <;> rfl
  · split
    · rfl
    · split <;> rfl

theorem readStreamReply_state (cmd : Cmd) (s : State) : (readStreamReply cmd s).state = s := by
  unfold readStreamReply
  split <;> rfl

theorem readCarriageReply_state (cmd : Cmd) (s : State) : (readCarriageReply cmd s).state = s := by
  unfold readCarriageReply
  split
  · split <;> rfl
  · rfl
  · rfl

theorem readZoneReply_state (cmd : Cmd) (s : State) : (readZoneReply cmd s).state = s := by
  unfold readZoneReply
  split <;> rfl

theorem readCellReply_state (cmd : Cmd) (s : State) : (readCellReply cmd s).state = s := by
  unfold readCellReply
  split <;> rfl

end Sys2Proof.Machine
end

section
namespace Sys2Proof.Machine

open Sys2Proof

/-! ## What the Plan Engine leaves as it was -/

/-- `t` is `s` but for carriages and plans of `cells`, the plan and built-for states of sectors, the pass, the start sector,
and notices. -/
structure EngineFrame (cells : CellId → Prop) (s t : State) : Prop where
  rest : ∃ ca pl se pa st po, t =
    { s with carriages := ca, plans := pl, sectors := se, pass := pa, startSector := st, ports := po }
  ports : ∀ p, NoticeFrame (s.port p) (t.port p)
  policies : ∀ sec, (t.sector sec).reservation = (s.sector sec).reservation ∧
    (t.sector sec).priority = (s.sector sec).priority
  plans : ∀ c, ¬cells c → t.planEntry c = s.planEntry c
  carriages : ∀ c, ¬cells c → ∀ x, t.carriage? c x = s.carriage? c x

variable {cells : CellId → Prop}

theorem EngineFrame.refl (s : State) : EngineFrame cells s s :=
  ⟨⟨_, _, _, _, _, _, rfl⟩, fun _ => .refl _, fun _ => ⟨rfl, rfl⟩, fun _ _ => rfl, fun _ _ _ => rfl⟩

theorem EngineFrame.trans {s t u : State} (f : EngineFrame cells s t) (f' : EngineFrame cells t u) :
    EngineFrame cells s u where
  rest := by
    obtain ⟨ca, pl, se, pa, st, po, ht⟩ := f.rest
    obtain ⟨ca', pl', se', pa', st', po', hu⟩ := f'.rest
    exact ⟨ca', pl', se', pa', st', po', by rw [hu, ht]⟩
  ports p := (f.ports p).trans (f'.ports p)
  policies sec := ⟨(f'.policies sec).1.trans (f.policies sec).1, (f'.policies sec).2.trans (f.policies sec).2⟩
  plans c hc := (f'.plans c hc).trans (f.plans c hc)
  carriages c hc x := (f'.carriages c hc x).trans (f.carriages c hc x)

theorem EngineFrame.mono {cells' : CellId → Prop} {s t : State} (f : EngineFrame cells s t)
    (h : ∀ c, cells c → cells' c) : EngineFrame cells' s t :=
  { f with
    plans := fun c hc => f.plans c fun hn => hc (h c hn)
    carriages := fun c hc => f.carriages c fun hn => hc (h c hn) }

theorem EngineFrame.venue {s t : State} (h : EngineFrame cells s t) : t.venue = s.venue := by
  obtain ⟨ca, pl, se, pa, st, po, rfl⟩ := h.rest
  rfl

/-- Changes that each keep the frame, in the same venue, keep it one after another. -/
theorem EngineFrame.foldl {α : Type} {act : State → α → State} (l : List α) (s : State)
    (h : ∀ a ∈ l, ∀ t : State, t.venue = s.venue → EngineFrame cells t (act t a)) :
    EngineFrame cells s (l.foldl act s) := by
  induction l generalizing s with
  | nil => exact .refl s
  | cons a l ih =>
    have first := h a (by simp) s rfl
    exact first.trans (ih _ fun b hb t ht => h b (by simp [hb]) t (ht.trans first.venue))

theorem EngineFrame.notifyAt (s : State) (dest : PortUnit → Bool) (n : Notice) (tag : Tag) (f : FrameNo) :
    EngineFrame cells s (s.notifyAt dest n tag f) :=
  { EngineFrame.refl (cells := cells) s with
    rest := ⟨_, _, _, _, _, _, rfl⟩
    ports := fun p => by
      rw [port_notifyAt]
      split
      · exact deliver_noticeFrame _ _ _ _
      · exact .refl _ }

theorem EngineFrame.setCarriage (s : State) {c : CellId} (hc : cells c) (x : StreamId) (k : Carriage) :
    EngineFrame cells s (s.setCarriage c x k) :=
  { EngineFrame.refl (cells := cells) s with
    rest := ⟨_, _, _, _, _, _, rfl⟩
    carriages := fun _ hd _ => carriage?_setCarriage_of_ne s k fun e => hd (e.1 ▸ hc) }

theorem EngineFrame.setPlan (s : State) {c : CellId} (hc : cells c) (e : PlanEntry) :
    EngineFrame cells s (s.setPlan c e) :=
  { EngineFrame.refl (cells := cells) s with
    rest := ⟨_, _, _, _, _, _, rfl⟩
    plans := fun _ hd => planEntry_setPlan_of_ne s e fun h => hd (h ▸ hc) }

/-- A sector record changed but for its policy. -/
theorem EngineFrame.setSector (s : State) (sec : SectorId) (ps : PlanState) (built : Option FrameNo) :
    EngineFrame cells s (s.setSector sec { s.sector sec with planState := ps, builtFor := built }) :=
  { EngineFrame.refl (cells := cells) s with
    rest := ⟨_, _, _, _, _, _, rfl⟩
    policies := fun x => by
      by_cases h : x = sec
      · subst h
        rw [sector_setSector_self]
        exact ⟨rfl, rfl⟩
      · rw [sector_setSector_of_ne s _ h]
        exact ⟨rfl, rfl⟩ }

theorem EngineFrame.setPass (s : State) (pass : Option Pass) : EngineFrame cells s { s with pass := pass } :=
  { EngineFrame.refl (cells := cells) s with rest := ⟨_, _, _, _, _, _, rfl⟩ }

theorem EngineFrame.setStartSector (s : State) (sec : SectorId) : EngineFrame cells s { s with startSector := sec } :=
  { EngineFrame.refl (cells := cells) s with rest := ⟨_, _, _, _, _, _, rfl⟩ }

/-! ### Cells -/

theorem EngineFrame.chargeCarriage (s : State) {c : CellId} (hc : cells c) (x : StreamId) (k : Carriage) (g : Nat)
    (f : FrameNo) : EngineFrame cells s (s.chargeCarriage c x k g f) := by
  unfold State.chargeCarriage
  dsimp only
  split
  · exact .setCarriage s hc x _
  · exact (EngineFrame.setCarriage s hc x _).trans (.notifyAt _ _ _ _ _)
  · exact (EngineFrame.setCarriage s hc x _).trans (.notifyAt _ _ _ _ _)

theorem EngineFrame.grantNext {c : CellId} (hc : cells c) (f : FrameNo) (b : Building) (x : StreamId) :
    EngineFrame cells b.state (grantNext c f b x).state := by
  unfold Machine.grantNext
  split
  · exact .refl _
  · split
    · exact .chargeCarriage _ hc _ _ _ f
    · exact .setCarriage _ hc _ _

/-- The build of a cell leaves the carriages and plans of every other cell (R124 to R134). -/
theorem EngineFrame.buildCell (f : FrameNo) (s : State) {c : CellId} (hc : cells c) :
    EngineFrame cells s (State.buildCell f s c) := by
  have grants : ∀ (xs : List StreamId) (b : Building), EngineFrame cells b.state (xs.foldl (Machine.grantNext c f) b).state := by
    intro xs
    induction xs with
    | nil => exact fun b => .refl _
    | cons x xs ih => exact fun b => (EngineFrame.grantNext hc f b x).trans (ih _)
  exact (grants _ ⟨_, [], s⟩).trans (.setPlan _ hc _)

theorem EngineFrame.chargeHeld {c : CellId} (hc : cells c) (f : FrameNo) (runs : List ReplayRun) (s : State)
    (x : StreamId) : EngineFrame cells s (chargeHeld c f runs s x) := by
  unfold Machine.chargeHeld
  split
  · exact .refl _
  · split
    · exact .chargeCarriage s hc _ _ _ f
    · exact .setCarriage s hc _ _

/-- The hold of a cell leaves the carriages and plans of every other cell (R145, R146). -/
theorem EngineFrame.holdCell (f : FrameNo) (s : State) {c : CellId} (hc : cells c) :
    EngineFrame cells s (State.holdCell f s c) :=
  (EngineFrame.setPlan s hc _).trans (.foldl _ _ fun x _ s _ => .chargeHeld hc f _ s x)

/-! ### Sectors and passes -/

/-- The cells of a sector that are in the venue. -/
theorem mem_cellsOf (s : State) (sec : SectorId) (c : CellId) :
    c ∈ s.cellsOf sec ↔ sectorOf c = sec ∧ c.val % 32 < s.venue.cellsPerSector := by
  have hall : ∀ i : SectorId, i ∈ allSectors := by decide
  simp only [State.cellsOf, List.mem_map, List.mem_filter, decide_eq_true_eq]
  constructor
  · rintro ⟨i, ⟨_, hi⟩, rfl⟩
    refine ⟨Fin.ext ?_, ?_⟩ <;> simp only [sectorOf] <;> omega
  · rintro ⟨rfl, hi⟩
    exact ⟨⟨c.val % 32, by omega⟩, ⟨hall _, hi⟩, Fin.ext (by simp only [sectorOf]; omega)⟩

theorem EngineFrame.completeBuild (s : State) (f : FrameNo) (sec : SectorId) (h : ∀ c ∈ s.cellsOf sec, cells c) :
    EngineFrame cells s (s.completeBuild f sec) := by
  have built : EngineFrame cells s ((s.cellsOf sec).foldl (State.buildCell f) s) :=
    .foldl _ s fun c hc s _ => .buildCell f s (h c hc)
  unfold State.completeBuild
  exact (built.trans (.setSector _ sec _ _)).trans (.setStartSector _ _)

theorem EngineFrame.holdSector (f : FrameNo) (s : State) (sec : SectorId) (h : ∀ c ∈ s.cellsOf sec, cells c) :
    EngineFrame cells s (State.holdSector f s sec) := by
  have held : EngineFrame cells s ((s.cellsOf sec).foldl (State.holdCell f) s) :=
    .foldl _ s fun c hc s _ => .holdCell f s (h c hc)
  unfold State.holdSector
  exact held.trans (.setSector _ sec _ _)

theorem EngineFrame.startBuild (s : State) (f : FrameNo) (order : List SectorId) :
    EngineFrame cells s (s.startBuild f order) := by
  cases order with
  | nil => exact .setPass s none
  | cons sec rest => exact (EngineFrame.setSector s sec _ _).trans (.setPass _ _)

/-- The end of a pass leaves the cells that are not in the venue, and those of the sectors that it has built (R144, R145). -/
theorem EngineFrame.endPass (s : State) (pass : Pass)
    (h : ∀ c : CellId, sectorOf c ∈ pass.building :: pass.rest → c.val % 32 < s.venue.cellsPerSector → cells c) :
    EngineFrame cells s (s.endPass pass) := by
  have late : EngineFrame cells s (s.completeBuild pass.frame pass.building) := .completeBuild s _ _ fun c hc => by
    obtain ⟨hsec, hin⟩ := (mem_cellsOf s _ c).1 hc
    exact h c (by simp [hsec]) hin
  unfold State.endPass
  dsimp only
  split
  · exact late
  · next first more hr =>
    refine (late.trans (.foldl pass.rest _ fun sec hsec t ht => .holdSector pass.frame t sec fun c hc => ?_)).trans
      (.notifyAt _ _ _ _ _)
    obtain ⟨hc, hin⟩ := (mem_cellsOf t sec c).1 hc
    exact h c (by simp [hc, hsec]) (by rwa [ht, late.venue] at hin)

theorem EngineFrame.planBoundary (s : State) : EngineFrame (fun _ => True) s s.planBoundary := by
  unfold State.planBoundary
  split
  · exact .startBuild s _ _
  · exact (EngineFrame.endPass s _ fun _ _ _ => trivial).trans (.startBuild _ _ _)

theorem EngineFrame.finishBuild (s : State) : EngineFrame (fun _ => True) s s.finishBuild := by
  unfold State.finishBuild
  split
  · exact .refl s
  · exact (EngineFrame.completeBuild s _ _ fun _ _ => trivial).trans (.startBuild _ _ _)

end Sys2Proof.Machine
end

section
namespace Sys2Proof.Machine

open Sys2Proof

/-! ## What a row does -/

/-! ### Commands -/

/-- The rule of a command, which its row serves from the ring of port `p`; an OPEN_MATCH is taken at `now`. -/
def bodyOf (c : Command) (p : PortId) (now : Instant) : Cmd → State → Reply :=
  match c with
  | .declarePort => declarePortReply p
  | .setVenue => setVenueReply
  | .openMatch => openMatchReply now
  | .closeMatch => closeMatchReply
  | .readStation => readStationReply
  | .readTicket => readTicketReply
  | .readStream => readStreamReply
  | .readCarriage => readCarriageReply
  | .readZone => readZoneReply
  | .readCell => readCellReply
  | .associate => associateReply p
  | .detach => detachReply p
  | .reportLevel => reportLevelReply p
  | .claim => claimReply p
  | .release => releaseReply p
  | .withdraw => withdrawReply p
  | .setSectorPolicy => setSectorPolicyReply p
  | .loadTickets => loadTicketsReply
  | .admitTicket => admitTicketReply
  | .exitTicket => exitTicketReply
  | .voidTicket => voidTicketReply
  | .setZone => setZoneReply
  | .bindTicket => bindTicketReply
  | .unbindTicket => unbindTicketReply
  | .openStream => openStreamReply p
  | .setStreamRate => setStreamRateReply
  | .closeStream => closeStreamReply
  | .subscribe => subscribeReply
  | .unsubscribe => unsubscribeReply
  | .armMoment => armMomentReply

/-- The row of a command serves its rule, once what the last boundary has left due is taken. -/
theorem exec_rowOf (c : Command) (p : PortId) (now : Instant) (s : State) :
    exec (rowOf c p now) s = .next (serve p c (bodyOf c p now) s.settle) := by
  cases c <;> rfl

/-- Where nothing is due, the row of a command serves its rule. -/
theorem exec_rowOf_of_settled {s : State} (hs : s.settled) (c : Command) (p : PortId) (now : Instant) :
    exec (rowOf c p now) s = .next (serve p c (bodyOf c p now) s) := by
  rw [exec_rowOf, settle_of_settled hs]

/-- A command that the Port Unit finds and that passes its checks is completed with its own rule's reply. -/
theorem exec_rowOf_of_passes {s : State} {p : PortId} {c : Command} {cmd : Cmd} (h : s.passes p c cmd)
    (now : Instant) : exec (rowOf c p now) s = .next (finishCommand p cmd (bodyOf c p now cmd s)) := by
  obtain ⟨⟨hs, ht, hc⟩, hl, hp, hd⟩ := h
  rw [exec_rowOf_of_settled hs, serve_of_ready _ ht hc hl hp hd]

/-! ### Roles -/

theorem role_setPort (s : State) {p : PortId} {u : PortUnit} (hu : u.role = (s.port p).role) (q : PortId) :
    ((s.setPort p u).port q).role = (s.port q).role := by
  by_cases h : q = p
  · subst h
    rwa [port_setPort_self]
  · rw [port_setPort_of_ne s u h]

/-- A completion leaves every port's role. -/
theorem role_finishCommand (p : PortId) (cmd : Cmd) (r : Reply) (q : PortId) :
    ((finishCommand p cmd r).port q).role = (r.state.port q).role :=
  role_setPort r.state (completeCommand_frame _ _ _ _ _).1 q

theorem role_notify (s : State) (dest : PortUnit → Bool) (n : Notice) (tag : Tag) (q : PortId) :
    ((s.notify dest n tag).port q).role = (s.port q).role :=
  ((RecordFrame.notify (fresh := fun _ => False) s dest n tag).ports q).role

/-! ### Transfers, grants and over-long runs -/

/-- `t` is `s` but for Port Units, which keep their roles, the arbiter and the last answer. -/
structure BusFrame (s t : State) : Prop where
  rest : ∃ po ar an, t = { s with ports := po, arbiter := ar, answer := an }
  roles : ∀ p, (t.port p).role = (s.port p).role

theorem BusFrame.refl (s : State) : BusFrame s s := ⟨⟨_, _, _, rfl⟩, fun _ => rfl⟩

theorem BusFrame.setArbiter (s : State) (a : Arbiter) : BusFrame s (s.setArbiter a) := ⟨⟨_, _, _, rfl⟩, fun _ => rfl⟩

theorem BusFrame.setPort (s : State) {p : PortId} {u : PortUnit} (hu : u.role = (s.port p).role) :
    BusFrame s (s.setPort p u) := ⟨⟨_, _, _, rfl⟩, role_setPort s hu⟩

theorem BusFrame.setAnswer (s : State) (a : BusAnswer) : BusFrame s (s.setAnswer a) := ⟨⟨_, _, _, rfl⟩, fun _ => rfl⟩

theorem BusFrame.trans {s t u : State} (f : BusFrame s t) (f' : BusFrame t u) : BusFrame s u where
  rest := by
    obtain ⟨po, ar, an, ht⟩ := f.rest
    obtain ⟨po', ar', an', hu⟩ := f'.rest
    exact ⟨po', ar', an', by rw [hu, ht]⟩
  roles p := (f'.roles p).trans (f.roles p)

theorem BusFrame.grantBus (s : State) (lines : BitVec 4) : BusFrame s (s.grantBus lines) := .setArbiter s _

theorem BusFrame.raiseAcknowledge (s : State) (p : PortId) : BusFrame s (s.raiseAcknowledge p) := by
  unfold State.raiseAcknowledge
  split
  · exact .setArbiter s _
  · exact .refl s

theorem BusFrame.withdrawGrant (s : State) (p : PortId) : BusFrame s (s.withdrawGrant p) := by
  unfold State.withdrawGrant
  split
  · exact .setArbiter s _
  · exact .refl s

theorem BusFrame.dropAcknowledge (s : State) (p : PortId) : BusFrame s (s.dropAcknowledge p) := by
  unfold State.dropAcknowledge
  split
  · exact .setArbiter s _
  · exact .refl s

theorem BusFrame.busError (s : State) (p : PortId) (a : WordAddr) (write : Bool) : BusFrame s (s.busError p a write) := by
  have answered := BusFrame.setAnswer s .error
  rcases busError_cases s p a write with ⟨_, h⟩ | ⟨_, _, h⟩ | ⟨_, _, h⟩
  · rw [h]
    exact answered
  · rw [h]
    exact answered.trans (.setPort _ ((deliver_frame _ _ _ _).trans (.raise _ _)).role)
  · rw [h]
    exact answered.trans (.setPort _ rfl)

theorem BusFrame.busRead (s : State) (p : PortId) (a : WordAddr) : BusFrame s (s.busRead p a) := by
  rcases busRead_cases s p a with ⟨_, h⟩ | ⟨_, h⟩ | ⟨ans, _, _, _, h⟩
  · rw [h]
    exact .refl s
  · rw [h]
    exact .busError s p a false
  · rw [h]
    exact .setAnswer s ans

/-- No write to the port's own window reaches its role (R153, R160). -/
theorem role_writeTarget {u v : PortUnit} {t : Target} {w : Word} (h : writeTarget u t w = some v) : v.role = u.role := by
  cases t with
  | ring k =>
    simp only [writeTarget] at h
    split at h <;> cases h
    rfl
  | producer =>
    simp only [writeTarget] at h
    split at h <;> cases h
    rfl
  | head =>
    cases h
    unfold writeHead
    dsimp only
    split <;> rfl
  | control =>
    cases h
    split <;> rfl
  | queue => cases h; rfl
  | request => cases h; rfl
  | enable => cases h; rfl
  | consumer => cases h
  | tail => cases h
  | plan => cases h
  | nothing => cases h

theorem BusFrame.busWrite (s : State) (p : PortId) (a : WordAddr) (v : Word) : BusFrame s (s.busWrite p a v) := by
  rcases busWrite_cases s p a v with ⟨_, h⟩ | ⟨_, h⟩ | ⟨u, _, _, hu, h⟩
  · rw [h]
    exact .refl s
  · rw [h]
    exact .busError s p a true
  · rw [h]
    exact (BusFrame.setPort s (role_writeTarget hu)).trans (.setAnswer _ _)

theorem BusFrame.finishCommand (p : PortId) (cmd : Cmd) (st : Status) (items : List Item) (s : State) :
    BusFrame s (finishCommand p cmd (refuse st items s)) :=
  .setPort s (completeCommand_frame _ _ _ _ _).1

theorem BusFrame.serveBadCode (s : State) (p : PortId) : BusFrame s (s.serveBadCode p) := by
  unfold State.serveBadCode
  split
  · exact .refl s
  · split
    · exact .refl s
    · exact .finishCommand p _ _ _ s

theorem role_completeOverlong (notify : Bool) (u : PortUnit) : (completeOverlong notify u).role = u.role :=
  (completeCommand_frame 1 notify .badLength [] u).1

theorem role_continueRun (n : Nat) (u : PortUnit) : (continueRun n u).role = u.role := by
  induction n generalizing u with
  | zero => rfl
  | succ n ih =>
    unfold continueRun
    split
    · rfl
    · split
      · rfl
      · rw [ih, role_completeOverlong]

theorem role_serveOverlong (u : PortUnit) : (serveOverlong u).role = u.role := by
  unfold serveOverlong
  split
  · rfl
  · split
    · exact role_continueRun _ u
    · split
      · rw [role_continueRun]
        simp only [startRun, role_completeOverlong]
      · rfl

theorem BusFrame.serveOverlongAt (s : State) (p : PortId) : BusFrame s (s.serveOverlongAt p) :=
  .setPort s (role_serveOverlong _)

/-! ### All rows -/

/-- The row of an act of a boundary. -/
def actRow : BoundaryAct → Instr
  | .claimDeadline => .claimDeadline
  | .lingerExpiry => .lingerExpiry
  | .drainCompletion => .drainCompletion
  | .surgeEnd => .surgeEnd

theorem exec_actRow (a : BoundaryAct) (s : State) : exec (actRow a) s = .next (s.act a) := by
  cases a <;> rfl

/-- What a row makes of a state, by its kind. -/
inductive Effect (s : State) : Instr → State → Prop where
  | reset : Effect s .reset s.resetPart
  | act (a : BoundaryAct) : Effect s (actRow a) (s.act a)
  | command (c : Command) (p : PortId) (now : Instant) :
    Effect s (rowOf c p now) (serve p c (bodyOf c p now) s.settle)
  | strobe (now : Instant) (early : List BoundaryAct) : Effect s (.frameStrobe now early) (s.settle.frameStrobe now early)
  | loss (early : List BoundaryAct) : Effect s (.strobeLossExpiry early) (s.settle.strobeLossExpiry early)
  | divider (early : List BoundaryAct) : Effect s (.dividerExpiry early) (s.settle.dividerExpiry early)
  | pulse (now : Instant) : Effect s (.momentPulse now) (s.settle.momentPulse now)
  | build : Effect s .sectorBuildCompletion s.settle.finishBuild
  | bus (i : Instr) (t : State) (h : BusFrame s.settle t) : Effect s i t

/-- Every row is of one of these kinds. -/
theorem effect_of_exec {i : Instr} {s t : State} (h : exec i s = .next t) : Effect s i t := by
  have commands : ∀ c p now, exec (rowOf c p now) s = .next t → Effect s (rowOf c p now) t := by
    intro c p now h
    rw [exec_rowOf] at h
    cases h
    exact .command c p now
  cases i with
  | reset => cases h; exact .reset
  | declarePort p => exact commands .declarePort p 0 h
  | setVenue p => exact commands .setVenue p 0 h
  | openMatch p now => exact commands .openMatch p now h
  | closeMatch p => exact commands .closeMatch p 0 h
  | readStation p => exact commands .readStation p 0 h
  | readTicket p => exact commands .readTicket p 0 h
  | readStream p => exact commands .readStream p 0 h
  | readCarriage p => exact commands .readCarriage p 0 h
  | readZone p => exact commands .readZone p 0 h
  | readCell p => exact commands .readCell p 0 h
  | associate p => exact commands .associate p 0 h
  | detach p => exact commands .detach p 0 h
  | reportLevel p => exact commands .reportLevel p 0 h
  | claim p => exact commands .claim p 0 h
  | release p => exact commands .release p 0 h
  | withdraw p => exact commands .withdraw p 0 h
  | setSectorPolicy p => exact commands .setSectorPolicy p 0 h
  | loadTickets p => exact commands .loadTickets p 0 h
  | admitTicket p => exact commands .admitTicket p 0 h
  | exitTicket p => exact commands .exitTicket p 0 h
  | voidTicket p => exact commands .voidTicket p 0 h
  | setZone p => exact commands .setZone p 0 h
  | bindTicket p => exact commands .bindTicket p 0 h
  | unbindTicket p => exact commands .unbindTicket p 0 h
  | openStream p => exact commands .openStream p 0 h
  | setStreamRate p => exact commands .setStreamRate p 0 h
  | closeStream p => exact commands .closeStream p 0 h
  | subscribe p => exact commands .subscribe p 0 h
  | unsubscribe p => exact commands .unsubscribe p 0 h
  | armMoment p => exact commands .armMoment p 0 h
  | frameStrobe now early => cases h; exact .strobe now early
  | strobeLossExpiry early => cases h; exact .loss early
  | dividerExpiry early => cases h; exact .divider early
  | momentPulse now => cases h; exact .pulse now
  | surgeEnd => cases h; exact .act .surgeEnd
  | claimDeadline => cases h; exact .act .claimDeadline
  | lingerExpiry => cases h; exact .act .lingerExpiry
  | drainCompletion => cases h; exact .act .drainCompletion
  | sectorBuildCompletion => cases h; exact .build
  | busGrant lines => cases h; exact .bus _ _ (.grantBus _ lines)
  | acknowledgeRaised p => cases h; exact .bus _ _ (.raiseAcknowledge _ p)
  | grantWithdrawn p => cases h; exact .bus _ _ (.withdrawGrant _ p)
  | acknowledgeDropped p => cases h; exact .bus _ _ (.dropAcknowledge _ p)
  | planWindowRead p w => cases h; exact .bus _ _ (.busRead _ p _)
  | producerIndexWrite p v => cases h; exact .bus _ _ (.busWrite _ p _ v)
  | noticeHeadWrite p v => cases h; exact .bus _ _ (.busWrite _ p _ v)
  | attentionRequestSet p bits => cases h; exact .bus _ _ (.busWrite _ p _ _)
  | attentionRequestClear p bits => cases h; exact .bus _ _ (.busWrite _ p _ _)
  | attentionEnableSet p bits => cases h; exact .bus _ _ (.busWrite _ p _ _)
  | attentionEnableClear p bits => cases h; exact .bus _ _ (.busWrite _ p _ _)
  | portReset p rest => cases h; exact .bus _ _ (.busWrite _ p _ _)
  | wordWrite p addr v => cases h; exact .bus _ _ (.busWrite _ p addr v)
  | badCodeElement p => cases h; exact .bus _ _ (.serveBadCode _ p)
  | overlongChain p => cases h; exact .bus _ _ (.serveOverlongAt _ p)
  | wordRead p addr => cases h; exact .bus _ _ (.busRead _ p addr)

end Sys2Proof.Machine
end

section
namespace Sys2Proof.Machine

open Sys2Proof

variable {fresh : StationState → Prop}

/-! ## What every row keeps of a running match -/

/-- The only state into which an act of a boundary brings a station. -/
def becomesAssociated (st : StationState) : Prop := st = .associated

theorem becomesAssociated_associated : becomesAssociated .associated := rfl

/-- `t` is still in the match of `s`: the device state, the venue, the frame and the roles stand, the clock runs on, and
every station of `t` stands in the state it has in `s`, or in one that is `fresh`. -/
structure MatchFrame (fresh : StationState → Prop) (s t : State) : Prop where
  device : t.device = s.device
  venue : t.venue = s.venue
  frame : t.clock.frame = s.clock.frame
  runs : s.clock.state ≠ .stopped → t.clock.state ≠ .stopped
  roles : ∀ p, (t.port p).role = (s.port p).role
  wf : tableWf s.stations = true → tableWf t.stations = true
  states : ∀ h b, t.station? h = some b → (∃ a, s.station? h = some a ∧ b.state = a.state) ∨ fresh b.state

theorem RecordFrame.toMatch {s t : State} (f : RecordFrame fresh s t) : MatchFrame fresh s t :=
  ⟨f.device, f.venue, by rw [f.clock], by rw [f.clock]; exact id, fun p => (f.ports p).role, f.wf, f.states⟩

theorem MatchFrame.refl (s : State) : MatchFrame fresh s s := (RecordFrame.refl s).toMatch

theorem MatchFrame.trans {s t u : State} (f : MatchFrame fresh s t) (f' : MatchFrame fresh t u) :
    MatchFrame fresh s u where
  device := f'.device.trans f.device
  venue := f'.venue.trans f.venue
  frame := f'.frame.trans f.frame
  runs h := f'.runs (f.runs h)
  roles p := (f'.roles p).trans (f.roles p)
  wf h := f'.wf (f.wf h)
  states h c hc := by
    rcases f'.states h c hc with ⟨b, hb, hcb⟩ | hfresh
    · rcases f.states h b hb with ⟨a, ha, hba⟩ | hfresh
      · exact .inl ⟨a, ha, hcb.trans hba⟩
      · exact .inr (hcb ▸ hfresh)
    · exact .inr hfresh

/-- What a change beside the stations keeps. -/
theorem MatchFrame.beside {s t : State} (hd : t.device = s.device) (hv : t.venue = s.venue) (hc : t.clock = s.clock)
    (hst : t.stations = s.stations) (hr : ∀ p, (t.port p).role = (s.port p).role) : MatchFrame fresh s t :=
  ⟨hd, hv, by rw [hc], by rw [hc]; exact id, hr, by rw [hst]; exact id,
    fun h b hb => .inl ⟨b, by rwa [State.station?, hst] at hb, rfl⟩⟩

theorem BusFrame.toMatch {s t : State} (f : BusFrame s t) : MatchFrame fresh s t := by
  obtain ⟨⟨po, ar, an, rfl⟩, hr⟩ := f
  exact .beside rfl rfl rfl rfl hr

theorem EngineFrame.toMatch {cells : CellId → Prop} {s t : State} (f : EngineFrame cells s t) :
    MatchFrame fresh s t := by
  obtain ⟨⟨ca, pl, se, pa, st, po, rfl⟩, hp, _, _, _⟩ := f
  exact .beside rfl rfl rfl rfl fun p => (hp p).role

theorem MatchFrame.momentPulse (s : State) (now : Instant) : MatchFrame fresh s (s.momentPulse now) := by
  unfold State.momentPulse
  split
  · exact .refl s
  · exact .refl s
  · next value mask _ =>
    dsimp only
    refine MatchFrame.trans ?_ (RecordFrame.notify _ _ _ _).toMatch
    unfold State.openSurge
    split
    · exact .beside rfl rfl rfl rfl fun _ => rfl
    · exact .beside rfl rfl rfl rfl fun _ => rfl

theorem MatchFrame.setPolicies (s : State) (secs : List SectorId) (t : Nat) (pr : Priority) :
    MatchFrame fresh s (s.setPolicies secs t pr) := by
  unfold State.setPolicies
  induction secs generalizing s with
  | nil => exact .refl s
  | cons sec secs ih =>
    refine MatchFrame.trans ?_ (ih (s.setSector sec { s.sector sec with reservation := t, priority := pr }))
    exact .beside rfl rfl rfl rfl fun _ => rfl

/-- A command taken in SERVICE, but for CLOSE_MATCH, keeps the match. -/
theorem bodyOf_match {c : Command} {s : State} (hs : s.device = .service) (hd : stateRefusal s.device c = none)
    (hc : c ≠ .closeMatch) (p : PortId) (now : Instant) (cmd : Cmd) :
    MatchFrame s.newDeadline s (bodyOf c p now cmd s).state := by
  have query : ∀ {t : State}, t = s → MatchFrame s.newDeadline s t := by
    rintro t rfl
    exact .refl t
  rw [hs] at hd
  cases c with
  | declarePort => cases hd
  | setVenue => cases hd
  | openMatch => cases hd
  | closeMatch => exact absurd rfl hc
  | readStation => exact query (readStationReply_state cmd s)
  | readTicket => exact query (readTicketReply_state cmd s)
  | readStream => exact query (readStreamReply_state cmd s)
  | readCarriage => exact query (readCarriageReply_state cmd s)
  | readZone => exact query (readZoneReply_state cmd s)
  | readCell => exact query (readCellReply_state cmd s)
  | associate => exact (associateReply_frame p cmd s).toMatch
  | detach => exact (detachReply_frame p cmd s).toMatch
  | reportLevel => exact (reportLevelReply_frame p cmd s).toMatch
  | claim => exact (claimReply_frame p cmd s).toMatch
  | release => exact (releaseReply_frame p cmd s).toMatch
  | withdraw => exact (withdrawReply_frame p cmd s).toMatch
  | setSectorPolicy =>
    simp only [bodyOf, setSectorPolicyReply]
    split
    · split
      · exact .refl s
      · exact .setPolicies s _ _ _
    · exact .refl s
    · exact .refl s
    · exact .refl s
  | loadTickets => exact (loadTicketsReply_frame cmd s).toMatch
  | admitTicket => exact (admitTicketReply_frame cmd s).toMatch
  | exitTicket => exact (exitTicketReply_frame cmd s).toMatch
  | voidTicket => exact (voidTicketReply_frame cmd s).toMatch
  | setZone => exact (setZoneReply_frame cmd s).toMatch
  | bindTicket => exact (bindTicketReply_frame cmd s).toMatch
  | unbindTicket => exact (unbindTicketReply_frame cmd s).toMatch
  | openStream => exact (openStreamReply_frame p cmd s).toMatch
  | setStreamRate => exact (setStreamRateReply_frame cmd s).toMatch
  | closeStream => exact (closeStreamReply_frame cmd s).toMatch
  | subscribe => exact (subscribeReply_frame cmd s).toMatch
  | unsubscribe => exact (unsubscribeReply_frame cmd s).toMatch
  | armMoment =>
    simp only [bodyOf, armMomentReply]
    split
    · exact .beside rfl rfl rfl rfl fun _ => rfl
    · exact .refl s
    · exact .refl s

/-- All that the row of a command can do: nothing, a refusal by the Port Unit, or its own rule's reply completed. -/
theorem serve_effect (p : PortId) (c : Command) (body : Cmd → State → Reply) (s : State) :
    BusFrame s (serve p c body s) ∨
      ∃ cmd, stateRefusal s.device c = none ∧ serve p c body s = finishCommand p cmd (body cmd s) := by
  rcases serve_cases p c body s with ⟨h, _⟩ | ⟨cmd, _, _, h⟩
  · exact .inl (by rw [h]; exact .refl s)
  · rcases checkedReply_cases p c cmd body s with ⟨st, hr, _⟩ | ⟨_, _, hd, hr⟩
    · exact .inl (by rw [h, hr]; exact .finishCommand p cmd st [] s)
    · exact .inr ⟨cmd, hd, by rw [h, hr]⟩

theorem MatchFrame.finishCommand {s : State} {r : Reply} (f : MatchFrame fresh s r.state) (p : PortId) (cmd : Cmd) :
    MatchFrame fresh s (finishCommand p cmd r) :=
  f.trans (.beside rfl rfl rfl rfl (role_finishCommand p cmd r))

/-- A boundary moves the match on by one frame. -/
theorem MatchFrame.boundary (s : State) (now : Instant) (early : List BoundaryAct) :
    MatchFrame becomesAssociated (s.advanceFrame now) (s.boundary now early) := by
  have raised : MatchFrame becomesAssociated (s.advanceFrame now) (s.advanceFrame now).raiseFrame :=
    .beside rfl rfl rfl rfl fun p => by simp [State.raiseFrame, raise]
  exact (raised.trans (RecordFrame.foldl (fun s a => .act becomesAssociated_associated s a) early _).toMatch).trans
    (EngineFrame.planBoundary _).toMatch

theorem MatchFrame.setClock (s : State) {c : ClockState} (hc : c ≠ .stopped) (strobe : Instant) :
    MatchFrame fresh s (s.setClock c strobe) :=
  { MatchFrame.refl (fresh := fresh) s with runs := fun _ => hc }

/-- A strobe or an expiry keeps the match, or moves it on by one frame. -/
theorem frameStrobe_match (s : State) (now : Instant) (early : List BoundaryAct) :
    MatchFrame fresh s (s.frameStrobe now early) ∨
      ∃ at_, MatchFrame becomesAssociated (s.advanceFrame at_) (s.frameStrobe now early) := by
  have boundary := MatchFrame.boundary s now early
  unfold State.frameStrobe
  split
  · exact .inl (.refl s)
  · split
    · exact .inr ⟨now, boundary.trans (.setClock _ (by decide) _)⟩
    · exact .inl (.refl s)
  · split
    · exact .inr ⟨now, (boundary.trans (.setClock _ (by decide) _)).trans (RecordFrame.notify _ _ _ _).toMatch⟩
    · exact .inl (.refl s)

theorem strobeLossExpiry_match (s : State) (early : List BoundaryAct) :
    MatchFrame fresh s (s.strobeLossExpiry early) ∨
      ∃ at_, MatchFrame becomesAssociated (s.advanceFrame at_) (s.strobeLossExpiry early) := by
  unfold State.strobeLossExpiry
  split
  · exact .inl (.refl s)
  · exact .inl (.refl s)
  · exact .inr ⟨_, ((MatchFrame.boundary s _ early).trans (.setClock _ (by decide) _)).trans
      (RecordFrame.notify _ _ _ _).toMatch⟩

theorem dividerExpiry_match (s : State) (early : List BoundaryAct) :
    MatchFrame fresh s (s.dividerExpiry early) ∨
      ∃ at_, MatchFrame becomesAssociated (s.advanceFrame at_) (s.dividerExpiry early) := by
  unfold State.dividerExpiry
  split
  · exact .inl (.refl s)
  · exact .inl (.refl s)
  · exact .inr ⟨_, .boundary s _ early⟩

/-- All that a row can do in SERVICE: RESET, an accepted CLOSE_MATCH, an act, a change within the frame, or a boundary; all
but the first and the act come after what the last boundary has left due. -/
theorem Effect.service {i : Instr} {s t : State} (he : Effect s i t) (hs : s.device = .service) :
    (i = .reset ∧ t = s.resetPart) ∨ (∃ p cmd, t = finishCommand p cmd (closeMatchReply cmd s.settle)) ∨
      MatchFrame becomesAssociated s t ∨ MatchFrame s.settle.newDeadline s.settle t ∨
      ∃ now, MatchFrame becomesAssociated (s.settle.advanceFrame now) t := by
  have settled : s.settle.device = .service := (RecordFrame.settle becomesAssociated_associated s).device.trans hs
  cases he with
  | reset => exact .inl ⟨rfl, rfl⟩
  | act a => exact .inr (.inr (.inl (RecordFrame.act becomesAssociated_associated s a).toMatch))
  | command c p now =>
    rcases serve_effect p c (bodyOf c p now) s.settle with h | ⟨cmd, hd, h⟩
    · exact .inr (.inr (.inr (.inl h.toMatch)))
    · by_cases hc : c = .closeMatch
      · subst hc
        exact .inr (.inl ⟨p, cmd, h⟩)
      · rw [h]
        exact .inr (.inr (.inr (.inl ((bodyOf_match settled hd hc p now cmd).finishCommand p cmd))))
  | strobe now early => exact .inr (.inr (.inr (frameStrobe_match _ now early)))
  | loss early => exact .inr (.inr (.inr (strobeLossExpiry_match _ early)))
  | divider early => exact .inr (.inr (.inr (dividerExpiry_match _ early)))
  | pulse now => exact .inr (.inr (.inr (.inl (.momentPulse _ now))))
  | build => exact .inr (.inr (.inr (.inl (EngineFrame.finishBuild _).toMatch)))
  | bus i t h => exact .inr (.inr (.inr (.inl h.toMatch)))

end Sys2Proof.Machine

open Sys2Proof Sys2Proof.Machine

/-- Settles O51, by the kinds of effect that a row can have in SERVICE. -/
theorem venueAndRolesAreFixedInService : Obligations.VenueAndRolesAreFixedInService := by
  intro i s t hs hi ht
  have settled := RecordFrame.settle becomesAssociated_associated s
  have kept : ∀ {fresh u}, MatchFrame fresh s.settle u → u.venue = s.venue ∧ ∀ p, (u.port p).role = (s.port p).role :=
    fun f => ⟨f.venue.trans settled.venue, fun p => (f.roles p).trans (settled.ports p).role⟩
  rcases (effect_of_exec ht).service hs with ⟨h, _⟩ | ⟨p, cmd, rfl⟩ | f | f | ⟨now, f⟩
  · exact absurd h hi
  · exact ⟨settled.venue, fun q => by
      rw [role_finishCommand, closeMatchReply, State.closeAt, role_notify]
      exact (settled.ports q).role⟩
  · exact ⟨f.venue, f.roles⟩
  · exact kept f
  · exact ⟨f.venue.trans settled.venue, fun p => (f.roles p).trans (settled.ports p).role⟩
end

section
namespace Sys2Proof.Machine

open Sys2Proof

variable {fresh : StationState → Prop}

/-! ## The life of a match -/

/-- A part in SETUP has nothing due. -/
theorem settled_of_setup {s : State} (h : s.lifecycleOk) (hs : s.device = .setup) : s.settled := by
  simp only [State.lifecycleOk, hs] at h
  obtain ⟨_, _, hsurge, hstations, _, _, _, _, hstreams, _, _, _⟩ := h
  refine ⟨by simp [hstations], fun x => ?_, by simp [hsurge]⟩
  simp [State.stream, hstreams, drainDue]

/-- Where nothing is due, no act takes anything. -/
theorem act_of_settled {s : State} (hs : s.settled) (a : BoundaryAct) : s.act a = s := by
  cases a with
  | claimDeadline => simp [State.act, State.actClaimDeadline, claimsDue_of_settled hs]
  | lingerExpiry => simp [State.act, State.actLingerExpiry, lingersDue_of_settled hs]
  | drainCompletion => simp [State.act, State.actDrainCompletion, drainsDue_of_settled hs]
  | surgeEnd => exact actSurgeEnd_of_settled hs

/-- What a row other than RESET makes of a part in SETUP: its stations stay, its venue stays or is one that SET_VENUE gives,
and it stays in SETUP with no match, or a match opens. -/
structure SetupFrame (s t : State) : Prop where
  stations : t.stations = s.stations
  venue : t.venue = s.venue ∨ ∃ cmd src, t.venue = venueOf cmd src
  life : (∃ v ti tm l po ar an, t =
      { s with venue := v, tickets := ti, ticketMap := tm, loaded := l, ports := po, arbiter := ar, answer := an }) ∨
    t.device = .service ∧ t.clock.state ≠ .stopped

theorem SetupFrame.refl (s : State) : SetupFrame s s := ⟨rfl, .inl rfl, .inl ⟨_, _, _, _, _, _, _, rfl⟩⟩

theorem BusFrame.toSetup {s t : State} (f : BusFrame s t) : SetupFrame s t := by
  obtain ⟨⟨po, ar, an, rfl⟩, _⟩ := f
  exact ⟨rfl, .inl rfl, .inl ⟨_, _, _, _, _, _, _, rfl⟩⟩

theorem SetupFrame.finishCommand {s : State} {r : Reply} (f : SetupFrame s r.state) (p : PortId) (cmd : Cmd) :
    SetupFrame s (finishCommand p cmd r) := by
  obtain ⟨hst, hv, ⟨v, ti, tm, l, po, ar, an, h⟩ | h⟩ := f
  · refine ⟨hst, hv, .inl ⟨v, ti, tm, l, (Machine.finishCommand p cmd r).ports, ar, an, ?_⟩⟩
    obtain ⟨st, items, t⟩ := r
    dsimp only at h
    subst h
    rfl
  · exact ⟨hst, hv, .inr h⟩

theorem declarePortReply_setup (p : PortId) (cmd : Cmd) (s : State) : SetupFrame s (declarePortReply p cmd s).state := by
  have declared : ∀ r, SetupFrame s (s.declare p r) := fun r =>
    ⟨rfl, .inl rfl, .inl ⟨_, _, _, _, s.ports.withUnit p _, _, _, rfl⟩⟩
  unfold declarePortReply
  split
  · exact declared _
  · unfold declareCell
    split
    · split
      · exact .refl s
      · split
        · exact .refl s
        · exact declared _
    · exact .refl s
    · exact .refl s
  · exact declared _
  · exact declared _
  · exact .refl s

theorem setVenueReply_setup (cmd : Cmd) (s : State) : SetupFrame s (setVenueReply cmd s).state := by
  unfold setVenueReply
  split
  · exact .refl s
  · next src _ =>
    split
    · exact .refl s
    · split
      · exact .refl s
      · exact ⟨rfl, .inr ⟨cmd, src, rfl⟩, .inl ⟨venueOf cmd src, _, _, _, _, _, _, rfl⟩⟩

theorem openMatchReply_setup (now : Instant) (cmd : Cmd) (s : State) : SetupFrame s (openMatchReply now cmd s).state := by
  unfold openMatchReply
  split
  · exact .refl s
  · obtain ⟨t, ht⟩ : ∃ t : State, t = { s with
        device := .service, clock := openClock s.venue.frameSource now, plans := s.defaultWindow 8 (some 0) true
        sectors := s.settledSectors (some 0) } := ⟨_, rfl⟩
    have opened : s.openAt now cmd.tag = (t.beginPass 1).notify isDeclared .matchOpen cmd.tag := by rw [ht]; rfl
    obtain ⟨ca, pl, se, pa, st, po, hpass⟩ := (EngineFrame.startBuild (cells := fun _ => True) t 1 (t.passOrder t.startSector)).rest
    have begun : t.beginPass 1 =
        { t with carriages := ca, plans := pl, sectors := se, pass := pa, startSector := st, ports := po } := hpass
    dsimp only
    rw [opened, begun, ht]
    refine ⟨rfl, .inl rfl, .inr ⟨rfl, ?_⟩⟩
    cases s.venue.frameSource <;> simp [openClock]

theorem loadTicketsReply_setup (cmd : Cmd) (s : State) : SetupFrame s (loadTicketsReply cmd s).state := by
  have loaded : ∀ (ts : List Ticket) (s : State), ∃ ti tm l,
      ts.foldl State.loadTicket s = { s with tickets := ti, ticketMap := tm, loaded := l } := by
    intro ts
    induction ts with
    | nil => exact fun s => ⟨_, _, _, rfl⟩
    | cons t ts ih =>
      intro s
      obtain ⟨ti, tm, l, h⟩ := ih (s.loadTicket t)
      exact ⟨ti, tm, l, h⟩
  unfold loadTicketsReply
  split
  · exact .refl s
  · next ts _ =>
    split
    · exact .refl s
    · split
      · exact .refl s
      · obtain ⟨ti, tm, l, h⟩ := loaded ts s
        dsimp only
        rw [h]
        exact ⟨rfl, .inl rfl, .inl ⟨_, _, _, _, _, _, _, rfl⟩⟩

/-- A command that the device state lets through in SETUP. -/
theorem bodyOf_setup {c : Command} {s : State} (hs : s.device = .setup) (hd : stateRefusal s.device c = none)
    (p : PortId) (now : Instant) (cmd : Cmd) : SetupFrame s (bodyOf c p now cmd s).state := by
  have query : ∀ {t : State}, t = s → SetupFrame s t := by
    rintro t rfl
    exact .refl t
  rw [hs] at hd
  cases c with
  | declarePort => exact declarePortReply_setup p cmd s
  | setVenue => exact setVenueReply_setup cmd s
  | openMatch => exact openMatchReply_setup now cmd s
  | readStation => exact query (readStationReply_state cmd s)
  | readTicket => exact query (readTicketReply_state cmd s)
  | readStream => exact query (readStreamReply_state cmd s)
  | readCarriage => exact query (readCarriageReply_state cmd s)
  | readZone => exact query (readZoneReply_state cmd s)
  | readCell => exact query (readCellReply_state cmd s)
  | loadTickets => exact loadTicketsReply_setup cmd s
  | _ => cases hd

/-- All that a row can do in SETUP: RESET, or a change within the frame. -/
theorem Effect.setup {i : Instr} {s t : State} (he : Effect s i t) (hl : s.lifecycleOk) (hs : s.device = .setup) :
    (i = .reset ∧ t = s.resetPart) ∨ SetupFrame s t := by
  have settled := settled_of_setup hl hs
  have life := hl
  simp only [State.lifecycleOk, hs] at life
  obtain ⟨hclock, hlatch, _, _, _, _, _, _, _, _, hpass, _⟩ := life
  have same : ∀ {t : State}, t = s → (i = .reset ∧ t = s.resetPart) ∨ SetupFrame s t := by
    rintro t rfl
    exact .inr (.refl t)
  cases he with
  | reset => exact .inl ⟨rfl, rfl⟩
  | act a => exact same (act_of_settled settled a)
  | command c p now =>
    rw [settle_of_settled settled]
    rcases serve_effect p c (bodyOf c p now) s with h | ⟨cmd, hd, h⟩
    · exact .inr h.toSetup
    · rw [h]
      exact .inr ((bodyOf_setup hs hd p now cmd).finishCommand p cmd)
  | strobe now early => exact same (by simp [State.frameStrobe, settle_of_settled settled, hclock])
  | loss early => exact same (by simp [State.strobeLossExpiry, settle_of_settled settled, hclock])
  | divider early => exact same (by simp [State.dividerExpiry, settle_of_settled settled, hclock])
  | pulse now => exact same (by simp [State.momentPulse, settle_of_settled settled, hlatch])
  | build => exact same (by simp [State.finishBuild, settle_of_settled settled, hpass])
  | bus i t h =>
    rw [settle_of_settled settled] at h
    exact .inr h.toSetup

theorem lifecycleOk_resetPart (s : State) : s.resetPart.lifecycleOk :=
  ⟨rfl, rfl, rfl, rfl, rfl, rfl, rfl, rfl, rfl, rfl, rfl, rfl⟩

theorem lifecycleOk_closeMatch (p : PortId) (cmd cmd' : Cmd) (s : State) :
    (finishCommand p cmd (closeMatchReply cmd' s)).lifecycleOk :=
  ⟨rfl, rfl, rfl, rfl, rfl, rfl, rfl, rfl, rfl, rfl, rfl, rfl⟩

theorem SetupFrame.lifecycleOk {s t : State} (f : SetupFrame s t) (h : s.lifecycleOk) : t.lifecycleOk := by
  rcases f.life with ⟨v, ti, tm, l, po, ar, an, rfl⟩ | ⟨hd, hc⟩
  · exact h
  · simpa only [State.lifecycleOk, hd] using hc

theorem MatchFrame.lifecycleOk {s t : State} (f : MatchFrame fresh s t) (h : s.lifecycleOk) (hs : s.device = .service) :
    t.lifecycleOk := by
  simp only [State.lifecycleOk, hs] at h
  simpa only [State.lifecycleOk, f.device.trans hs] using f.runs h

theorem lifecycleOk_advanceFrame {s : State} (h : s.lifecycleOk) (now : Instant) : (s.advanceFrame now).lifecycleOk := h

/-- Every row keeps what a part in SETUP holds, and that the clock runs in SERVICE (R1, R6, R7). -/
theorem Effect.lifecycleOk {i : Instr} {s t : State} (he : Effect s i t) (h : s.lifecycleOk) : t.lifecycleOk := by
  cases hs : s.device with
  | setup =>
    rcases he.setup h hs with ⟨_, rfl⟩ | f
    · exact lifecycleOk_resetPart s
    · exact f.lifecycleOk h
  | service =>
    have settled := RecordFrame.settle becomesAssociated_associated s
    have hl := settled.toMatch.lifecycleOk h hs
    have hd := settled.device.trans hs
    rcases he.service hs with ⟨_, rfl⟩ | ⟨p, cmd, rfl⟩ | f | f | ⟨now, f⟩
    · exact lifecycleOk_resetPart s
    · exact lifecycleOk_closeMatch p cmd cmd s.settle
    · exact f.lifecycleOk h hs
    · exact f.lifecycleOk hl hd
    · exact f.lifecycleOk (lifecycleOk_advanceFrame hl now) hd

/-! ## Taking what is due -/

/-- The claim of one station taken: it has no claim deadline any more (R46). -/
theorem expireClaim_takes {s : State} {h : Handle} {b : Station} (hb : (s.expireClaim h).station? h = some b)
    (now : FrameNo) : claimDue now b = false := by
  have associated : ∀ {st : Station} {t : State}, RecordFrame (fun _ => False) (s.setStation h st) t →
      st.state = .associated → t.station? h = some b → claimDue now b = false := by
    intro st t f hst hb
    rcases f.states h b hb with ⟨a, ha, hba⟩ | hfalse
    · rw [station?_setStation_self] at ha
      cases ha
      simp [claimDue, hba, hst]
    · exact hfalse.elim
  unfold State.expireClaim at hb
  cases hst : s.station? h with
  | none => simp [hst] at hb
  | some st =>
    cases hs : st.state with
    | associated =>
      simp only [hst, hs, Option.some.injEq] at hb
      simp [claimDue, ← hb, hs]
    | lingering deadline tag =>
      simp only [hst, hs, Option.some.injEq] at hb
      simp [claimDue, ← hb, hs]
    | inHandover claimant deadline tag =>
      simp only [hst, hs] at hb
      split at hb
      · exact associated (.abandonClaim_rest hst hs true) rfl hb
      · exact associated (.completeHandover_rest hst hs .deadline) rfl hb

/-- The linger of one station taken: it has no linger deadline any more (R30). -/
theorem expireLinger_takes {s : State} {h : Handle} {b : Station} (hb : (s.expireLinger h).station? h = some b)
    (now : FrameNo) : lingerDue now b = false := by
  unfold State.expireLinger at hb
  cases hst : s.station? h with
  | none => simp [hst] at hb
  | some st =>
    cases hs : st.state with
    | associated =>
      simp only [hst, hs, Option.some.injEq] at hb
      simp [lingerDue, ← hb, hs]
    | inHandover claimant deadline tag =>
      simp only [hst, hs, Option.some.injEq] at hb
      simp [lingerDue, ← hb, hs]
    | lingering deadline tag =>
      simp only [hst, hs] at hb
      simp [State.station?] at hb

/-- No station of `s` is due, by a test of its state. -/
def State.noneDue (s : State) (due : Station → Bool) : Prop :=
  ∀ h b, s.station? h = some b → due b = false

section
variable {due : Station → Bool} (hcongr : ∀ a b : Station, b.state = a.state → due b = due a)
  (hassociated : ∀ b : Station, b.state = .associated → due b = false)
include hcongr hassociated

/-- No act makes a station due. -/
theorem RecordFrame.keepsDue {s t : State} (f : RecordFrame becomesAssociated s t) {h : Handle} {b : Station}
    (hb : t.station? h = some b) (hd : due b = true) : ∃ a, s.station? h = some a ∧ due a = true := by
  rcases f.states h b hb with ⟨a, ha, hba⟩ | hassoc
  · exact ⟨a, ha, hcongr a b hba ▸ hd⟩
  · exact absurd (hassociated b hassoc) (by simp [hd])

theorem RecordFrame.noneDue {s t : State} (f : RecordFrame becomesAssociated s t) (hs : s.noneDue due) :
    t.noneDue due := by
  intro h b hb
  by_contra hd
  obtain ⟨a, ha, had⟩ := f.keepsDue hcongr hassociated hb (by simpa using hd)
  simp [hs h a ha] at had

/-- Where every station that is due is taken, none is due afterwards. -/
theorem noneDue_foldl {act : State → Handle → State} (hact : ∀ s h, RecordFrame becomesAssociated s (act s h))
    (htakes : ∀ s h b, (act s h).station? h = some b → due b = false) (l : List Handle) (s : State)
    (hl : ∀ h b, s.station? h = some b → due b = true → h ∈ l) : (l.foldl act s).noneDue due := by
  induction l generalizing s with
  | nil =>
    intro h b hb
    by_contra hd
    simpa using hl h b hb (by simpa using hd)
  | cons g l ih =>
    refine ih _ fun h b hb hd => ?_
    obtain ⟨a, ha, had⟩ := (hact s g).keepsDue hcongr hassociated hb hd
    rcases List.mem_cons.1 (hl h a ha had) with rfl | hmem
    · simp [htakes s h b hb] at hd
    · exact hmem

end

theorem claimDue_congr (now : FrameNo) (a b : Station) (h : b.state = a.state) : claimDue now b = claimDue now a := by
  simp [claimDue, h]

theorem claimDue_of_associated (now : FrameNo) (b : Station) (h : b.state = .associated) : claimDue now b = false := by
  simp [claimDue, h]

theorem lingerDue_congr (now : FrameNo) (a b : Station) (h : b.state = a.state) : lingerDue now b = lingerDue now a := by
  simp [lingerDue, h]

theorem lingerDue_of_associated (now : FrameNo) (b : Station) (h : b.state = .associated) : lingerDue now b = false := by
  simp [lingerDue, h]

/-- Once what is due is taken, no claim deadline is reached (R46). -/
theorem settle_noClaimDue {s : State} (hw : tableWf s.stations = true) : s.settle.noneDue (claimDue s.clock.frame) := by
  have taken : s.actClaimDeadline.noneDue (claimDue s.clock.frame) :=
    noneDue_foldl (claimDue_congr _) (claimDue_of_associated _) (RecordFrame.expireClaim becomesAssociated_associated)
      (fun s h b hb => expireClaim_takes hb _) s.claimsDue s fun h b hb hd => (mem_claimsDue hw h).2 ⟨b, hb, hd⟩
  exact (((RecordFrame.actLingerExpiry _).trans (.actDrainCompletion _)).trans (.actSurgeEnd _)).noneDue
    (claimDue_congr _) (claimDue_of_associated _) taken

/-- Once what is due is taken, no linger deadline is reached (R30). -/
theorem settle_noLingerDue {s : State} (hw : tableWf s.stations = true) : s.settle.noneDue (lingerDue s.clock.frame) := by
  have claims := RecordFrame.actClaimDeadline becomesAssociated_associated s
  have taken : s.actClaimDeadline.actLingerExpiry.noneDue (lingerDue s.clock.frame) :=
    noneDue_foldl (lingerDue_congr _) (lingerDue_of_associated _) RecordFrame.expireLinger
      (fun s h b hb => expireLinger_takes hb _) s.actClaimDeadline.lingersDue s.actClaimDeadline fun h b hb hd =>
        (mem_lingersDue (claims.wf hw) h).2 ⟨b, hb, by rwa [claims.clock]⟩
  exact ((RecordFrame.actDrainCompletion _).trans (.actSurgeEnd _)).noneDue
    (lingerDue_congr _) (lingerDue_of_associated _) taken

/-! ## Deadlines -/

theorem deadlineNear_congr (now : FrameNo) {a b : Station} (h : b.state = a.state) :
    deadlineNear now b ↔ deadlineNear now a := by
  simp [deadlineNear, h]

/-- A deadline as CLAIM and DETACH set it is near (R3, R28, R39). -/
theorem deadlineNear_of_newDeadline {s : State} (hw : s.venue.handoverWindow ≤ 64) (hl : s.venue.lingerTime ≤ 60000)
    {b : Station} (h : s.newDeadline b.state) : deadlineNear s.clock.frame b := by
  unfold deadlineNear
  cases hs : b.state with
  | associated => trivial
  | inHandover c deadline tag =>
    simp only [hs, State.newDeadline] at h
    subst h
    dsimp only
    bv_omega
  | lingering deadline tag =>
    simp only [hs, State.newDeadline] at h
    subst h
    dsimp only
    bv_omega

/-- A near deadline that the counter has not reached is near when the counter has advanced (R11). -/
theorem deadlineNear_succ {now : FrameNo} {b : Station} (h : deadlineNear now b) (hc : claimDue now b = false)
    (hl : lingerDue now b = false) : deadlineNear (now + 1) b := by
  unfold deadlineNear claimDue lingerDue at *
  cases hs : b.state with
  | associated => trivial
  | inHandover c deadline tag =>
    simp only [hs, decide_eq_false_iff_not] at h hc ⊢
    bv_omega
  | lingering deadline tag =>
    simp only [hs, decide_eq_false_iff_not] at h hl ⊢
    bv_omega

/-- The deadlines of a running match stay near under a change within the frame. -/
theorem MatchFrame.deadlinesOk {s t : State} (f : MatchFrame fresh s t)
    (hfresh : ∀ b : Station, fresh b.state → deadlineNear s.clock.frame b) (h : s.deadlinesOk)
    (hl : t.lifecycleOk) : t.deadlinesOk := by
  obtain ⟨_, hwf, hwindow, hlinger, hnear⟩ := h
  refine ⟨hl, f.wf hwf, by rwa [f.venue], by rwa [f.venue], fun g b hb => ?_⟩
  rw [f.frame]
  rcases f.states g b hb with ⟨a, ha, hba⟩ | hnew
  · exact (deadlineNear_congr _ hba).2 (hnear g a ha)
  · exact hfresh b hnew

theorem deadlineNear_of_becomesAssociated {now : FrameNo} (b : Station) (h : becomesAssociated b.state) :
    deadlineNear now b := by
  unfold deadlineNear
  rw [show b.state = .associated from h]
  trivial

/-- A venue as SET_VENUE gives it keeps the longest deadlines (R3). -/
theorem venueOf_bounds (cmd : Cmd) (src : FrameSource) :
    (venueOf cmd src).handoverWindow ≤ 64 ∧ (venueOf cmd src).lingerTime ≤ 60000 := by
  have clamped : ∀ lo hi v : Nat, lo ≤ hi → clampTo lo hi v ≤ hi := by
    intro lo hi v h
    unfold clampTo
    split
    · exact h
    · split <;> omega
  exact ⟨clamped 2 64 _ (by decide), clamped 200 60000 _ (by decide)⟩

/-- A part with no station and a venue in its bounds has every deadline near. -/
theorem deadlinesOk_of_noStations {s : State} (hl : s.lifecycleOk) (hst : s.stations = [])
    (hv : s.venue.handoverWindow ≤ 64 ∧ s.venue.lingerTime ≤ 60000) : s.deadlinesOk :=
  ⟨hl, by rw [hst]; rfl, hv.1, hv.2, fun h b hb => by simp [State.station?, hst] at hb⟩

theorem SetupFrame.deadlinesOk {s t : State} (f : SetupFrame s t) (h : s.deadlinesOk) (hs : s.device = .setup) :
    t.deadlinesOk := by
  obtain ⟨hl, _, hwindow, hlinger, _⟩ := h
  have none : s.stations = [] := by
    simp only [State.lifecycleOk, hs] at hl
    obtain ⟨_, _, _, hstations, _⟩ := hl
    exact hstations
  refine deadlinesOk_of_noStations (f.lifecycleOk hl) (f.stations.trans none) ?_
  rcases f.venue with hv | ⟨cmd, src, hv⟩
  · exact hv ▸ ⟨hwindow, hlinger⟩
  · exact hv ▸ venueOf_bounds cmd src

/-- Where no deadline is reached, every deadline is near for the next frame. -/
theorem State.deadlinesOk.advanceFrame {s : State} (h : s.deadlinesOk) (hclaims : s.noneDue (claimDue s.clock.frame))
    (hlingers : s.noneDue (lingerDue s.clock.frame)) (now : Instant) : (s.advanceFrame now).deadlinesOk := by
  obtain ⟨hl, hwf, hwindow, hlinger, hnear⟩ := h
  exact ⟨lifecycleOk_advanceFrame hl now, hwf, hwindow, hlinger, fun g b hb =>
    deadlineNear_succ (hnear g b hb) (hclaims g b hb) (hlingers g b hb)⟩

/-- What the last boundary has left due taken, every deadline is near, also for the next frame. -/
theorem deadlinesOk_settle {s : State} (h : s.deadlinesOk) (hs : s.device = .service) (now : Instant) :
    s.settle.deadlinesOk ∧ (s.settle.advanceFrame now).deadlinesOk := by
  have settled := RecordFrame.settle becomesAssociated_associated s
  have hok : s.settle.deadlinesOk :=
    settled.toMatch.deadlinesOk deadlineNear_of_becomesAssociated h (settled.toMatch.lifecycleOk h.1 hs)
  have hwf := h.2.1
  refine ⟨hok, hok.advanceFrame ?_ ?_ now⟩
  · rw [settled.clock]
    exact settle_noClaimDue hwf
  · rw [settled.clock]
    exact settle_noLingerDue hwf

/-- Every row keeps every deadline near (R11, R28, R39). -/
theorem Effect.deadlinesOk {i : Instr} {s t : State} (he : Effect s i t) (h : s.deadlinesOk) : t.deadlinesOk := by
  have hreset : s.resetPart.deadlinesOk := deadlinesOk_of_noStations (lifecycleOk_resetPart s) rfl
    (by decide : State.reset.venue.handoverWindow ≤ 64 ∧ State.reset.venue.lingerTime ≤ 60000)
  cases hs : s.device with
  | setup =>
    rcases he.setup h.1 hs with ⟨_, rfl⟩ | f
    · exact hreset
    · exact f.deadlinesOk h hs
  | service =>
    have hl := he.lifecycleOk h.1
    have hsettle := deadlinesOk_settle h hs
    obtain ⟨_, _, hwindow, hlinger, _⟩ := (hsettle 0).1
    rcases he.service hs with ⟨_, rfl⟩ | ⟨p, cmd, rfl⟩ | f | f | ⟨now, f⟩
    · exact hreset
    · exact deadlinesOk_of_noStations hl rfl ⟨hwindow, hlinger⟩
    · exact f.deadlinesOk deadlineNear_of_becomesAssociated h hl
    · exact f.deadlinesOk (fun b => deadlineNear_of_newDeadline hwindow hlinger) (hsettle 0).1 hl
    · exact f.deadlinesOk deadlineNear_of_becomesAssociated (hsettle now).2 hl

end Sys2Proof.Machine

open Sys2Proof Sys2Proof.Machine

/-- Settles O60, by the kinds of effect that a row can have: in SERVICE what is due is taken before the counter moves on. -/
theorem stepKeepsDeadlinesOk : Obligations.StepKeepsDeadlinesOk := by
  intro s t hs ht
  unfold step at ht
  split at ht
  · cases ht
    exact hs
  · next c rest _ => exact (effect_of_exec ht).deadlinesOk (s := { s with pending := rest }) hs
end

section
namespace Sys2Proof.Machine

open Sys2Proof

/-! ## Reading operands, tables and lists in order -/

/-- The first element of a list in ascending order that passes a test. -/
theorem find?_of_sorted {α : Type} [LinearOrder α] {l : List α} (hl : l.Pairwise (· < ·)) {f : α → Bool} {x : α}
    (hx : x ∈ l) (hf : f x = true) (hbelow : ∀ y ∈ l, y < x → f y = false) : l.find? f = some x := by
  induction l with
  | nil => simp at hx
  | cons y l ih =>
    obtain ⟨hy, hl⟩ := List.pairwise_cons.1 hl
    rcases List.mem_cons.1 hx with rfl | hmem
    · simp [hf]
    · rw [List.find?_cons_of_neg (by simp [hbelow y (by simp) (hy x hmem)])]
      exact ih hl hmem fun z hz => hbelow z (List.mem_cons_of_mem _ hz)

/-- The answer of the first element of a list in ascending order that gives one. -/
theorem findSome?_of_sorted {α β : Type} [LinearOrder α] {l : List α} (hl : l.Pairwise (· < ·)) {f : α → Option β} {x : α}
    {b : β} (hx : x ∈ l) (hf : f x = some b) (hbelow : ∀ y ∈ l, y < x → f y = none) : l.findSome? f = some b := by
  induction l with
  | nil => simp at hx
  | cons y l ih =>
    obtain ⟨hy, hl⟩ := List.pairwise_cons.1 hl
    rcases List.mem_cons.1 hx with rfl | hmem
    · simp [hf]
    · rw [List.findSome?_cons, hbelow y (by simp) (hy x hmem)]
      exact ih hl hmem fun z hz => hbelow z (List.mem_cons_of_mem _ hz)

/-- The part of a list in ascending order from one of its elements on begins with that element. -/
theorem filter_le_of_sorted {α : Type} [LinearOrder α] {l : List α} (hl : l.Pairwise (· < ·)) {x : α} (hx : x ∈ l) :
    (l.filter fun y => decide (x ≤ y)) = x :: l.filter fun y => decide (x < y) := by
  induction l with
  | nil => simp at hx
  | cons y l ih =>
    obtain ⟨hy, hl⟩ := List.pairwise_cons.1 hl
    rcases List.mem_cons.1 hx with rfl | hmem
    · have above : ∀ z ∈ l, decide (x ≤ z) = decide (x < z) := fun z hz => by simp [hy z hz, (hy z hz).le]
      simp [List.filter_congr above]
    · have below : y < x := hy x hmem
      simp [below.not_ge, below.not_gt, ih hl hmem]

theorem mem_allPorts (p : PortId) : p ∈ allPorts := by
  revert p
  decide

theorem allPorts_sorted : allPorts.Pairwise (· < ·) := by decide

theorem mem_allSectors (sec : SectorId) : sec ∈ allSectors := by
  revert sec
  decide

theorem allSectors_sorted : allSectors.Pairwise (· < ·) := by decide

@[simp] theorem mem_sectorsUsed (s : State) (sec : SectorId) :
    sec ∈ s.sectorsUsed ↔ sec.val < s.venue.sectorsInUse := by
  simp [State.sectorsUsed, mem_allSectors]

theorem sectorsUsed_sorted (s : State) : s.sectorsUsed.Pairwise (· < ·) :=
  allSectors_sorted.sublist List.filter_sublist

/-- The records of a table of a function's values, over some keys. -/
theorem tableFind_filterMap {α : Type} [DecidableEq α] (d : α) (f : Nat → α) (l : List Nat) (k : Nat) :
    tableFind (l.filterMap fun j => if f j = d then none else some (j, f j)) k =
      if k ∈ l ∧ f k ≠ d then some (f k) else none := by
  induction l with
  | nil => simp
  | cons j l ih =>
    by_cases hk : k = j
    · subst hk
      by_cases hf : f k = d <;> simp [hf, ih, tableFind_cons]
    · by_cases hf : f j = d <;> simp [hf, ih, tableFind_cons, hk, Ne.symm hk]

/-- A table of a function's values reads as the function. -/
theorem tableRead_tableOf {α : Type} [DecidableEq α] (d : α) {n : Nat} (f : Nat → α) {k : Nat} (hk : k < n) :
    tableRead d (tableOf d n f) k = f k := by
  rw [tableRead, tableOf, tableFind_filterMap]
  by_cases hf : f k = d <;> simp [hf, hk]

theorem asSector_of_val {w : Word} {sec : SectorId} (h : w.toNat = sec.val) : asSector w = some sec := by
  unfold asSector
  rw [dif_pos (h ▸ sec.isLt)]
  exact congrArg some (Fin.ext h)

theorem asSector_of_large {w : Word} (h : 31 < w.toNat) : asSector w = none := by
  unfold asSector
  rw [dif_neg (by omega)]

/-- A value brought into its range. -/
theorem clampTo_eq {lo hi : Nat} (h : lo ≤ hi) (v : Nat) : clampTo lo hi v = max lo (min hi v) := by
  unfold clampTo
  split
  · omega
  · split <;> omega

theorem setPort_port (s : State) (p : PortId) : s.setPort p (s.port p) = s := by
  match p with
  | 0 => rfl
  | 1 => rfl
  | 2 => rfl
  | 3 => rfl

end Sys2Proof.Machine
end

section
namespace Sys2Proof.Machine

open Sys2Proof

/-! ## The rows of events -/

theorem exec_frameStrobe (now : Instant) (early : List BoundaryAct) (s : State) :
    exec (.frameStrobe now early) s = .next (s.settle.frameStrobe now early) := rfl

theorem exec_strobeLossExpiry (early : List BoundaryAct) (s : State) :
    exec (.strobeLossExpiry early) s = .next (s.settle.strobeLossExpiry early) := rfl

theorem exec_dividerExpiry (early : List BoundaryAct) (s : State) :
    exec (.dividerExpiry early) s = .next (s.settle.dividerExpiry early) := rfl

theorem exec_momentPulse (now : Instant) (s : State) :
    exec (.momentPulse now) s = .next (s.settle.momentPulse now) := rfl

theorem exec_sectorBuildCompletion (s : State) : exec .sectorBuildCompletion s = .next s.settle.finishBuild := rfl

theorem exec_busGrant (lines : BitVec 4) (s : State) : exec (.busGrant lines) s = .next (s.settle.grantBus lines) := rfl

theorem exec_acknowledgeRaised (p : PortId) (s : State) :
    exec (.acknowledgeRaised p) s = .next (s.settle.raiseAcknowledge p) := rfl

theorem exec_grantWithdrawn (p : PortId) (s : State) :
    exec (.grantWithdrawn p) s = .next (s.settle.withdrawGrant p) := rfl

theorem exec_acknowledgeDropped (p : PortId) (s : State) :
    exec (.acknowledgeDropped p) s = .next (s.settle.dropAcknowledge p) := rfl

theorem exec_planWindowRead (p : PortId) (w : BitVec 15) (s : State) :
    exec (.planWindowRead p w) s = .next (s.settle.busRead p (planWordAddr w)) := rfl

theorem exec_producerIndexWrite (p : PortId) (v : Word) (s : State) :
    exec (.producerIndexWrite p v) s = .next (s.settle.busWrite p (ownWord p 0x600) v) := rfl

theorem exec_noticeHeadWrite (p : PortId) (v : Word) (s : State) :
    exec (.noticeHeadWrite p v) s = .next (s.settle.busWrite p (ownWord p 0x602) v) := rfl

theorem exec_attentionRequestSet (p : PortId) (b : BitVec 31) (s : State) :
    exec (.attentionRequestSet p b) s = .next (s.settle.busWrite p (ownWord p 0x604) (setForm b)) := rfl

theorem exec_attentionRequestClear (p : PortId) (b : BitVec 31) (s : State) :
    exec (.attentionRequestClear p b) s = .next (s.settle.busWrite p (ownWord p 0x604) (clearForm b)) := rfl

theorem exec_attentionEnableSet (p : PortId) (b : BitVec 31) (s : State) :
    exec (.attentionEnableSet p b) s = .next (s.settle.busWrite p (ownWord p 0x605) (setForm b)) := rfl

theorem exec_attentionEnableClear (p : PortId) (b : BitVec 31) (s : State) :
    exec (.attentionEnableClear p b) s = .next (s.settle.busWrite p (ownWord p 0x605) (clearForm b)) := rfl

theorem exec_portReset (p : PortId) (b : BitVec 31) (s : State) :
    exec (.portReset p b) s = .next (s.settle.busWrite p (ownWord p 0x606) (setForm b)) := rfl

theorem exec_wordWrite (p : PortId) (a : WordAddr) (v : Word) (s : State) :
    exec (.wordWrite p a v) s = .next (s.settle.busWrite p a v) := rfl

theorem exec_wordRead (p : PortId) (a : WordAddr) (s : State) :
    exec (.wordRead p a) s = .next (s.settle.busRead p a) := rfl

theorem exec_badCodeElement (p : PortId) (s : State) :
    exec (.badCodeElement p) s = .next (s.settle.serveBadCode p) := rfl

theorem exec_overlongChain (p : PortId) (s : State) :
    exec (.overlongChain p) s = .next (s.settle.serveOverlongAt p) := rfl

/-! ## Events that are not due -/

theorem serve_of_absent {p : PortId} {c : Command} {s : State}
    (h : ∀ cmd, takeable (s.port p) = some cmd → cmd.code ≠ commandCode c) (body : Cmd → State → Reply) :
    serve p c body s = s := by
  rcases serve_cases p c body s with ⟨hs, _⟩ | ⟨cmd, ht, hc, _⟩
  · exact hs
  · exact absurd hc (h cmd ht)

theorem isCommandCode_commandCode (c : Command) : isCommandCode (commandCode c) = true := by
  cases c <;> rfl

theorem serveBadCode_of_command {s : State} {p : PortId}
    (h : ∀ cmd, takeable (s.port p) = some cmd → ∃ c, cmd.code = commandCode c) : s.serveBadCode p = s := by
  unfold State.serveBadCode
  split
  · rfl
  · next cmd ht =>
    obtain ⟨c, hc⟩ := h cmd ht
    rw [hc, isCommandCode_commandCode, if_pos rfl]

theorem commandLength_ne_five {u : PortUnit} {i : Nat} (hi : i < 4) (h : chained u i = false) : commandLength u ≠ 5 := by
  unfold commandLength
  match i with
  | 0 => simp [h]
  | 1 => cases chained u 0 <;> simp [h]
  | 2 => cases chained u 0 <;> cases chained u 1 <;> simp [h]
  | 3 => cases chained u 0 <;> cases chained u 1 <;> cases chained u 2 <;> simp [h]

/-- No over-long run is begun or continued at a port that is QUARANTINED, has no posted element, or shows none (R155). -/
theorem serveOverlong_of_none {u : PortUnit} (h : u.state = .quarantined ∨ posted u = 0 ∨
    (u.overlong = none ∧ (posted u < 5 ∨ ∃ i < 4, chained u i = false))) : serveOverlong u = u := by
  unfold serveOverlong
  split
  · rfl
  · next hq =>
    split
    · next notify ho =>
      rcases h with h | h | ⟨h, _⟩
      · exact absurd h hq
      · rw [h]
        rfl
      · rw [h] at ho
        cases ho
    · split
      · next hrun =>
        rcases h with h | h | ⟨_, h | ⟨i, hi, hc⟩⟩
        · exact absurd h hq
        · omega
        · omega
        · exact absurd hrun.1 (commandLength_ne_five hi hc)
      · rfl

section
variable {s : State}

theorem busRead_of_not_holder {p : PortId} (h : s.arbiter.holder ≠ some p) (a : WordAddr) : s.busRead p a = s :=
  if_neg h

theorem busWrite_of_not_holder {p : PortId} (h : s.arbiter.holder ≠ some p) (a : WordAddr) (v : Word) :
    s.busWrite p a v = s :=
  if_neg h

theorem passesGuard_iff (s : State) (now : Instant) :
    s.passesGuard now = true ↔ s.clock.lastBoundary + 2560000 ≤ now :=
  decide_eq_true_iff

theorem frameStrobe_of_stopped (h : s.clock.state = .stopped) (now : Instant) (early : List BoundaryAct) :
    s.frameStrobe now early = s := by
  simp [State.frameStrobe, h]

theorem frameStrobe_of_early {now : Instant} (h : now < s.clock.lastBoundary + 2560000) (early : List BoundaryAct) :
    s.frameStrobe now early = s := by
  have hg : ¬s.passesGuard now = true := fun hg => absurd ((passesGuard_iff s now).1 hg) (Nat.not_le.2 h)
  unfold State.frameStrobe
  split
  · rfl
  · simp [hg]
  · simp [hg]

theorem frameStrobe_of_internal (h : s.clock.state = .internal) (hv : s.venue.frameSource = .internal) (now : Instant)
    (early : List BoundaryAct) : s.frameStrobe now early = s := by
  simp [State.frameStrobe, h, hv]

theorem strobeLossExpiry_of_ne (h : s.clock.state ≠ .external) (early : List BoundaryAct) :
    s.strobeLossExpiry early = s := by
  unfold State.strobeLossExpiry
  split
  · rfl
  · rfl
  · next he => exact absurd he h

theorem dividerExpiry_of_ne (h : s.clock.state ≠ .internal) (early : List BoundaryAct) : s.dividerExpiry early = s := by
  unfold State.dividerExpiry
  split
  · rfl
  · rfl
  · next he => exact absurd he h

theorem momentPulse_of_not_armed (h : ∀ v m, s.latch ≠ .armed v m) (now : Instant) : s.momentPulse now = s := by
  unfold State.momentPulse
  split
  · rfl
  · rfl
  · next v m ha => exact absurd ha (h v m)

theorem finishBuild_of_no_pass (h : s.pass = none) : s.finishBuild = s := by
  simp [State.finishBuild, h]

theorem actSurgeEnd_of_none (h : ∀ g, s.surge = some g → g.endFrame ≠ s.clock.frame) : s.actSurgeEnd = s := by
  unfold State.actSurgeEnd
  split
  · rfl
  · next g hg => exact if_neg (h g hg)

theorem actClaimDeadline_of_none (h : ∀ e ∈ s.stations, claimDue s.clock.frame e.2 = false) :
    s.actClaimDeadline = s := by
  have none : s.claimsDue = [] := by
    rw [State.claimsDue, List.map_eq_nil_iff, List.filter_eq_nil_iff]
    exact fun e he => by simp [h e he]
  rw [State.actClaimDeadline, none]
  rfl

theorem actLingerExpiry_of_none (h : ∀ e ∈ s.stations, lingerDue s.clock.frame e.2 = false) : s.actLingerExpiry = s := by
  have none : s.lingersDue = [] := by
    rw [State.lingersDue, List.map_eq_nil_iff, List.filter_eq_nil_iff]
    exact fun e he => by simp [h e he]
  rw [State.actLingerExpiry, none]
  rfl

theorem actDrainCompletion_of_none (h : ∀ x, drainDue s.clock.frame (s.stream x).state = false) :
    s.actDrainCompletion = s := by
  have none : s.drainsDue = [] := by
    rw [State.drainsDue, List.filter_eq_nil_iff]
    exact fun x _ => by simp [h x]
  rw [State.actDrainCompletion, none]
  rfl

end

/-! ## The Port Unit's checks -/

section
variable {s : State} {p : PortId} {c : Command} {cmd : Cmd}

theorem exec_rowOf_of_posts (h : s.posts p c cmd) (now : Instant) :
    exec (rowOf c p now) s = .next (finishCommand p cmd (checkedReply p c cmd (bodyOf c p now) s)) := by
  obtain ⟨hs, ht, hc⟩ := h
  rw [exec_rowOf_of_settled hs]
  simp [serve, ht, hc]

theorem checkedReply_of_badLength (h : ¬lengthOk c cmd.elements.length = true) (body : Cmd → State → Reply) :
    checkedReply p c cmd body s = ⟨.badLength, [], s⟩ := by
  simp [checkedReply, h, refuse]

theorem checkedReply_of_notPermitted (hl : lengthOk c cmd.elements.length = true) (h : ¬permits (s.port p) c = true)
    (body : Cmd → State → Reply) : checkedReply p c cmd body s = ⟨.notPermitted, [], s⟩ := by
  simp [checkedReply, hl, h, refuse]

theorem checkedReply_of_stateRefusal (hl : lengthOk c cmd.elements.length = true) (hp : permits (s.port p) c = true)
    {st : Status} (h : stateRefusal s.device c = some st) (body : Cmd → State → Reply) :
    checkedReply p c cmd body s = ⟨st, [], s⟩ := by
  simp [checkedReply, hl, hp, h, refuse]

end

theorem isDeclared_iff (u : PortUnit) : isDeclared u = true ↔ u.role ≠ .none := by
  unfold isDeclared
  cases u.role <;> simp

theorem isCellPort_iff (u : PortUnit) : isCellPort u = true ↔ ∃ first last, u.role = .cell first last := by
  unfold isCellPort
  cases u.role <;> simp

theorem isGatePort_iff (u : PortUnit) : isGatePort u = true ↔ u.role = .gate := by
  unfold isGatePort
  cases u.role <;> simp

theorem isReplayPort_iff (u : PortUnit) : isReplayPort u = true ↔ u.role = .replay := by
  unfold isReplayPort
  cases u.role <;> simp

/-- The commands that SERVICE refuses (R1). -/
def setupOnly (c : Command) : Prop := c = .declarePort ∨ c = .setVenue ∨ c = .openMatch

/-- The commands that both device states let through (R1). -/
def inEitherState (c : Command) : Prop := c = .loadTickets ∨ c = .readStation ∨ c = .readTicket ∨ c = .readStream ∨
  c = .readCarriage ∨ c = .readZone ∨ c = .readCell

theorem stateRefusal_service (c : Command) : (setupOnly c → stateRefusal .service c = some .notInSetup) ∧
    (stateRefusal .service c = none ↔ ¬setupOnly c) := by
  cases c <;> simp [stateRefusal, setupOnly]

theorem stateRefusal_setup (c : Command) :
    (¬setupOnly c → ¬inEitherState c → stateRefusal .setup c = some .notOpen) ∧
      (stateRefusal .setup c = none ↔ setupOnly c ∨ inEitherState c) := by
  cases c <;> simp [stateRefusal, setupOnly, inEitherState]

/-! ## The Moment Latch -/

theorem momentRecord (slot : Nat) (hslot : slot < 128) (value mask : SectorId) (frame : FrameNo) :
    noticeRecord (.moment slot value mask) 0 frame frame =
      [BitVec.ofNat 32 (0x11 * 2 ^ 24 + slot * 2 ^ 17), 0, frame,
        BitVec.ofNat 32 (value.val * 2 ^ 27 + mask.val * 2 ^ 22)] := by
  have hword0 : packFields 32 [(8, 0x11), (24, packFields 24 [(7, slot)])] = 0x11 * 2 ^ 24 + slot * 2 ^ 17 := by
    simp only [packFields]
    omega
  have hword3 : packFields 32 [(16, packFields 16 [(5, value.val), (5, mask.val)]), (16, 0)] =
      value.val * 2 ^ 27 + mask.val * 2 ^ 22 := by
    simp only [packFields]
    omega
  simp only [noticeRecord, noticeBody, noticeKind, hword0, hword3]

end Sys2Proof.Machine

open Sys2Proof Sys2Proof.Machine

/-- Settles O1: the step takes the front of the queue. -/
theorem stepRunsFrontCommand : Obligations.StepRunsFrontCommand := by
  refine ⟨fun c rest s => rfl, fun s hs => ?_⟩
  unfold step
  rw [hs]

/-- Settles O3, row by row: what is not due leaves the state, and where nothing is due nothing comes before the row. -/
theorem eventsNotDueChangeNothing : Obligations.EventsNotDueChangeNothing := by
  refine ⟨fun s hs => ?_, fun s h => ?_, fun s h => ?_, fun s h => ?_, fun s h => ?_⟩
  · have settle := settle_of_settled hs
    refine ⟨fun c p now h => ?_, fun p h => ?_, fun p h => ?_, fun p h => ?_, fun p h => ?_, fun h => ?_,
      fun h early => ?_, fun h early => ?_, fun now early h => ?_, fun now h => ?_, fun h => ?_⟩
    · rw [exec_rowOf, settle, serve_of_absent h]
    · rw [exec_badCodeElement, settle, serveBadCode_of_command h]
    · rw [exec_overlongChain, settle, State.serveOverlongAt, serveOverlong_of_none h, setPort_port]
    · have read : ∀ a, Host.Outcome.next (s.settle.busRead p a) = (.next s : Host.Outcome State Fault Refusal) :=
        fun a => by rw [settle, busRead_of_not_holder h]
      have write : ∀ a v, Host.Outcome.next (s.settle.busWrite p a v) = (.next s : Host.Outcome State Fault Refusal) :=
        fun a v => by rw [settle, busWrite_of_not_holder h]
      exact ⟨by rw [exec_acknowledgeDropped, settle, State.dropAcknowledge, if_neg h], fun w => read _, read, write,
        write _, write _, fun b => ⟨write _ _, write _ _, write _ _, write _ _, write _ _⟩⟩
    · rw [exec_acknowledgeRaised, exec_grantWithdrawn, settle, State.raiseAcknowledge, State.withdrawGrant, if_neg h,
        if_neg h]
      exact ⟨rfl, rfl⟩
    · refine ⟨fun now early => ?_, fun early => ⟨?_, ?_⟩⟩
      · rw [exec_frameStrobe, settle, frameStrobe_of_stopped h]
      · rw [exec_strobeLossExpiry, settle, strobeLossExpiry_of_ne (by simp [h])]
      · rw [exec_dividerExpiry, settle, dividerExpiry_of_ne (by simp [h])]
    · rw [exec_strobeLossExpiry, settle, strobeLossExpiry_of_ne (by simp [h])]
    · rw [exec_dividerExpiry, settle, dividerExpiry_of_ne (by simp [h])]
    · rw [exec_frameStrobe, settle]
      rcases h with h | ⟨h, hv⟩
      · rw [frameStrobe_of_early h]
      · rw [frameStrobe_of_internal h hv]
    · rw [exec_momentPulse, settle, momentPulse_of_not_armed h]
    · rw [exec_sectorBuildCompletion, settle, finishBuild_of_no_pass h]
  · exact congrArg Host.Outcome.next (actSurgeEnd_of_none h)
  · exact congrArg Host.Outcome.next (actClaimDeadline_of_none h)
  · exact congrArg Host.Outcome.next (actLingerExpiry_of_none h)
  · exact congrArg Host.Outcome.next (actDrainCompletion_of_none h)

/-- Settles O4: each record reads as its value after RESET. -/
theorem resetReturnsEveryRecord : Obligations.ResetReturnsEveryRecord := by
  intro s
  have ports : ∀ p, s.resetPart.port p = {} := fun p => by
    match p with
    | 0 => rfl
    | 1 => rfl
    | 2 => rfl
    | 3 => rfl
  refine ⟨s.resetPart, rfl, rfl, rfl, rfl, rfl, rfl, rfl, rfl, rfl, rfl, rfl, Nat.zero_add 65536, fun _ => rfl, rfl,
    rfl, rfl, fun _ => rfl, fun _ => rfl, rfl, rfl, fun _ => rfl, fun _ => rfl, rfl, rfl, fun p => ?_, rfl, rfl, rfl⟩
  rw [ports]
  exact ⟨rfl, rfl⟩

/-- Settles O14: the statement's conditions are the three checks of the Port Unit, in their order. -/
theorem portUnitChecksInOrder : Obligations.PortUnitChecksInOrder := by
  refine ⟨fun c p now s cmd hposts => ?_, rfl, rfl, rfl, rfl⟩
  intro n role badLength mayIssue only either
  have hlength : badLength ↔ ¬lengthOk c cmd.elements.length = true := by
    cases c <;> simp [badLength, n, lengthOk]
  have hrole : mayIssue ↔ permits (s.port p) c = true := by
    cases c <;>
      simp only [mayIssue, role, permits, isDeclared_iff, isCellPort_iff, isGatePort_iff, isReplayPort_iff]
  obtain ⟨hnotInSetup, hservice⟩ := stateRefusal_service c
  obtain ⟨hnotOpen, hsetup⟩ := stateRefusal_setup c
  rw [exec_rowOf_of_posts hposts]
  refine ⟨fun hl => ?_, fun hl hp => ?_, fun hl hp hd ho => ?_, fun hl hp hd ho he => ?_, ?_⟩
  · rw [checkedReply_of_badLength (hlength.1 hl)]
  · rw [checkedReply_of_notPermitted (by simpa [hlength] using hl) (by rwa [← hrole])]
  · rw [checkedReply_of_stateRefusal (by simpa [hlength] using hl) (hrole.1 hp) (hd ▸ hnotInSetup ho)]
  · rw [checkedReply_of_stateRefusal (by simpa [hlength] using hl) (hrole.1 hp) (hd ▸ hnotOpen ho he)]
  · have hstate : stateRefusal s.device c = none ↔
        (s.device = .service → ¬only) ∧ (s.device = .setup → only ∨ either) := by
      cases hd : s.device with
      | setup => exact hsetup.trans ⟨fun h => ⟨fun e => (nomatch e), fun _ => h⟩, fun h => h.2 rfl⟩
      | service => exact hservice.trans ⟨fun h => ⟨fun _ => h, fun e => (nomatch e)⟩, fun h => h.1 rfl⟩
    rw [← hstate, hrole, hlength, not_not]
    exact ⟨fun h => h.2, fun h => ⟨hposts, h⟩⟩

/-- Settles O22, by the clock state. -/
theorem strobesAndExpiriesMakeBoundaries : Obligations.StrobesAndExpiriesMakeBoundaries := by
  intro s now early hs clocked
  rw [exec_frameStrobe, exec_strobeLossExpiry, exec_dividerExpiry, settle_of_settled hs]
  refine ⟨fun h => ?_, fun hc h => ?_, fun hc hv h => ?_, fun hc hv => ?_, fun hc => ?_, fun hc => ?_⟩
  · rw [frameStrobe_of_early h]
  · simp only [State.frameStrobe, hc, (passesGuard_iff s now).2 h, if_true]
    rfl
  · simp only [State.frameStrobe, hc, hv, (passesGuard_iff s now).2 h, and_self, if_true]
    rfl
  · rw [frameStrobe_of_internal hc hv]
  · simp only [State.strobeLossExpiry, hc]
    rfl
  · simp only [State.dividerExpiry, hc]
    rfl

/-- Settles O24, by the state of the latch. -/
theorem momentPulseIsLatched : Obligations.MomentPulseIsLatched := by
  intro s now hs
  rw [exec_momentPulse, settle_of_settled hs]
  constructor
  · intro value mask hl frame slot surge word0 word3
    refine ⟨_, rfl, ?_⟩
    have hslot : s.slotPosition now = slot := rfl
    have hslot' : slot < 128 := (Nat.min_le_left _ _).trans_lt (by decide)
    have hopen : ({ s with latch := .latched value mask frame slot } : State).openSurge value mask =
        { s with latch := .latched value mask frame slot, surge := surge } := by
      unfold State.openSurge
      simp only [surge]
      split
      · rfl
      · rw [BitVec.ofNat_add, BitVec.ofNat_toNat, BitVec.setWidth_eq]
    have hpulse : s.momentPulse now = ({ s with latch := .latched value mask frame slot, surge := surge } : State).notify
        isDeclared (.moment slot value mask) 0 := by
      simp only [State.momentPulse, hl, hslot]
      rw [hopen]
    rw [hpulse]
    refine ⟨rfl, fun p => ?_⟩
    rw [port_notify]
    exact congrArg (fun r => if isDeclared (s.port p) then deliver 0x11 r frame (s.port p) else s.port p)
      (momentRecord slot hslot' value mask frame)
  · intro h
    rw [momentPulse_of_not_armed fun v m ha => ?_]
    rcases h with h | ⟨v', m', f, sl, h⟩
    · rw [h] at ha; cases ha
    · rw [h] at ha; cases ha

/-- Settles O25, by the operands of ARM_MOMENT and the end frame of the surge. -/
theorem armMomentAndSurgeEnd : Obligations.ArmMomentAndSurgeEnd := by
  refine ⟨fun s p cmd h => ⟨fun value mask hv hm => ?_, fun hlarge => ?_⟩, fun s g hg he => ?_⟩
  · refine (exec_rowOf_of_passes h 0).trans ?_
    simp only [bodyOf, armMomentReply, asSector_of_val hv, asSector_of_val hm]
    cases s.latch <;> rfl
  · refine (exec_rowOf_of_passes h 0).trans ?_
    have hbad : armMomentReply cmd s = ⟨.badOperand, [], s⟩ := by
      rcases hlarge with hv | hm
      · simp only [armMomentReply, asSector_of_large hv, refuse]
      · simp only [armMomentReply, asSector_of_large hm, refuse]
        cases asSector (cmd.op 2) <;> rfl
    rw [bodyOf, hbad]
  · refine congrArg Host.Outcome.next (?_ : s.actSurgeEnd = { s with surge := none })
    simp only [State.actSurgeEnd, hg, he, if_true]
end

section
namespace Sys2Proof.Machine

open Sys2Proof

/-! ## Port declaration -/

/-- The lowest sector that a range shares with a port's range. -/
theorem sharedSector_eq {a b sec : SectorId} {u : PortUnit} (ha : a ≤ sec) (hb : sec ≤ b)
    (ho : ownsSector u sec = true) (hbelow : ∀ z, a ≤ z → z < sec → ownsSector u z = false) :
    sharedSector a b u = some sec := by
  refine find?_of_sorted allSectors_sorted (mem_allSectors sec) (by simp [ha, hb, ho]) fun z _ hz => ?_
  by_cases h : a ≤ z
  · simp [hbelow z h hz]
  · simp [h]

theorem sharedSector_eq_none {a b : SectorId} {u : PortUnit}
    (h : ∀ sec, a ≤ sec → sec ≤ b → ownsSector u sec = false) : sharedSector a b u = none := by
  rw [sharedSector, List.find?_eq_none]
  intro sec _
  by_cases hr : a ≤ sec ∧ sec ≤ b
  · simp [h sec hr.1 hr.2]
  · simp [hr]

/-- The lowest other port that shares a sector with a range, and the lowest such sector (R2). -/
theorem overlapWith_eq {s : State} {p q : PortId} {a b sec : SectorId} (hq : q ≠ p)
    (hs : sharedSector a b (s.port q) = some sec)
    (hbelow : ∀ r < q, r ≠ p → sharedSector a b (s.port r) = none) : s.overlapWith p a b = some (q, sec) := by
  refine findSome?_of_sorted (allPorts_sorted.sublist List.filter_sublist) (x := q) ?_ (by rw [hs]; rfl) ?_
  · simp [mem_allPorts, hq]
  · intro r hr hlt
    have hne : r ≠ p := by simpa using (List.mem_filter.1 hr).2
    rw [hbelow r hlt hne]
    rfl

theorem overlapWith_eq_none {s : State} {p : PortId} {a b : SectorId}
    (h : ∀ q, q ≠ p → sharedSector a b (s.port q) = none) : s.overlapWith p a b = none := by
  rw [State.overlapWith, List.findSome?_eq_none_iff]
  intro q hq
  rw [h q (by simpa using (List.mem_filter.1 hq).2)]
  rfl

/-- DECLARE_PORT as CELL with a range in order and in the venue: the port is declared where the range shares no sector, and
refused with the lowest port and sector where it does (R2). -/
theorem declareCell_of_range {p : PortId} {first last : Word} {a b : SectorId} {s : State} (ha : first.toNat = a.val)
    (hb : last.toNat = b.val) (hab : a ≤ b) (hv : b.val < s.venue.sectorsInUse) :
    (s.overlapWith p a b = none → declareCell p first last s =
      ⟨.ok, [.bytes 1 (roleCode (s.port p).role)], s.declare p (.cell a b)⟩) ∧
    ∀ q sec, s.overlapWith p a b = some (q, sec) → declareCell p first last s =
      refuse .overlap [.bytes 1 q.val, .bytes 1 sec.val] s := by
  have hrange : ¬(b < a ∨ s.venue.sectorsInUse ≤ b.val) := by
    rintro (h | h)
    · exact absurd hab (not_le.2 h)
    · omega
  refine ⟨fun h => ?_, fun q sec h => ?_⟩ <;>
    simp only [declareCell, asSector_of_val ha, asSector_of_val hb, if_neg hrange, h]

/-- DECLARE_PORT as CELL with an inverted range or one beyond the sectors in use (R2). -/
theorem declareCell_of_bad {p : PortId} {first last : Word} {s : State}
    (h : last.toNat < first.toNat ∨ s.venue.sectorsInUse ≤ last.toNat) :
    declareCell p first last s = refuse .badOperand [] s := by
  unfold declareCell
  split
  · next a b ha hb =>
    have hrange : b < a ∨ s.venue.sectorsInUse ≤ b.val := by
      unfold asSector at ha hb
      split at ha <;> cases ha
      split at hb <;> cases hb
      exact h
    rw [if_pos hrange]
  · rfl
  · rfl

/-! ## The venue -/

/-- The lowest CELL port whose range reaches to `n` or above. -/
theorem portBeyond_eq {s : State} {n : Nat} {q : PortId} (hq : ∃ first last, (s.port q).role = .cell first last ∧ n ≤ last.val)
    (hbelow : ∀ r < q, ¬∃ first last, (s.port r).role = .cell first last ∧ n ≤ last.val) : s.portBeyond n = some q := by
  obtain ⟨first, last, hr, hn⟩ := hq
  refine find?_of_sorted allPorts_sorted (mem_allPorts q) (by simp [hr, hn]) fun r _ hlt => ?_
  cases hr : (s.port r).role with
  | cell first last =>
    have : ¬n ≤ last.val := fun hn => hbelow r hlt ⟨first, last, hr, hn⟩
    simpa using this
  | none => rfl
  | gate => rfl
  | replay => rfl

theorem portBeyond_eq_none {s : State} {n : Nat}
    (h : ∀ q, ¬∃ first last, (s.port q).role = .cell first last ∧ n ≤ last.val) : s.portBeyond n = none := by
  rw [State.portBeyond, List.find?_eq_none]
  intro q _
  cases hr : (s.port q).role with
  | cell first last =>
    have : ¬n ≤ last.val := fun hn => h q ⟨first, last, hr, hn⟩
    simpa using this
  | none => simp
  | gate => simp
  | replay => simp

theorem asFrameSource_of_le {w : Word} (h : w.toNat ≤ 1) :
    asFrameSource w = some (if w.toNat = 0 then .external else .internal) := by
  have hw : w.toNat = 0 ∨ w.toNat = 1 := by omega
  rcases hw with h | h <;> simp [asFrameSource, h]

theorem asFrameSource_of_large {w : Word} (h : 1 < w.toNat) : asFrameSource w = none := by
  unfold asFrameSource
  split
  · omega
  · omega
  · rfl

theorem venueCountBad_iff (n : Nat) : venueCountBad n = true ↔ n = 0 ∨ 32 < n := by
  simp [venueCountBad]

/-! ## Opening and closing -/

theorem ownerOf_eq_none_iff (s : State) (sec : SectorId) :
    s.ownerOf sec = none ↔ ¬∃ q, ownsSector (s.port q) sec = true := by
  simp [State.ownerOf, mem_allPorts]

/-- Every entry of a default window is the default plan of its cell (R6). -/
theorem tableRead_defaultWindow (s : State) (control : Nat) (frame : Option FrameNo) (held : Bool) (c : CellId) :
    tableRead ({} : PlanEntry) (s.defaultWindow control frame held) c.val =
      ⟨defaultPlan control (s.sector (sectorOf c)).reservation, frame, held⟩ :=
  tableRead_tableOf _ _ c.isLt

/-- Every sector is STABLE with the given built-for frame, and keeps its policy (R5, R6). -/
theorem tableRead_settledSectors (s : State) (frame : Option FrameNo) (sec : SectorId) :
    tableRead ({} : Sector) (s.settledSectors frame) sec.val =
      { s.sector sec with planState := .stable, builtFor := frame } :=
  tableRead_tableOf _ _ sec.isLt

/-- The order of a pass begins with its first sector, goes on in ascending order, and ends with the sectors below it
(R142). -/
theorem passOrder_eq {s : State} {first : SectorId} (h : first.val < s.venue.sectorsInUse) :
    s.passOrder first = first ::
      ((s.sectorsUsed.filter fun sec => decide (first < sec)) ++ s.sectorsUsed.filter fun sec => decide (sec < first)) := by
  rw [State.passOrder, filter_le_of_sorted (sectorsUsed_sorted s) ((mem_sectorsUsed s first).2 h)]
  rfl

/-- The start of a pass (R142). -/
theorem beginPass_eq {s : State} (h : s.startSector.val < s.venue.sectorsInUse) (f : FrameNo) :
    s.beginPass f =
      { s.setSector s.startSector { s.sector s.startSector with planState := .rewriting } with
        pass := some ⟨f, s.startSector,
          (s.sectorsUsed.filter fun sec => decide (s.startSector < sec)) ++
            s.sectorsUsed.filter fun sec => decide (sec < s.startSector)⟩ } := by
  rw [State.beginPass, passOrder_eq h]
  rfl

end Sys2Proof.Machine

open Sys2Proof Sys2Proof.Machine

/-- Settles O18, by the role operand and, for CELL, by the lowest port and sector that overlap. -/
theorem declarePortReplacesTheDeclaration : Obligations.DeclarePortReplacesTheDeclaration := by
  intro s p cmd h replies declares
  have reply : ∀ {st items t}, declarePortReply p cmd s = ⟨st, items, t⟩ → replies st items t := fun hr =>
    (exec_rowOf_of_passes h 0).trans (by rw [bodyOf, hr])
  have cell : cmd.op 2 = 1 → declarePortReply p cmd s = declareCell p (cmd.op 3) (cmd.op 4) s := fun h => by
    simp [declarePortReply, h]
  refine ⟨fun h => reply ?_, fun h => reply ?_, fun h => reply ?_, fun h => reply ?_, fun h hbad => reply ?_,
    fun a b h ha hb hab hv => ⟨fun hfree => reply ?_, fun q sec hq hal hbl ho hports hsecs => reply ?_⟩⟩
  · simp [declarePortReply, h, State.declare]
  · simp [declarePortReply, h, State.declare]
  · simp [declarePortReply, h, State.declare]
  · unfold declarePortReply
    split
    all_goals first | omega | rfl
  · rw [cell h, declareCell_of_bad hbad, refuse]
  · rw [cell h, (declareCell_of_range ha hb hab hv).1
      (overlapWith_eq_none fun q hq => sharedSector_eq_none fun z => hfree q z hq)]
    rfl
  · have lowest : s.overlapWith p a b = some (q, sec) :=
      overlapWith_eq hq (sharedSector_eq hal hbl ho hsecs) fun r hr hne =>
        sharedSector_eq_none fun z => hports r z hr hne
    rw [cell h, (declareCell_of_range ha hb hab hv).2 q sec lowest, refuse]

/-- Settles O19, by the ranges of the operands and the ranges of the ports. -/
theorem setVenueTakesItsEightValues : Obligations.SetVenueTakesItsEightValues := by
  intro s p cmd h replies w beyond cellLimit threshold window linger surge
  have reply : ∀ {st items t}, setVenueReply cmd s = ⟨st, items, t⟩ → replies st items t := fun hr =>
    (exec_rowOf_of_passes h 0).trans (by rw [bodyOf, hr])
  have counts : 1 ≤ w 0 2 → w 0 2 ≤ 32 → 1 ≤ w 0 3 → w 0 3 ≤ 32 →
      ¬(venueCountBad (cmd.word 0 2).toNat || venueCountBad (cmd.word 0 3).toNat) = true := by
    intro h1 h2 h3 h4
    simp only [Bool.or_eq_true, venueCountBad_iff]
    change ¬((w 0 2 = 0 ∨ 32 < w 0 2) ∨ w 0 3 = 0 ∨ 32 < w 0 3)
    omega
  refine ⟨fun h1 h2 h3 h4 h5 hb => reply ?_, fun hbad => reply ?_, fun q h1 h2 h3 h4 h5 hq hlow => reply ?_⟩
  · have hcode : frameSourceCode (if (cmd.word 1 5).toNat = 0 then .external else .internal) = (cmd.word 1 5).toNat := by
      have : (cmd.word 1 5).toNat = 0 ∨ (cmd.word 1 5).toNat = 1 := by
        change w 1 5 = 0 ∨ w 1 5 = 1
        omega
      rcases this with h | h <;> simp [h, frameSourceCode]
    have hvenue : ∀ source, venueOf cmd source =
        ⟨w 0 2, w 0 3, cellLimit, threshold, window, linger, surge, source⟩ := fun source => by
      simp [venueOf, clampTo_eq, w, cellLimit, threshold, window, linger, surge]
    have hport : s.portBeyond (cmd.word 0 2).toNat = none := portBeyond_eq_none hb
    simp only [setVenueReply, asFrameSource_of_le h5, if_neg (counts h1 h2 h3 h4), hport, hvenue, venueItems, hcode, w]
  · unfold setVenueReply
    split
    · rfl
    · next src hsrc =>
      have hcount : (venueCountBad (cmd.word 0 2).toNat || venueCountBad (cmd.word 0 3).toNat) = true := by
        have hle : ¬1 < w 1 5 := fun h => by
          rw [asFrameSource_of_large h] at hsrc
          cases hsrc
        simp only [Bool.or_eq_true, venueCountBad_iff]
        change (w 0 2 = 0 ∨ 32 < w 0 2) ∨ w 0 3 = 0 ∨ 32 < w 0 3
        omega
      rw [if_pos hcount]
      rfl
  · have hport : s.portBeyond (cmd.word 0 2).toNat = some q := portBeyond_eq hq hlow
    simp only [setVenueReply, asFrameSource_of_le h5, if_neg (counts h1 h2 h3 h4), hport, refuse]

/-- Settles O20: the opening writes the default window and the settled sectors, and begins the pass at sector 0. -/
theorem openMatchStartsTheMatch : Obligations.OpenMatchStartsTheMatch := by
  intro s p now cmd h owned
  have reply : ∀ {r}, openMatchReply now cmd s = r → exec (.openMatch p now) s = .next (finishCommand p cmd r) :=
    fun hr => (exec_rowOf_of_passes h now).trans (by rw [bodyOf, hr])
  constructor
  · intro hn hstart hall
    have hnone : s.unownedSector = none := by
      rw [State.unownedSector, List.find?_eq_none]
      intro sec hsec
      have : s.ownerOf sec ≠ none := fun h =>
        (ownerOf_eq_none_iff s sec).1 h (hall sec ((mem_sectorsUsed s sec).1 hsec))
      simpa using this
    obtain ⟨pl, hpl⟩ : ∃ pl, s.defaultWindow 8 (some 0) true = pl := ⟨_, rfl⟩
    obtain ⟨se, hse⟩ : ∃ se, s.settledSectors (some 0) = se := ⟨_, rfl⟩
    let u : State :=
      { s with device := .service, clock := openClock s.venue.frameSource now, plans := pl, sectors := se }
    have hstart' : u.startSector = 0 := hstart
    have hbegin := beginPass_eq (s := u) (by rw [hstart']; exact hn) 1
    have hbelow : (u.sectorsUsed.filter fun sec => decide (sec < u.startSector)) = [] := by
      rw [List.filter_eq_nil_iff, hstart']
      exact fun sec _ => by simp
    have hplan : ∀ c, u.planEntry c = ⟨defaultPlan 8 (s.sector (sectorOf c)).reservation, some 0, true⟩ := fun c => by
      rw [← tableRead_defaultWindow, hpl]
      rfl
    have hsector : ∀ sec, u.sector sec = { s.sector sec with planState := .stable, builtFor := some 0 } := fun sec => by
      rw [← tableRead_settledSectors, hse]
      rfl
    rw [hbelow, List.append_nil, hstart'] at hbegin
    refine ⟨u.beginPass 1, u.sectorsUsed.filter fun sec => decide (0 < sec), reply ?_, ?_, ?_, ?_, ?_, ?_⟩
    · simp only [openMatchReply, hnone, State.openAt, hpl, hse, u]
    · rw [hbegin]
      rfl
    · exact (sectorsUsed_sorted u).sublist List.filter_sublist
    · intro sec
      rw [List.mem_filter, mem_sectorsUsed, decide_eq_true_eq, Fin.lt_def]
      exact and_comm
    · intro c
      rw [hbegin]
      exact (hplan c).trans (by simp [defaultPlan])
    · intro sec
      rw [hbegin]
      by_cases h0 : sec = 0
      · subst h0
        rw [if_pos rfl]
        exact (sector_setSector_self u 0 _).trans (by rw [hsector])
      · rw [if_neg h0]
        exact (sector_setSector_of_ne u _ h0).trans (hsector sec)
  · intro sec hsec hnot hlow
    refine reply ?_
    have hfirst : s.unownedSector = some sec := by
      refine find?_of_sorted (sectorsUsed_sorted s) ((mem_sectorsUsed s sec).2 hsec) ?_ fun z _ hz => ?_
      · simp [(ownerOf_eq_none_iff s sec).2 hnot]
      · have : s.ownerOf z ≠ none := fun h => (ownerOf_eq_none_iff s z).1 h (hlow z hz)
        simpa [Option.isSome_iff_ne_none] using this
    simp only [openMatchReply, hfirst, refuse]

/-- Settles O21: the closed state, field by field. -/
theorem closeMatchClearsTheMatch : Obligations.CloseMatchClearsTheMatch := by
  intro s p cmd h
  obtain ⟨pl, hpl⟩ : ∃ pl, s.defaultWindow 4 none false = pl := ⟨_, rfl⟩
  obtain ⟨se, hse⟩ : ∃ se, s.settledSectors none = se := ⟨_, rfl⟩
  refine ⟨{ State.reset with
      venue := s.venue, clock := { s.clock with state := .stopped }, plans := pl, sectors := se, ports := s.ports
      arbiter := s.arbiter, answer := s.answer, pending := s.pending },
    (exec_rowOf_of_passes h 0).trans ?_, rfl, fun c => ?_, fun sec => ?_⟩
  · simp only [bodyOf, closeMatchReply, State.closeAt, hpl, hse]
    rfl
  · have := tableRead_defaultWindow s 4 none false c
    rw [hpl] at this
    exact this.trans (by simp [defaultPlan])
  · have := tableRead_settledSectors s none sec
    rwa [hse] at this
end

section
namespace Sys2Proof.Machine

open Sys2Proof

/-! ## Ending a running pass, cell by cell (R144 to R147) -/

/-! ### One change among many -/

/-- Of changes one after another, that of one element is seen at the cells that the other elements leave alone. -/
theorem EngineFrame.foldl_mem {α : Type} {act : State → α → State} {own : α → CellId → Prop}
    (h : ∀ a s, EngineFrame (own a) s (act s a)) {cells : CellId → Prop} {l : List α} (hl : l.Nodup) {a : α} (ha : a ∈ l)
    (hother : ∀ b, b ≠ a → ∀ c, own b c → cells c) (s : State) :
    ∃ v, EngineFrame cells s v ∧ EngineFrame cells (act v a) (l.foldl act s) := by
  obtain ⟨before, after, rfl⟩ := List.append_of_mem ha
  have hnot : a ∉ before ∧ a ∉ after := by
    simp only [List.nodup_append, List.nodup_cons, List.mem_cons] at hl
    obtain ⟨_, ⟨hafter, _⟩, hdisjoint⟩ := hl
    exact ⟨fun hb => hdisjoint a hb a (.inl rfl) rfl, hafter⟩
  have others : ∀ (m : List α), a ∉ m → ∀ s, EngineFrame cells s (m.foldl act s) := fun m hm s =>
    .foldl m s fun b hb s _ => (h b s).mono (hother b fun e => hm (e ▸ hb))
  refine ⟨before.foldl act s, others before hnot.1 s, ?_⟩
  rw [List.foldl_append, List.foldl_cons]
  exact others after hnot.2 _

theorem cellsOf_nodup (s : State) (sec : SectorId) : (s.cellsOf sec).Nodup := by
  refine List.Nodup.map (fun i j h => Fin.ext ?_) ((allSectors_sorted.imp ne_of_lt).filter _)
  have := congrArg Fin.val h
  simp only at this
  omega

/-- A completed build at one of its cells in the venue. -/
theorem EngineFrame.completeBuild_cell (s : State) (f : FrameNo) {c : CellId} (hc : c.val % 32 < s.venue.cellsPerSector) :
    ∃ v, EngineFrame (· ≠ c) s v ∧ EngineFrame (· ≠ c) (State.buildCell f v c) (s.completeBuild f (sectorOf c)) := by
  obtain ⟨v, hv, ht⟩ := EngineFrame.foldl_mem (act := State.buildCell f) (own := fun d e => e = d) (cells := (· ≠ c))
    (fun d s => .buildCell f s rfl) (cellsOf_nodup s (sectorOf c)) ((mem_cellsOf s _ c).2 ⟨rfl, hc⟩)
    (fun d hd e he => he ▸ hd) s
  refine ⟨v, hv, ht.trans ?_⟩
  unfold State.completeBuild
  exact (EngineFrame.setSector _ _ _ _).trans (.setStartSector _ _)

/-- A held sector at one of its cells in the venue. -/
theorem EngineFrame.holdSector_cell (s : State) (f : FrameNo) {c : CellId} (hc : c.val % 32 < s.venue.cellsPerSector) :
    ∃ v, EngineFrame (· ≠ c) s v ∧ EngineFrame (· ≠ c) (State.holdCell f v c) (State.holdSector f s (sectorOf c)) := by
  obtain ⟨v, hv, ht⟩ := EngineFrame.foldl_mem (act := State.holdCell f) (own := fun d e => e = d) (cells := (· ≠ c))
    (fun d s => .holdCell f s rfl) (cellsOf_nodup s (sectorOf c)) ((mem_cellsOf s _ c).2 ⟨rfl, hc⟩)
    (fun d hd e he => he ▸ hd) s
  refine ⟨v, hv, ht.trans ?_⟩
  unfold State.holdSector
  exact .setSector _ _ _ _

/-- The holds of a list of sectors at one of their cells in the venue. -/
theorem EngineFrame.holds_cell (s : State) (f : FrameNo) {l : List SectorId} (hl : l.Nodup) {c : CellId}
    (hsec : sectorOf c ∈ l) (hc : c.val % 32 < s.venue.cellsPerSector) :
    ∃ v, EngineFrame (· ≠ c) s v ∧ EngineFrame (· ≠ c) (State.holdCell f v c) (l.foldl (State.holdSector f) s) := by
  obtain ⟨v, hv, ht⟩ := EngineFrame.foldl_mem (act := State.holdSector f) (own := fun sec d => sectorOf d = sec)
    (cells := (· ≠ c)) (fun sec s => .holdSector f s sec fun c hc => ((mem_cellsOf s sec c).1 hc).1) hl hsec
    (fun sec hne d hd e => hne (hd ▸ e ▸ rfl)) s
  obtain ⟨w, hw, hh⟩ := EngineFrame.holdSector_cell v f (c := c) (hv.venue ▸ hc)
  exact ⟨w, hv.trans hw, hh.trans ht⟩

/-! ### The hold of a cell -/

theorem EngineFrame.demand {cells : CellId → Prop} {s t : State} (h : EngineFrame cells s t) (x : StreamId) :
    t.demand x = s.demand x := by
  obtain ⟨ca, pl, se, pa, st, po, rfl⟩ := h.rest
  rfl

theorem EngineFrame.rosterEntry {cells : CellId → Prop} {s t : State} (h : EngineFrame cells s t) (c : CellId) :
    t.rosterEntry c = s.rosterEntry c := by
  obtain ⟨ca, pl, se, pa, st, po, rfl⟩ := h.rest
  rfl

theorem EngineFrame.prioritised {cells : CellId → Prop} {s t : State} (h : EngineFrame cells s t) (sec : SectorId) :
    t.prioritised sec = s.prioritised sec := by
  have hp := (h.policies sec).2
  obtain ⟨ca, pl, se, pa, st, po, ht⟩ := h.rest
  have hs : t.surgeMatches sec = s.surgeMatches sec := by rw [ht]; rfl
  rw [State.prioritised, State.prioritised, hp, hs]

/-- The plan of a hold depends on the cell's own carriages, the streams, and the sector's priority (R145). -/
theorem EngineFrame.heldPlan {cells : CellId → Prop} {s t : State} (h : EngineFrame cells s t) (f : FrameNo) {c : CellId}
    (hc : ¬cells c) (p : Plan) : t.heldPlan f c p = s.heldPlan f c p := by
  have hwant : t.wantOf = s.wantOf := funext₂ fun x k => by rw [State.wantOf, State.wantOf, h.demand]
  have htrim : t.trimRun c = s.trimRun c := funext fun r => by
    unfold State.trimRun
    rw [h.carriages c hc, hwant]
  simp only [State.heldPlan, htrim, h.prioritised]

/-- A carriage of a held cell after its charge with `g` slots (R128 to R131, R146). -/
def heldCarriage (k : Carriage) (g demand : Nat) : Carriage :=
  if k.mode = .multicast then
    { k with
      lastGrant := g
      balance := max (-4 * (demand : Int)) (k.balance + (g : Int) * (payload k.minLevel : Int) - demand)
      starved :=
        if k.balance + (g : Int) * (payload k.minLevel : Int) - demand < -4 * (demand : Int) then true
        else k.starved && decide (k.balance + (g : Int) * (payload k.minLevel : Int) - demand < 0) }
  else { k with lastGrant := 0 }

/-- What a charge leaves of balance and starved flag. -/
theorem charge_eq (balance : Int) (starved : Bool) (g pay demand : Nat) :
    (charge balance starved g pay demand).balance = max (-4 * (demand : Int)) (balance + (g : Int) * (pay : Int) - demand) ∧
    (charge balance starved g pay demand).starved =
      if balance + (g : Int) * (pay : Int) - demand < -4 * (demand : Int) then true
      else starved && decide (balance + (g : Int) * (pay : Int) - demand < 0) := by
  unfold charge
  simp only [Nat.cast_mul]
  generalize balance + (g : Int) * (pay : Int) - demand = b
  by_cases hb : b < -4 * (demand : Int)
  · simp only [if_pos hb]
    exact ⟨by omega, trivial⟩
  · simp only [if_neg hb]
    by_cases hs : starved = true ∧ 0 ≤ b
    · simp only [if_pos hs]
      exact ⟨by omega, by simp [hs.2]⟩
    · simp only [if_neg hs]
      refine ⟨by omega, ?_⟩
      cases starved
      · rfl
      · simpa using hs

theorem carriage?_chargeCarriage (s : State) (c : CellId) (x : StreamId) (k : Carriage) (g : Nat) (f : FrameNo)
    (y : StreamId) :
    (s.chargeCarriage c x k g f).carriage? c y =
      (s.setCarriage c x { k with
        balance := (charge k.balance k.starved g (payload k.minLevel) (s.demand x)).balance
        starved := (charge k.balance k.starved g (payload k.minLevel) (s.demand x)).starved
        lastGrant := g }).carriage? c y := by
  unfold State.chargeCarriage
  dsimp only
  split <;> rfl

theorem carriage?_chargeHeld_of_ne {x y : StreamId} (h : y ≠ x) (c : CellId) (f : FrameNo) (runs : List ReplayRun)
    (s : State) : (chargeHeld c f runs s x).carriage? c y = s.carriage? c y := by
  unfold chargeHeld
  split
  · rfl
  · split
    · rw [carriage?_chargeCarriage, carriage?_setCarriage_of_ne _ _ fun e => h e.2]
    · exact carriage?_setCarriage_of_ne _ _ fun e => h e.2

theorem carriage?_chargeHeld_self {s : State} {c : CellId} {x : StreamId} {k : Carriage} (hk : s.carriage? c x = some k)
    (f : FrameNo) (runs : List ReplayRun) :
    (chargeHeld c f runs s x).carriage? c x = some (heldCarriage k (slotsOf runs x) (s.demand x)) := by
  obtain ⟨hb, hs⟩ := charge_eq k.balance k.starved (slotsOf runs x) (payload k.minLevel) (s.demand x)
  unfold chargeHeld heldCarriage
  rw [hk]
  dsimp only
  split
  · rw [carriage?_chargeCarriage, carriage?_setCarriage_self, hb, hs]
  · exact carriage?_setCarriage_self _ _ _ _

theorem carriage?_chargesHeld_of_not_mem {x : StreamId} (c : CellId) (f : FrameNo) (runs : List ReplayRun)
    {xs : List StreamId} (h : x ∉ xs) (s : State) : (xs.foldl (chargeHeld c f runs) s).carriage? c x = s.carriage? c x := by
  induction xs generalizing s with
  | nil => rfl
  | cons y xs ih =>
    obtain ⟨hy, hxs⟩ := not_or.1 (List.mem_cons.not.1 h)
    rw [List.foldl_cons, ih hxs, carriage?_chargeHeld_of_ne hy]

/-- The charges of a held cell charge each carriage on its list once. -/
theorem carriage?_chargesHeld {x : StreamId} (c : CellId) (f : FrameNo) (runs : List ReplayRun) {xs : List StreamId}
    (hxs : xs.Nodup) (hx : x ∈ xs) {s : State} {k : Carriage} (hk : s.carriage? c x = some k) :
    (xs.foldl (chargeHeld c f runs) s).carriage? c x = some (heldCarriage k (slotsOf runs x) (s.demand x)) := by
  induction xs generalizing s with
  | nil => simp at hx
  | cons y xs ih =>
    obtain ⟨hy, hnodup⟩ := List.nodup_cons.1 hxs
    rw [List.foldl_cons]
    rcases List.mem_cons.1 hx with rfl | hmem
    · rw [carriage?_chargesHeld_of_not_mem c f runs hy, carriage?_chargeHeld_self hk]
    · have hne : x ≠ y := fun e => hy (e ▸ hmem)
      rw [ih hnodup hmem ((carriage?_chargeHeld_of_ne hne c f runs s).trans hk),
        (EngineFrame.chargeHeld (cells := fun _ => True) trivial f runs s y).demand]

theorem planEntry_chargesHeld (c d : CellId) (f : FrameNo) (runs : List ReplayRun) (xs : List StreamId) (s : State) :
    (xs.foldl (chargeHeld c f runs) s).planEntry d = s.planEntry d := by
  have h : ∀ s x, (chargeHeld c f runs s x).planEntry d = s.planEntry d := fun s x => by
    unfold chargeHeld State.chargeCarriage
    split
    · rfl
    · split
      · dsimp only
        split <;> rfl
      · rfl
  induction xs generalizing s with
  | nil => rfl
  | cons x xs ih => exact (ih _).trans (h s x)

/-- The plan of a held cell (R145). -/
theorem planEntry_holdCell (f : FrameNo) (s : State) (c : CellId) :
    (State.holdCell f s c).planEntry c = ⟨s.heldPlan f c (s.planEntry c).plan, some f, true⟩ := by
  unfold State.holdCell
  dsimp only
  rw [planEntry_chargesHeld, planEntry_setPlan_self]

/-- The carriages of a held cell (R146). -/
theorem carriage?_holdCell (f : FrameNo) {s : State} {c : CellId} (hlist : (s.rosterEntry c).carriages.Nodup)
    {x : StreamId} (hx : x ∈ (s.rosterEntry c).carriages) {k : Carriage} (hk : s.carriage? c x = some k) :
    (State.holdCell f s c).carriage? c x =
      some (heldCarriage k (slotsOf (s.heldPlan f c (s.planEntry c).plan).replays x) (s.demand x)) :=
  carriage?_chargesHeld (s := s.setPlan c _) c f _ hlist hx hk

/-- A list in grant order has no stream twice. -/
theorem nodup_of_grantOrder {s : State} {xs : List StreamId} (h : xs.Pairwise fun x y => s.grantsBefore x y = true) :
    xs.Nodup := by
  refine h.imp fun {x y} hxy e => ?_
  subst e
  simp [State.grantsBefore] at hxy

theorem planEntry_buildCell (f : FrameNo) (s : State) (c : CellId) :
    ((State.buildCell f s c).planEntry c).frame = some f ∧ ((State.buildCell f s c).planEntry c).held = false := by
  unfold State.buildCell
  dsimp only
  rw [planEntry_setPlan_self]
  exact ⟨rfl, rfl⟩

end Sys2Proof.Machine
end

section
namespace Sys2Proof.Machine

open Sys2Proof

/-! ## A boundary's act on sectors, passes and ports (R142, R144) -/

/-! ### Sectors -/

theorem sector_setSector (s : State) (sec : SectorId) (v : Sector) (x : SectorId) :
    (s.setSector sec v).sector x = if x = sec then v else s.sector x := by
  by_cases h : x = sec
  · rw [if_pos h, h, sector_setSector_self]
  · rw [if_neg h, sector_setSector_of_ne s v h]

theorem sector_completeBuild (s : State) (f : FrameNo) (sec x : SectorId) :
    (s.completeBuild f sec).sector x =
      if x = sec then { s.sector sec with planState := .stable, builtFor := some f } else s.sector x := by
  obtain ⟨u, hu, he⟩ := completeBuild_rest s f sec
  rw [he]
  exact (sector_setSector u sec _ x).trans (by rw [hu.sector x])

theorem startSector_completeBuild (s : State) (f : FrameNo) (sec : SectorId) :
    (s.completeBuild f sec).startSector = s.sectorAfter sec := by
  obtain ⟨u, _, he⟩ := completeBuild_rest s f sec
  rw [he]

theorem sector_holdSector (s : State) (f : FrameNo) (sec x : SectorId) :
    (State.holdSector f s sec).sector x = if x = sec then { s.sector sec with builtFor := some f } else s.sector x := by
  obtain ⟨u, hu, he⟩ := holdSector_rest f s sec
  rw [he]
  exact (sector_setSector u sec _ x).trans (by rw [hu.sector x])

theorem startSector_holdSector (s : State) (f : FrameNo) (sec : SectorId) :
    (State.holdSector f s sec).startSector = s.startSector := by
  obtain ⟨u, ⟨⟨c, q, ps, hu⟩, _⟩, he⟩ := holdSector_rest f s sec
  rw [he, hu]
  rfl

/-- Held sectors show the frame that they are held for, and keep the rest of their records (R145). -/
theorem sector_holds (f : FrameNo) (l : List SectorId) (s : State) (x : SectorId) :
    (l.foldl (State.holdSector f) s).sector x =
      { s.sector x with builtFor := if x ∈ l then some f else (s.sector x).builtFor } := by
  induction l generalizing s with
  | nil => simp
  | cons sec l ih =>
    rw [List.foldl_cons, ih, sector_holdSector]
    by_cases h : x = sec <;> simp [h]

theorem startSector_holds (f : FrameNo) (l : List SectorId) (s : State) :
    (l.foldl (State.holdSector f) s).startSector = s.startSector := by
  induction l generalizing s with
  | nil => rfl
  | cons sec l ih => exact (ih _).trans (startSector_holdSector s f sec)

/-! ### The end of a running pass -/

/-- The state after the build and the holds that a boundary forces, before OVERRUN is written (R144). -/
def State.heldBy (s : State) (pass : Pass) : State :=
  pass.rest.foldl (State.holdSector pass.frame) (s.completeBuild pass.frame pass.building)

/-- The end of a pass is its build and its holds, and OVERRUN when there is a held sector (R144). -/
theorem endPass_eq_heldBy (s : State) (pass : Pass) : ∃ po, s.endPass pass = { s.heldBy pass with ports := po } := by
  unfold State.endPass State.heldBy
  dsimp only
  split
  · next h => exact ⟨_, by rw [h]; rfl⟩
  · exact ⟨_, rfl⟩

theorem endPass_of_nil (s : State) {pass : Pass} (h : pass.rest = []) : s.endPass pass = s.heldBy pass := by
  unfold State.endPass State.heldBy
  simp only [h, List.foldl_nil]

theorem endPass_of_cons (s : State) {pass : Pass} {first : SectorId} {more : List SectorId} (h : pass.rest = first :: more) :
    s.endPass pass = (s.heldBy pass).notifyAt isCellPort (.overrun pass.rest.length first pass.building) 0 pass.frame := by
  unfold State.endPass State.heldBy
  simp only [h]

theorem EngineFrame.heldBy (s : State) (pass : Pass) : EngineFrame (fun _ => True) s (s.heldBy pass) :=
  (EngineFrame.completeBuild s _ _ fun _ _ => trivial).trans
    (.foldl _ _ fun _ _ t _ => .holdSector _ t _ fun _ _ => trivial)

theorem overrunRecord {held : Nat} (h : held < 64) (first completed : SectorId) (frame : FrameNo) :
    noticeRecord (.overrun held first completed) 0 frame frame =
      [BitVec.ofNat 32 (0x10 * 2 ^ 24 + held * 2 ^ 18), 0, frame,
        BitVec.ofNat 32 (first.val * 2 ^ 27 + completed.val * 2 ^ 11)] := by
  have hword0 : packFields 32 [(8, 0x10), (24, packFields 24 [(6, held)])] = 0x10 * 2 ^ 24 + held * 2 ^ 18 := by
    simp only [packFields]
    omega
  have hword3 : packFields 32 [(16, packFields 16 [(5, first.val)]), (16, packFields 16 [(5, completed.val)])] =
      first.val * 2 ^ 27 + completed.val * 2 ^ 11 := by
    simp only [packFields]
    omega
  simp only [noticeRecord, noticeBody, noticeKind, hword0, hword3]

/-- OVERRUN goes to every CELL port when a sector is held, and to none otherwise (R144). -/
theorem port_endPass (s : State) {pass : Pass} (hlength : pass.rest.length < 64) (hframe : s.clock.frame = pass.frame)
    {start : SectorId} (hstart : ∀ first more, pass.rest = first :: more → start = first) (p : PortId) :
    (s.endPass pass).port p =
      if pass.rest ≠ [] ∧ isCellPort (s.port p) = true then
        deliver 0x10
          [BitVec.ofNat 32 (0x10 * 2 ^ 24 + pass.rest.length * 2 ^ 18), 0, pass.frame,
            BitVec.ofNat 32 (start.val * 2 ^ 27 + pass.building.val * 2 ^ 11)] pass.frame ((s.heldBy pass).port p)
      else (s.heldBy pass).port p := by
  have held := EngineFrame.heldBy s pass
  have hclock : (s.heldBy pass).clock.frame = pass.frame := by
    obtain ⟨ca, pl, se, pa, st, po, ht⟩ := held.rest
    rw [ht]
    exact hframe
  have hcell : isCellPort ((s.heldBy pass).port p) = isCellPort (s.port p) := by
    rw [isCellPort, isCellPort, (held.ports p).role]
  cases hrest : pass.rest with
  | nil => rw [endPass_of_nil s hrest, if_neg fun h => h.1 rfl]
  | cons first more =>
    rw [endPass_of_cons s hrest, port_notifyAt, hclock, hcell, hstart first more hrest, overrunRecord hlength, hrest]
    simp [noticeKind]

/-- The sectors of an ended pass show its frame; the one that was being built is STABLE (R144, R145). -/
theorem sector_endPass (s : State) (pass : Pass) (x : SectorId) :
    (s.endPass pass).sector x =
      { s.sector x with
        planState := if x = pass.building then .stable else (s.sector x).planState
        builtFor := if x ∈ pass.building :: pass.rest then some pass.frame else (s.sector x).builtFor } := by
  obtain ⟨po, he⟩ := endPass_eq_heldBy s pass
  rw [he]
  refine (sector_holds _ _ _ x).trans ?_
  rw [sector_completeBuild]
  by_cases hb : x = pass.building <;> by_cases hr : x ∈ pass.rest <;> simp [hb, hr]

theorem startSector_endPass (s : State) (pass : Pass) : (s.endPass pass).startSector = s.sectorAfter pass.building := by
  obtain ⟨po, he⟩ := endPass_eq_heldBy s pass
  rw [he]
  exact (startSector_holds _ _ _).trans (startSector_completeBuild s _ _)

/-! ### Its cells -/

theorem EngineFrame.endPass_heldBy {cells : CellId → Prop} (s : State) (pass : Pass) :
    EngineFrame cells (s.heldBy pass) (s.endPass pass) := by
  cases h : pass.rest with
  | nil => exact endPass_of_nil s h ▸ .refl _
  | cons first more => exact endPass_of_cons s h ▸ .notifyAt _ _ _ _ _

section
variable {s : State} {pass : Pass} {c : CellId}

/-- A cell of a held sector, seen at its own hold (R145, R146). -/
theorem endPass_heldCell (hnodup : (pass.building :: pass.rest).Nodup) (hsec : sectorOf c ∈ pass.rest)
    (hin : c.val % 32 < s.venue.cellsPerSector) :
    ∃ v, EngineFrame (· ≠ c) s v ∧ EngineFrame (· ≠ c) (State.holdCell pass.frame v c) (s.endPass pass) := by
  obtain ⟨hbuilding, hrest⟩ := List.nodup_cons.1 hnodup
  have late : EngineFrame (· ≠ c) s (s.completeBuild pass.frame pass.building) := .completeBuild s _ _ fun d hd e => by
    obtain ⟨hb, _⟩ := (mem_cellsOf s _ d).1 hd
    exact hbuilding (hb ▸ e ▸ hsec)
  obtain ⟨v, hv, ht⟩ := EngineFrame.holds_cell _ pass.frame hrest hsec (late.venue ▸ hin)
  exact ⟨v, late.trans hv, ht.trans (.endPass_heldBy s pass)⟩

theorem planEntry_endPass_held (hnodup : (pass.building :: pass.rest).Nodup) (hsec : sectorOf c ∈ pass.rest)
    (hin : c.val % 32 < s.venue.cellsPerSector) :
    (s.endPass pass).planEntry c = ⟨s.heldPlan pass.frame c (s.planEntry c).plan, some pass.frame, true⟩ := by
  obtain ⟨v, hv, ht⟩ := endPass_heldCell hnodup hsec hin
  have hc : ¬c ≠ c := fun h => h rfl
  rw [ht.plans c hc, planEntry_holdCell, hv.heldPlan pass.frame hc, hv.plans c hc]

/-- Each carriage of a held cell is charged with the slots of its run (R146). -/
theorem carriage?_endPass_held (hnodup : (pass.building :: pass.rest).Nodup) (hsec : sectorOf c ∈ pass.rest)
    (hin : c.val % 32 < s.venue.cellsPerSector) (hlists : s.carriageListsOk) {x : StreamId} {k : Carriage}
    (hk : s.carriage? c x = some k) :
    (s.endPass pass).carriage? c x =
      some (heldCarriage k (slotsOf ((s.endPass pass).planEntry c).plan.replays x) (s.demand x)) := by
  rw [planEntry_endPass_held hnodup hsec hin]
  obtain ⟨v, hv, ht⟩ := endPass_heldCell hnodup hsec hin
  obtain ⟨_, _, _, hcells⟩ := hlists
  obtain ⟨hmem, horder⟩ := hcells c
  have hc : ¬c ≠ c := fun h => h rfl
  have hx : x ∈ (v.rosterEntry c).carriages := hv.rosterEntry c ▸ (hmem x).2 (by simp [hk])
  have hone : (v.rosterEntry c).carriages.Nodup := hv.rosterEntry c ▸ nodup_of_grantOrder horder
  rw [ht.carriages c hc, carriage?_holdCell pass.frame hone hx ((hv.carriages c hc x).trans hk),
    hv.heldPlan pass.frame hc, hv.plans c hc, hv.demand]

/-- Past the build of the sector that was being built, the end of a pass changes the cells of the held sectors. -/
theorem EngineFrame.endPass_late (s : State) (pass : Pass) :
    EngineFrame (fun d => sectorOf d ∈ pass.rest) (s.completeBuild pass.frame pass.building) (s.endPass pass) := by
  have held : EngineFrame (fun d => sectorOf d ∈ pass.rest) (s.completeBuild pass.frame pass.building) (s.heldBy pass) :=
    .foldl _ _ fun sec hsec t _ => .holdSector _ t sec fun d hd => by
      obtain ⟨hd, _⟩ := (mem_cellsOf t sec d).1 hd
      exact hd ▸ hsec
  exact held.trans (.endPass_heldBy s pass)

theorem planEntry_completeBuild (hin : c.val % 32 < s.venue.cellsPerSector) (f : FrameNo) :
    ((s.completeBuild f (sectorOf c)).planEntry c).frame = some f ∧
      ((s.completeBuild f (sectorOf c)).planEntry c).held = false := by
  obtain ⟨v, _, ht⟩ := EngineFrame.completeBuild_cell s f hin
  rw [ht.plans c fun h => h rfl]
  exact planEntry_buildCell f v c

end

/-! ### The next pass -/

theorem sectorAfter_val {s : State} (h : s.venue.sectorsInUse ≤ 32) (sec : SectorId) :
    (s.sectorAfter sec).val = if sec.val + 1 < s.venue.sectorsInUse then sec.val + 1 else 0 := by
  unfold State.sectorAfter
  split
  · split <;> rfl
  · rw [if_neg (by omega)]
    rfl

section
variable {s : State} (h : s.startSector.val < s.venue.sectorsInUse) (f : FrameNo)
include h

theorem beginPass_rest :
    s.beginPass f = { s with sectors := (s.beginPass f).sectors, pass := (s.beginPass f).pass } := by
  rw [beginPass_eq h]
  rfl

theorem sector_beginPass (x : SectorId) :
    (s.beginPass f).sector x =
      { s.sector x with planState := if x = s.startSector then .rewriting else (s.sector x).planState } := by
  rw [beginPass_eq h]
  refine (sector_setSector s _ _ x).trans ?_
  by_cases hx : x = s.startSector <;> simp [hx]

/-- A pass takes the sectors in use from the start sector on, in ascending order and then from 0 (R142). -/
theorem pass_beginPass :
    ∃ above below, (s.beginPass f).pass = some ⟨f, s.startSector, above ++ below⟩ ∧
      above.Pairwise (· < ·) ∧ below.Pairwise (· < ·) ∧
      (∀ sec, sec ∈ above ↔ s.startSector < sec ∧ sec.val < s.venue.sectorsInUse) ∧
      ∀ sec, sec ∈ below ↔ sec < s.startSector := by
  refine ⟨_, _, by rw [beginPass_eq h], (sectorsUsed_sorted s).sublist List.filter_sublist,
    (sectorsUsed_sorted s).sublist List.filter_sublist, fun sec => ?_, fun sec => ?_⟩
  · rw [List.mem_filter, mem_sectorsUsed, decide_eq_true_eq]
    exact and_comm
  · rw [List.mem_filter, mem_sectorsUsed, decide_eq_true_eq, Fin.lt_def]
    exact ⟨fun hs => hs.2, fun hs => ⟨hs.trans h, hs⟩⟩

end

/-! ### What comes before the Plan Engine's act -/

/-- A boundary up to the Plan Engine's act (R11). -/
def State.beforePlan (s : State) (now : Instant) (early : List BoundaryAct) : State :=
  early.foldl State.act (s.advanceFrame now).raiseFrame

theorem boundary_eq (s : State) (now : Instant) (early : List BoundaryAct) :
    s.boundary now early = (s.beforePlan now early).planBoundary := rfl

theorem RecordFrame.beforePlan (s : State) (now : Instant) (early : List BoundaryAct) :
    RecordFrame becomesAssociated (s.advanceFrame now).raiseFrame (s.beforePlan now early) :=
  .foldl (fun s a => .act becomesAssociated_associated s a) early _

theorem port_raiseFrame (s : State) (p : PortId) : s.raiseFrame.port p = { s.port p with request := (s.port p).request ||| 4 } := by
  simp [State.raiseFrame, raise, frameBit]

/-- FRAME stands at every port, and no role changes (R11). -/
theorem port_beforePlan (s : State) (now : Instant) (early : List BoundaryAct) (p : PortId) :
    ((s.beforePlan now early).port p).request.getLsbD 2 = true ∧ ((s.beforePlan now early).port p).role = (s.port p).role := by
  have hp := (RecordFrame.beforePlan s now early).ports p
  rw [port_raiseFrame] at hp
  refine ⟨hp.request 2 ?_, hp.role⟩
  rw [BitVec.getLsbD_or]
  simp

end Sys2Proof.Machine

end

section
namespace Sys2Proof.Machine

open Sys2Proof

/-! ### The Plan Engine's act -/

/-- The state in which the Plan Engine begins the next pass at a boundary: a pass still running is ended (R144). -/
def State.passEnded (s : State) : State :=
  match s.pass with
  | none => s
  | some pass => s.endPass pass

theorem passEnded_of_none {s : State} (h : s.pass = none) : s.passEnded = s := by
  unfold State.passEnded
  rw [h]

theorem passEnded_of_some {s : State} {pass : Pass} (h : s.pass = some pass) : s.passEnded = s.endPass pass := by
  unfold State.passEnded
  rw [h]

theorem planBoundary_eq (s : State) : s.planBoundary = s.passEnded.beginPass (s.clock.frame + 1) := by
  cases h : s.pass with
  | none => rw [passEnded_of_none h, State.planBoundary, h]
  | some pass => rw [passEnded_of_some h, State.planBoundary, h]

theorem venue_passEnded (s : State) : s.passEnded.venue = s.venue := by
  cases h : s.pass with
  | none => rw [passEnded_of_none h]
  | some pass => rw [passEnded_of_some h, (EngineFrame.endPass (cells := fun _ => True) s pass fun _ _ _ => trivial).venue]

/-- The next pass begins at a sector in use (R142). -/
theorem startSector_passEnded {s : State} (hmost : s.venue.sectorsInUse ≤ 32) (hstart : s.startSector.val < s.venue.sectorsInUse) :
    s.passEnded.startSector.val < s.passEnded.venue.sectorsInUse := by
  rw [venue_passEnded]
  cases h : s.pass with
  | none => rwa [passEnded_of_none h]
  | some pass =>
    rw [passEnded_of_some h, startSector_endPass, sectorAfter_val hmost]
    split <;> omega

/-- What `passOk` says of a running pass. -/
theorem passOk_pass {s : State} (hs : s.passOk) {pass : Pass} (hp : s.pass = some pass) :
    pass.frame = s.clock.frame + 1 ∧ (pass.building :: pass.rest).Nodup ∧
      s.inPassOrder (pass.building :: pass.rest) = true ∧
      ∀ sec ∈ pass.building :: pass.rest, sec.val < s.venue.sectorsInUse := by
  obtain ⟨_, _, _, _, _, hpass⟩ := hs
  obtain ⟨hframe, _, hnodup, horder, hused⟩ := hpass pass hp
  exact ⟨hframe, hnodup, horder, hused⟩

/-- The head of a running pass's sectors to build is the sector after the one that it builds (R142). -/
theorem sectorAfter_building {s : State} {pass : Pass} (h : s.inPassOrder (pass.building :: pass.rest) = true)
    {first : SectorId} {more : List SectorId} (hrest : pass.rest = first :: more) :
    s.sectorAfter pass.building = first := by
  rw [hrest] at h
  simp only [State.inPassOrder, Bool.and_eq_true, decide_eq_true_eq] at h
  exact h.1.symm

theorem slotsOf_eq (runs : List ReplayRun) (x : StreamId) :
    slotsOf runs x = ((runs.find? fun r => decide (r.stream = x)).map (·.slots)).getD 0 := by
  unfold slotsOf
  split <;> next h => rw [h]; rfl

theorem inVenue_iff (s : State) (c : CellId) :
    s.inVenue c = true ↔ (sectorOf c).val < s.venue.sectorsInUse ∧ c.val % 32 < s.venue.cellsPerSector := by
  simp [State.inVenue, sectorOf]

theorem finishBuild_of_last {s : State} {f : FrameNo} {sec : SectorId} (h : s.pass = some ⟨f, sec, []⟩) :
    s.finishBuild = { s.completeBuild f sec with pass := none } := by
  rw [State.finishBuild, h]
  rfl

theorem EngineFrame.eq {cells : CellId → Prop} {s t : State} (h : EngineFrame cells s t) :
    t = { s with
          carriages := t.carriages, plans := t.plans, sectors := t.sectors, pass := t.pass
          startSector := t.startSector, ports := t.ports } := by
  obtain ⟨ca, pl, se, pa, st, po, ht⟩ := h.rest
  rw [ht]

/-! ### The boundary -/

section
variable (s : State) (now : Instant) (early : List BoundaryAct)

theorem clock_beforePlan : (s.beforePlan now early).clock = { s.clock with frame := s.clock.frame + 1, lastBoundary := now } :=
  (RecordFrame.beforePlan s now early).clock

theorem venue_beforePlan : (s.beforePlan now early).venue = s.venue := (RecordFrame.beforePlan s now early).venue

theorem pass_beforePlan : (s.beforePlan now early).pass = s.pass := (RecordFrame.beforePlan s now early).pass

theorem sector_beforePlan (sec : SectorId) : (s.beforePlan now early).sector sec = s.sector sec :=
  congrArg (tableRead _ · sec.val) (RecordFrame.beforePlan s now early).sectors

theorem planEntry_beforePlan (c : CellId) : (s.beforePlan now early).planEntry c = s.planEntry c :=
  congrArg (tableRead _ · c.val) (RecordFrame.beforePlan s now early).plans

theorem sectorAfter_beforePlan (sec : SectorId) : (s.beforePlan now early).sectorAfter sec = s.sectorAfter sec := by
  rw [State.sectorAfter, State.sectorAfter, venue_beforePlan]

theorem clock_boundary : (s.boundary now early).clock = { s.clock with frame := s.clock.frame + 1, lastBoundary := now } := by
  rw [boundary_eq, (EngineFrame.planBoundary _).eq]
  exact clock_beforePlan s now early

theorem port_boundary (p : PortId) :
    ((s.boundary now early).port p).request.getLsbD 2 = true ∧ ((s.boundary now early).port p).role = (s.port p).role := by
  obtain ⟨hframe, hrole⟩ := port_beforePlan s now early p
  have hp := (EngineFrame.planBoundary (s.beforePlan now early)).ports p
  exact ⟨hp.request 2 hframe, hp.role.trans hrole⟩

theorem boundary_eq_beginPass :
    s.boundary now early = (s.beforePlan now early).passEnded.beginPass (s.clock.frame + 1 + 1) := by
  rw [boundary_eq, planBoundary_eq, clock_beforePlan]

variable {s} (hs : s.passOk)
include hs

theorem startSector_beforePlan_passEnded :
    (s.beforePlan now early).passEnded.startSector.val < (s.beforePlan now early).passEnded.venue.sectorsInUse := by
  obtain ⟨_, _, hmost, hstart, _⟩ := hs
  have hu := RecordFrame.beforePlan s now early
  exact startSector_passEnded (hu.venue ▸ hmost) (hu.venue ▸ hu.startSector ▸ hstart)

/-- The pass that a boundary begins starts from the end of the one before and changes sector records alone (R142). -/
theorem boundary_rest :
    s.boundary now early =
      { (s.beforePlan now early).passEnded with
        sectors := (s.boundary now early).sectors, pass := (s.boundary now early).pass } := by
  rw [boundary_eq_beginPass]
  exact beginPass_rest (startSector_beforePlan_passEnded now early hs) _

theorem startSector_boundary : (s.boundary now early).startSector = (s.beforePlan now early).passEnded.startSector := by
  rw [boundary_rest now early hs]

theorem pass_boundary :
    ∃ above below, (s.boundary now early).pass =
        some ⟨s.clock.frame + 1 + 1, (s.boundary now early).startSector, above ++ below⟩ ∧
      above.Pairwise (· < ·) ∧ below.Pairwise (· < ·) ∧
      (s.boundary now early).startSector.val < s.venue.sectorsInUse ∧
      (∀ sec, sec ∈ above ↔ (s.boundary now early).startSector < sec ∧ sec.val < s.venue.sectorsInUse) ∧
      ∀ sec, sec ∈ below ↔ sec < (s.boundary now early).startSector := by
  have hstart := startSector_beforePlan_passEnded now early hs
  obtain ⟨above, below, hpass, ha, hb, hina, hinb⟩ := pass_beginPass hstart (s.clock.frame + 1 + 1)
  rw [venue_passEnded, venue_beforePlan] at hina hstart
  rw [startSector_boundary now early hs, boundary_eq_beginPass]
  exact ⟨above, below, hpass, ha, hb, hstart, hina, hinb⟩

/-- The sectors after a boundary: those of an ended pass show its frame, and the first of the next is REWRITING (R142, R144). -/
theorem sector_boundary (sec : SectorId) :
    (s.boundary now early).sector sec =
      { s.sector sec with
        planState := if sec = (s.boundary now early).startSector then .rewriting else .stable
        builtFor := ((s.beforePlan now early).passEnded.sector sec).builtFor } := by
  have hsector := sector_beginPass (startSector_beforePlan_passEnded now early hs) (s.clock.frame + 1 + 1) sec
  rw [startSector_boundary now early hs, boundary_eq_beginPass, hsector]
  obtain ⟨_, _, _, _, hrewriting, _⟩ := hs
  have stable : (¬∃ pass, s.pass = some pass ∧ pass.building = sec) → (s.sector sec).planState = .stable := fun h => by
    cases hst : (s.sector sec).planState with
    | stable => rfl
    | rewriting => exact absurd ((hrewriting sec).1 hst) h
  cases hp : s.pass with
  | none =>
    rw [passEnded_of_none ((pass_beforePlan s now early).trans hp), sector_beforePlan]
    rw [stable (by simp [hp])]
  | some pass =>
    rw [passEnded_of_some ((pass_beforePlan s now early).trans hp), sector_endPass, sector_beforePlan]
    by_cases hb : sec = pass.building
    · rw [if_pos hb]
    · rw [if_neg hb, stable (by simp [hp, Ne.symm hb])]

end

/-! ### The boundary that ends a running pass -/

section
variable {s : State} (now : Instant) (early : List BoundaryAct) (hs : s.passOk) {pass : Pass} (hp : s.pass = some pass)
include hp

theorem passEnded_beforePlan : (s.beforePlan now early).passEnded = (s.beforePlan now early).endPass pass :=
  passEnded_of_some ((pass_beforePlan s now early).trans hp)

include hs

theorem startSector_boundary_of_pass : (s.boundary now early).startSector = s.sectorAfter pass.building := by
  rw [startSector_boundary now early hs, passEnded_beforePlan now early hp, startSector_endPass, sectorAfter_beforePlan]

/-- The next pass begins at the first held sector (R144). -/
theorem startSector_boundary_of_rest {first : SectorId} {more : List SectorId} (hrest : pass.rest = first :: more) :
    (s.boundary now early).startSector = first := by
  rw [startSector_boundary_of_pass now early hs hp]
  obtain ⟨_, _, horder, _⟩ := passOk_pass hs hp
  exact sectorAfter_building horder hrest

theorem port_boundary_of_pass (p : PortId) :
    (s.boundary now early).port p =
      if pass.rest ≠ [] ∧ isCellPort (s.port p) = true then
        deliver 0x10
          [BitVec.ofNat 32 (0x10 * 2 ^ 24 + pass.rest.length * 2 ^ 18), 0, pass.frame,
            BitVec.ofNat 32 ((s.boundary now early).startSector.val * 2 ^ 27 + pass.building.val * 2 ^ 11)] pass.frame
          (((s.beforePlan now early).heldBy pass).port p)
      else ((s.beforePlan now early).heldBy pass).port p := by
  have hfirst := fun first more => startSector_boundary_of_rest now early hs hp (first := first) (more := more)
  have hport : (s.boundary now early).port p = (s.beforePlan now early).passEnded.port p := by
    rw [boundary_rest now early hs]
    rfl
  obtain ⟨hframe, hnodup, _, _⟩ := passOk_pass hs hp
  have hlength : pass.rest.length < 64 := by
    have := hnodup.length_le_card
    simp only [List.length_cons, Fintype.card_fin] at this
    omega
  have hcell : isCellPort ((s.beforePlan now early).port p) = isCellPort (s.port p) := by
    rw [isCellPort, isCellPort, (port_beforePlan s now early p).2]
  rw [hport, passEnded_beforePlan now early hp,
    port_endPass _ hlength (by rw [clock_beforePlan, hframe]) hfirst, hcell]

theorem planEntry_boundary_of_pass (c : CellId) :
    (s.boundary now early).planEntry c = ((s.beforePlan now early).endPass pass).planEntry c := by
  rw [boundary_rest now early hs, passEnded_beforePlan now early hp]
  rfl

theorem carriage?_boundary_of_pass (c : CellId) (x : StreamId) :
    (s.boundary now early).carriage? c x = ((s.beforePlan now early).endPass pass).carriage? c x := by
  rw [boundary_rest now early hs, passEnded_beforePlan now early hp]
  rfl

variable {c : CellId}

/-- A cell of a held sector after the boundary (R145, R146). -/
theorem boundary_heldCell (hin : s.inVenue c = true) (hsec : sectorOf c ∈ pass.rest) :
    (s.boundary now early).planEntry c =
        ⟨(s.beforePlan now early).heldPlan pass.frame c (s.planEntry c).plan, some pass.frame, true⟩ ∧
      ((s.beforePlan now early).carriageListsOk → ∀ x k, (s.beforePlan now early).carriage? c x = some k →
        (s.boundary now early).carriage? c x =
          some (heldCarriage k (slotsOf ((s.boundary now early).planEntry c).plan.replays x)
            ((s.beforePlan now early).demand x))) := by
  have hcarriage := carriage?_boundary_of_pass now early hs hp c
  rw [planEntry_boundary_of_pass now early hs hp c]
  obtain ⟨_, hnodup, _, _⟩ := passOk_pass hs hp
  obtain ⟨_, hcell⟩ := (inVenue_iff s c).1 hin
  rw [← venue_beforePlan s now early] at hcell
  refine ⟨?_, fun hlists x k hk => ?_⟩
  · rw [planEntry_endPass_held hnodup hsec hcell, planEntry_beforePlan]
  · rw [hcarriage, carriage?_endPass_held hnodup hsec hcell hlists hk]

/-- A cell of the sector that was being built is as its build leaves it (R144). -/
theorem boundary_builtCell (hin : s.inVenue c = true) (hsec : sectorOf c = pass.building) :
    (s.boundary now early).planEntry c =
        ((s.beforePlan now early).completeBuild pass.frame pass.building).planEntry c ∧
      ((s.boundary now early).planEntry c).frame = some pass.frame ∧ ((s.boundary now early).planEntry c).held = false ∧
      ∀ x, (s.boundary now early).carriage? c x =
        ((s.beforePlan now early).completeBuild pass.frame pass.building).carriage? c x := by
  have hcarriage := carriage?_boundary_of_pass now early hs hp c
  rw [planEntry_boundary_of_pass now early hs hp c]
  obtain ⟨_, hnodup, _, _⟩ := passOk_pass hs hp
  obtain ⟨_, hcell⟩ := (inVenue_iff s c).1 hin
  rw [← venue_beforePlan s now early] at hcell
  have hnot : sectorOf c ∉ pass.rest := hsec ▸ (List.nodup_cons.1 hnodup).1
  have late := EngineFrame.endPass_late (s.beforePlan now early) pass
  obtain ⟨hframe, hheld⟩ := planEntry_completeBuild hcell pass.frame
  rw [late.plans c hnot, ← hsec]
  exact ⟨rfl, hframe, hheld, fun x => hsec ▸ (hcarriage x).trans (late.carriages c hnot x)⟩

/-- A cell outside the venue, or of a sector that the pass had built, stays as it was (R144). -/
theorem boundary_otherCell (h : ¬(s.inVenue c = true ∧ sectorOf c ∈ pass.building :: pass.rest)) :
    (s.boundary now early).planEntry c = s.planEntry c ∧
      ∀ x, (s.boundary now early).carriage? c x = (s.beforePlan now early).carriage? c x := by
  have hcarriage := carriage?_boundary_of_pass now early hs hp c
  rw [planEntry_boundary_of_pass now early hs hp c, ← planEntry_beforePlan s now early]
  obtain ⟨_, _, _, hused⟩ := passOk_pass hs hp
  have frame : EngineFrame (· ≠ c) (s.beforePlan now early) ((s.beforePlan now early).endPass pass) :=
    .endPass _ pass fun d hd hcell e => h <| by
      subst e
      rw [venue_beforePlan] at hcell
      exact ⟨(inVenue_iff s d).2 ⟨hused _ hd, hcell⟩, hd⟩
  have hc : ¬c ≠ c := fun h => h rfl
  exact ⟨frame.plans c hc, fun x => (hcarriage x).trans (frame.carriages c hc x)⟩

end

end Sys2Proof.Machine

open Sys2Proof Sys2Proof.Machine

/-- Settles O23: the acts before the Plan Engine's leave what it reads, the end of a running pass is followed cell by cell,
and the next pass begins where that end has left the start sector. -/
theorem boundaryAdvancesTheFrame : Obligations.BoundaryAdvancesTheFrame := by
  refine ⟨fun v => ⟨rfl, rfl, rfl, rfl, fun f sec hv hp => ?_⟩, fun s now early hs => ?_⟩
  · rw [exec_sectorBuildCompletion, settle_of_settled hv, finishBuild_of_last hp]
  intro t f u
  have hsector : ∀ sec, t.sector sec =
      { s.sector sec with
        planState := if sec = t.startSector then .rewriting else .stable
        builtFor := (u.passEnded.sector sec).builtFor } := sector_boundary now early hs
  refine ⟨clock_boundary s now early, port_boundary s now early, pass_boundary now early hs, ?_⟩
  cases hp : s.pass with
  | none =>
    have hnone : u.passEnded = u := passEnded_of_none ((pass_beforePlan s now early).trans hp)
    have hrest : t = { u.passEnded with sectors := t.sectors, pass := t.pass } := boundary_rest now early hs
    have hu := RecordFrame.beforePlan s now early
    rw [hnone] at hrest hsector
    refine ⟨fun sec => ?_, hrest, ?_, ?_⟩
    · rw [hsector, show u.sector sec = s.sector sec from sector_beforePlan s now early sec]
    · exact (congrArg State.plans hrest).trans hu.plans
    · exact (congrArg State.startSector hrest).trans hu.startSector
  | some pass =>
    obtain ⟨frame, building, rest⟩ := pass
    obtain ⟨hframe, _, _, _⟩ := passOk_pass hs hp
    obtain rfl : frame = f := hframe
    have ⟨_, _, hmost, _⟩ := hs
    have hended : u.passEnded = u.endPass ⟨f, building, rest⟩ := passEnded_beforePlan now early hp
    have hrecord : ∀ sec, t.sector sec =
        { s.sector sec with
          planState := if sec = t.startSector then .rewriting else .stable
          builtFor := if sec ∈ building :: rest then some f else (s.sector sec).builtFor } := fun sec => by
      rw [hsector, hended, sector_endPass, show u.sector sec = s.sector sec from sector_beforePlan s now early sec]
    have hbuilt : ∀ sec ∈ building :: rest, (t.sector sec).builtFor = some f := fun sec hsec => by
      rw [hrecord]
      exact if_pos hsec
    refine ⟨hrecord, (EngineFrame.planBoundary u).eq, ?_, fun first more => startSector_boundary_of_rest now early hs hp,
      fun p => ⟨?_, port_boundary_of_pass now early hs hp p⟩, fun c => ?_⟩
    · exact (congrArg Fin.val (startSector_boundary_of_pass now early hs hp)).trans (sectorAfter_val hmost building)
    · exact ((EngineFrame.heldBy u ⟨f, building, rest⟩).ports p).toPortFrame
    · by_cases hheld : s.inVenue c = true ∧ sectorOf c ∈ rest
      · obtain ⟨hplan, hcarriage⟩ := boundary_heldCell now early hs hp hheld.1 hheld.2
        rw [if_pos hheld]
        refine ⟨hplan, hbuilt _ (List.mem_cons_of_mem _ hheld.2), fun hlists x k hk => ?_⟩
        have := hcarriage hlists x k hk
        rw [slotsOf_eq] at this
        exact this
      · rw [if_neg hheld]
        by_cases hb : s.inVenue c = true ∧ sectorOf c = building
        · obtain ⟨hplan, hfr, hh, hcarriage⟩ := boundary_builtCell now early hs hp hb.1 hb.2
          rw [if_pos hb]
          exact ⟨hplan, hfr, hh, hbuilt _ (hb.2 ▸ List.mem_cons_self), hcarriage⟩
        · rw [if_neg hb]
          refine boundary_otherCell now early hs hp fun h => ?_
          rcases List.mem_cons.1 h.2 with h' | h'
          · exact hb ⟨h.1, h'⟩
          · exact hheld ⟨h.1, h'⟩
end

section
namespace Sys2Proof.Machine

open Sys2Proof

/-! ## Counting the records of a table -/

variable {α β : Type}

/-- The table with every record replaced by what `f` makes of it. -/
def tableMap (f : α → β) (t : Table α) : Table β := t.map fun e => (e.1, f e.2)

theorem tableFind_map (f : α → β) (t : Table α) (k : Nat) : tableFind (tableMap f t) k = (tableFind t k).map f := by
  induction t with
  | nil => rfl
  | cons e t ih =>
    obtain ⟨j, v⟩ := e
    rw [tableMap, List.map_cons, tableFind_cons, tableFind_cons]
    split
    · rfl
    · exact ih

theorem keysRiseFrom_map (f : α → β) (t : Table α) (lo : Nat) : keysRiseFrom lo (tableMap f t) = keysRiseFrom lo t := by
  induction t generalizing lo with
  | nil => rfl
  | cons e t ih =>
    rw [tableMap, List.map_cons, keysRiseFrom, keysRiseFrom]
    exact congrArg _ (ih _)

theorem tableWf_map (f : α → β) (t : Table α) : tableWf (tableMap f t) = tableWf t := keysRiseFrom_map f t 0

theorem tableErase_map (f : α → β) (t : Table α) (k : Nat) : tableErase (tableMap f t) k = tableMap f (tableErase t k) := by
  induction t with
  | nil => rfl
  | cons e t ih =>
    obtain ⟨j, v⟩ := e
    simp only [tableMap, List.map_cons, tableErase] at ih ⊢
    split <;> simp [ih]

theorem tablePlace_map (f : α → β) (t : Table α) (k : Nat) (v : α) :
    tablePlace (tableMap f t) k (f v) = tableMap f (tablePlace t k v) := by
  induction t with
  | nil => rfl
  | cons e t ih =>
    obtain ⟨j, w⟩ := e
    simp only [tableMap, List.map_cons, tablePlace] at ih ⊢
    split <;> simp [ih]

theorem tableStore_map (f : α → β) (t : Table α) (k : Nat) (v : α) :
    tableStore (tableMap f t) k (f v) = tableMap f (tableStore t k v) := by
  rw [tableStore, tableErase_map, tablePlace_map, tableStore]

theorem tableErase_of_lt {lo k : Nat} {t : Table α} (hw : keysRiseFrom lo t = true) (hk : k < lo) : tableErase t k = t := by
  induction t generalizing lo with
  | nil => rfl
  | cons e t ih =>
    obtain ⟨j, v⟩ := e
    simp only [keysRiseFrom, Bool.and_eq_true, decide_eq_true_eq] at hw
    rw [tableErase, if_neg (by omega), ih hw.2 (by omega)]

theorem tablePlace_of_lt {lo k : Nat} {t : Table α} (hw : keysRiseFrom lo t = true) (hk : k < lo) (v : α) :
    tablePlace t k v = (k, v) :: t := by
  cases t with
  | nil => rfl
  | cons e t =>
    obtain ⟨j, w⟩ := e
    simp only [keysRiseFrom, Bool.and_eq_true, decide_eq_true_eq] at hw
    rw [tablePlace, if_pos (by omega)]

theorem tableStore_of_find_from {lo k : Nat} {t : Table α} (hw : keysRiseFrom lo t = true) {v : α}
    (hv : tableFind t k = some v) : tableStore t k v = t := by
  induction t generalizing lo with
  | nil => cases hv
  | cons e t ih =>
    obtain ⟨j, w⟩ := e
    simp only [keysRiseFrom, Bool.and_eq_true, decide_eq_true_eq] at hw
    by_cases hj : j = k
    · subst hj
      simp only [tableFind, if_true, Option.some.injEq] at hv
      rw [tableStore, tableErase, if_pos rfl, tableErase_of_lt hw.2 (Nat.lt_succ_self j),
        tablePlace_of_lt hw.2 (Nat.lt_succ_self j), hv]
    · simp only [tableFind, hj, if_false] at hv
      have := key_le_of_mem hw.2 (mem_of_find hv)
      have htail := ih hw.2 hv
      rw [tableStore] at htail
      rw [tableStore, tableErase, if_neg hj, tablePlace, if_neg (by simp only at this; omega), htail]

/-- Storing the record that stands under a key changes nothing. -/
theorem tableStore_of_find {k : Nat} {t : Table α} (hw : tableWf t = true) {v : α} (hv : tableFind t k = some v) :
    tableStore t k v = t := tableStore_of_find_from hw hv

/-- Storing under a key a record of the same image leaves the table's image. -/
theorem tableMap_store {f : α → β} {k : Nat} {t : Table α} (hw : tableWf t = true) {a b : α} (ha : tableFind t k = some a)
    (hb : f b = f a) : tableMap f (tableStore t k b) = tableMap f t := by
  rw [← tableStore_map, hb]
  exact tableStore_of_find (by rwa [tableWf_map]) (by rw [tableFind_map, ha]; rfl)

theorem countP_map (f : α → β) (t : Table α) (p : β → Bool) :
    (tableMap f t).countP (fun e => p e.2) = t.countP fun e => p (f e.2) := by
  rw [tableMap, List.countP_map]
  rfl

/-- 1 when there is a record and it meets `p`, else 0. -/
def tally (p : α → Bool) : Option α → Nat
  | none => 0
  | some v => bit (p v)

@[simp] theorem tally_none (p : α → Bool) : tally p none = 0 := rfl

@[simp] theorem tally_some (p : α → Bool) (v : α) : tally p (some v) = bit (p v) := rfl

theorem countP_place (t : Table α) (k : Nat) (v : α) (p : α → Bool) :
    (tablePlace t k v).countP (fun e => p e.2) = t.countP (fun e => p e.2) + bit (p v) := by
  induction t with
  | nil => rw [tablePlace, List.countP_cons]; rfl
  | cons e t ih =>
    rw [tablePlace]
    split
    · rw [List.countP_cons]; rfl
    · rw [List.countP_cons, ih, List.countP_cons, Nat.add_right_comm]

theorem countP_erase_from {lo : Nat} {t : Table α} (hw : keysRiseFrom lo t = true) (k : Nat) (p : α → Bool) :
    (tableErase t k).countP (fun e => p e.2) + tally p (tableFind t k) = t.countP fun e => p e.2 := by
  induction t generalizing lo with
  | nil => rfl
  | cons e t ih =>
    obtain ⟨j, v⟩ := e
    simp only [keysRiseFrom, Bool.and_eq_true, decide_eq_true_eq] at hw
    by_cases hj : j = k
    · subst hj
      rw [tableErase, if_pos rfl, tableErase_of_lt hw.2 (Nat.lt_succ_self j), tableFind, if_pos rfl, List.countP_cons]
      rfl
    · rw [tableErase, if_neg hj, tableFind, if_neg hj, List.countP_cons, List.countP_cons, ← ih hw.2, Nat.add_right_comm]

/-- A record taken out leaves the count of the others. -/
theorem countP_erase {t : Table α} (hw : tableWf t = true) (k : Nat) (p : α → Bool) :
    (tableErase t k).countP (fun e => p e.2) + tally p (tableFind t k) = t.countP fun e => p e.2 :=
  countP_erase_from hw k p

/-- A record stored counts in the place of the one that stood under its key. -/
theorem countP_store {t : Table α} (hw : tableWf t = true) (k : Nat) (v : α) (p : α → Bool) :
    (tableStore t k v).countP (fun e => p e.2) + tally p (tableFind t k) = t.countP (fun e => p e.2) + bit (p v) := by
  rw [tableStore, countP_place, Nat.add_right_comm, countP_erase hw]

theorem tally_le_countP {t : Table α} (hw : tableWf t = true) (k : Nat) (p : α → Bool) :
    tally p (tableFind t k) ≤ t.countP fun e => p e.2 := by
  rw [← countP_erase hw k p]
  exact Nat.le_add_left _ _

end Sys2Proof.Machine
end

section
namespace Sys2Proof.Machine

open Sys2Proof

/-! ## The agreement of maps, stack, counts and stations under a change -/

/-- The Address Map, the Handle Stack and the counts of the cells agree with the live station records (R15, R17 to R19). -/
def State.recordsAgree (s : State) : Prop := s.handlesOk ∧ s.countsOk

theorem stationsOk_iff (s : State) : s.stationsOk ↔ s.lifecycleOk ∧ s.recordsAgree := .rfl

/-- Maps and stack that stay agree with stations that keep their handles and addresses. -/
theorem handlesOk_congr {s t : State}
    (hst : tableMap Station.address t.stations = tableMap Station.address s.stations) (hm : t.addressMap = s.addressMap)
    (hh : t.handles = s.handles) (h : s.handlesOk) : t.handlesOk := by
  obtain ⟨hw, hmap, hn, hlt, hfresh, hlive, haddr, hfree⟩ := h
  have find : ∀ g, (t.station? g).map Station.address = (s.station? g).map Station.address := fun g => by
    simp only [State.station?, ← tableFind_map, hst]
  have length : t.stations.length = s.stations.length := by
    simpa [tableMap] using congrArg List.length hst
  refine ⟨by rwa [← tableWf_map, hst, tableWf_map], by rwa [hm], by rwa [hh], by rwa [hh], by rwa [hh], fun g => ?_,
    fun a g => ?_, by rwa [hh, length]⟩
  · rw [hh, ← hlive, ← Option.isSome_map (f := Station.address), find, Option.isSome_map]
  · rw [hm, haddr, ← Option.map_eq_some_iff, ← find, Option.map_eq_some_iff]

/-- A station more served by a cell, or claimed into it, is counted there. -/
theorem tally_le_counts {s : State} (hw : tableWf s.stations = true) (h : s.countsOk) (g : Handle) (c : CellId) :
    tally (servedBy c) (s.station? g) ≤ (s.rosterEntry c).count ∧
      tally (claimedInto c) (s.station? g) ≤ (s.rosterEntry c).pendingIn := by
  obtain ⟨_, _, _, hcounts⟩ := h
  obtain ⟨hcount, hpending, _⟩ := hcounts c
  rw [hcount, hpending]
  exact ⟨tally_le_countP hw g _, tally_le_countP hw g _⟩

/-- Counts that follow one changed station agree with the stations again. -/
theorem countsOk_of_change {s t : State} {g : Handle} {b : Station} (hw : tableWf s.stations = true) (h : s.countsOk)
    (hv : t.venue = s.venue) (hst : t.stations = tableStore s.stations g b) (hroster : tableWfDefault {} t.roster = true)
    (hb : claimantDiffers b)
    (hchange : ∀ c, (t.rosterEntry c).count + tally (servedBy c) (s.station? g) =
        (s.rosterEntry c).count + bit (servedBy c b) ∧
      (t.rosterEntry c).pendingIn + tally (claimedInto c) (s.station? g) =
        (s.rosterEntry c).pendingIn + bit (claimedInto c b) ∧
      (t.rosterEntry c).count + (t.rosterEntry c).pendingIn ≤ s.venue.cellLimit) : t.countsOk := by
  obtain ⟨_, hlimit, hdiffers, hcounts⟩ := h
  refine ⟨hroster, by rwa [hv], fun k a ha => ?_, fun c => ?_⟩
  · rw [State.station?, hst] at ha
    by_cases hk : k = g
    · subst hk
      rw [tableFind_store_self] at ha
      cases ha
      exact hb
    · rw [tableFind_store_of_ne _ _ hk] at ha
      exact hdiffers k a ha
  · obtain ⟨hcount, hpending, _⟩ := hcounts c
    obtain ⟨hcount', hpending', hroom⟩ := hchange c
    have served := countP_store hw g b (servedBy c)
    have claimed := countP_store hw g b (claimedInto c)
    rw [State.station?] at hcount' hpending'
    rw [hst, hv]
    exact ⟨by omega, by omega, hroom⟩

/-! ### The frame of the stations -/

/-- What the maps and the counts need to know of a station. -/
def Station.place (st : Station) : BitVec 48 × StationState × CellId := (st.address, st.state, st.serving)

/-- `t` has the venue, the Address Map, the Handle Stack and the counts of `s`, and its stations stand where they stand in
`s`, under the same addresses. -/
structure StationsFrame (s t : State) : Prop where
  venue : t.venue = s.venue
  addressMap : t.addressMap = s.addressMap
  handles : t.handles = s.handles
  places : tableWf s.stations = true → tableMap Station.place t.stations = tableMap Station.place s.stations
  roster : tableWfDefault {} s.roster = true → tableWfDefault {} t.roster = true
  counts : ∀ c, (t.rosterEntry c).count = (s.rosterEntry c).count ∧
    (t.rosterEntry c).pendingIn = (s.rosterEntry c).pendingIn

/-- A change beside the stations and the roster. -/
theorem StationsFrame.beside {s t : State} (hv : t.venue = s.venue) (hm : t.addressMap = s.addressMap)
    (hh : t.handles = s.handles) (hst : t.stations = s.stations) (hr : t.roster = s.roster) : StationsFrame s t :=
  ⟨hv, hm, hh, fun _ => by rw [hst], by rw [hr]; exact id, fun c => by simp [State.rosterEntry, hr]⟩

theorem StationsFrame.refl (s : State) : StationsFrame s s := .beside rfl rfl rfl rfl rfl

theorem StationsFrame.wf {s t : State} (f : StationsFrame s t) (hw : tableWf s.stations = true) :
    tableWf t.stations = true := by
  rwa [← tableWf_map Station.place, f.places hw, tableWf_map]

theorem StationsFrame.trans {s t u : State} (f : StationsFrame s t) (f' : StationsFrame t u) : StationsFrame s u where
  venue := f'.venue.trans f.venue
  addressMap := f'.addressMap.trans f.addressMap
  handles := f'.handles.trans f.handles
  places hw := (f'.places (f.wf hw)).trans (f.places hw)
  roster h := f'.roster (f.roster h)
  counts c := ⟨(f'.counts c).1.trans (f.counts c).1, (f'.counts c).2.trans (f.counts c).2⟩

theorem StationsFrame.foldl {α : Type} {act : State → α → State} (h : ∀ s a, StationsFrame s (act s a)) (l : List α)
    (s : State) : StationsFrame s (l.foldl act s) := by
  induction l generalizing s with
  | nil => exact .refl s
  | cons a l ih => exact (h s a).trans (ih _)

/-- The records agree under a change that leaves every station in its place. -/
theorem StationsFrame.recordsAgree {s t : State} (f : StationsFrame s t) (h : s.recordsAgree) : t.recordsAgree := by
  obtain ⟨hhandles, hroster, hlimit, hdiffers, hcounts⟩ := h
  have hw : tableWf s.stations = true := hhandles.1
  have places := f.places hw
  have counted : ∀ p : BitVec 48 × StationState × CellId → Bool,
      t.stations.countP (fun e => p e.2.place) = s.stations.countP fun e => p e.2.place := fun p => by
    rw [← countP_map, ← countP_map, places]
  refine ⟨handlesOk_congr ?_ f.addressMap f.handles hhandles, f.roster hroster, by rwa [f.venue], fun g b hb => ?_,
    fun c => ?_⟩
  · have := congrArg (tableMap Prod.fst) places
    simpa [tableMap, Station.place, Function.comp_def] using this
  · have find : (t.station? g).map Station.place = (s.station? g).map Station.place := by
      simp only [State.station?, ← tableFind_map, places]
    rw [hb] at find
    obtain ⟨a, ha, hab⟩ := Option.map_eq_some_iff.1 find.symm
    simp only [Station.place, Prod.mk.injEq] at hab
    obtain ⟨_, hstate, hserving⟩ := hab
    have := hdiffers g a ha
    rwa [claimantDiffers, hstate, hserving, ← claimantDiffers] at this
  · obtain ⟨hcount, hpending⟩ := f.counts c
    rw [hcount, hpending, f.venue]
    obtain ⟨hserved, hclaimed, hroom⟩ := hcounts c
    refine ⟨hserved.trans (counted fun q => !isLingering q.2.1 && decide (q.2.2 = c)).symm, hclaimed.trans ?_, hroom⟩
    exact (counted fun q => match q.2.1 with
      | .associated => false
      | .inHandover claimant _ _ => decide (claimant = c)
      | .lingering _ _ => false).symm

end Sys2Proof.Machine
end

section
namespace Sys2Proof.Machine

open Sys2Proof

/-! ### What leaves every station in its place -/

theorem StationsFrame.notify (s : State) (dest : PortUnit → Bool) (n : Notice) (tag : Tag) :
    StationsFrame s (s.notify dest n tag) := .beside rfl rfl rfl rfl rfl

theorem StationsFrame.setCarriage (s : State) (c : CellId) (x : StreamId) (k : Carriage) :
    StationsFrame s (s.setCarriage c x k) := .beside rfl rfl rfl rfl rfl

theorem StationsFrame.setStream (s : State) (x : StreamId) (v : Stream) : StationsFrame s (s.setStream x v) :=
  .beside rfl rfl rfl rfl rfl

theorem StationsFrame.setTotals (s : State) (x : StreamId) (a b : Nat) : StationsFrame s (s.setTotals x a b) :=
  .setStream s x _

theorem StationsFrame.setTicket (s : State) (t : TicketHandle) (k : Ticket) : StationsFrame s (s.setTicket t k) :=
  .beside rfl rfl rfl rfl rfl

theorem StationsFrame.setZone (s : State) (z : ZoneId) (v : Zone) : StationsFrame s (s.setZone z v) :=
  .beside rfl rfl rfl rfl rfl

theorem StationsFrame.loadTicket (s : State) (t : Ticket) : StationsFrame s (s.loadTicket t) :=
  .beside rfl rfl rfl rfl rfl

/-- A carriage list replaced leaves the counts of its cell. -/
theorem StationsFrame.setList (s : State) (c : CellId) (l : List StreamId) :
    StationsFrame s (s.setRoster c { s.rosterEntry c with carriages := l }) where
  venue := rfl
  addressMap := rfl
  handles := rfl
  places _ := rfl
  roster h := tableWfDefault_write h c.val _
  counts d := by
    by_cases hd : d = c
    · subst hd
      simp
    · simp [hd]

theorem StationsFrame.dropCarriage (s : State) (c : CellId) (x : StreamId) : StationsFrame s (s.dropCarriage c x) := by
  refine StationsFrame.trans ?_ (.setList (s.eraseCarriage c x) c ((s.rosterEntry c).carriages.filter fun y => decide (y ≠ x)))
  exact .beside rfl rfl rfl rfl rfl

theorem StationsFrame.createCarriage (s : State) (c : CellId) (x : StreamId) (l : Level) :
    StationsFrame s (s.createCarriage c x l) :=
  ((StationsFrame.setCarriage s c x _).trans (.setList _ c _)).trans (.setTotals _ x _ _)

/-- A station given another sequence, level, ticket or list stays in its place. -/
theorem StationsFrame.setStation {s : State} {h : Handle} {a b : Station} (ha : s.station? h = some a)
    (hb : b.place = a.place) : StationsFrame s (s.setStation h b) :=
  { StationsFrame.refl s with places := fun hw => tableMap_store hw ha hb }

theorem StationsFrame.evalMode (s : State) (c : CellId) (x : StreamId) (tag : Tag) :
    StationsFrame s (s.evalMode c x tag) := by
  unfold State.evalMode
  split
  · exact .refl s
  · split
    · dsimp only
      split
      · exact (StationsFrame.setCarriage s c x _).trans (.notify _ _ _ _)
      · split
        · exact ((StationsFrame.setCarriage s c x _).trans (.notify _ _ _ _)).trans (.notify _ _ _ _)
        · exact .setCarriage s c x _
    · split
      · exact (StationsFrame.setCarriage s c x _).trans (.notify _ _ _ _)
      · exact .refl s

theorem StationsFrame.joinExisting (s : State) (c : CellId) (x : StreamId) (l : Level) (tag : Tag) :
    StationsFrame s (s.joinExisting c x l tag) := by
  unfold State.joinExisting
  split
  · exact .refl s
  · exact ((StationsFrame.setCarriage s c x _).trans (.setTotals _ x _ _)).trans (.evalMode _ c x tag)

theorem StationsFrame.join (s : State) (c : CellId) (x : StreamId) (l : Level) (tag : Tag) :
    StationsFrame s (s.join c x l tag) := by
  unfold State.join
  split
  · exact (StationsFrame.createCarriage s c x l).trans (.joinExisting _ c x l tag)
  · exact .joinExisting s c x l tag

theorem StationsFrame.leave (s : State) (c : CellId) (x : StreamId) (l : Level) (tag : Tag) :
    StationsFrame s (s.leave c x l tag) := by
  unfold State.leave
  split
  · exact .refl s
  · have left := StationsFrame.setTotals s x ((s.stream x).subscribers - 1) (s.stream x).carriages
    dsimp only
    split
    · split
      · exact (left.trans (.dropCarriage _ c x)).trans (.setTotals _ x _ _)
      · exact ((left.trans (.dropCarriage _ c x)).trans (.setTotals _ x _ _)).trans (.notify _ _ _ _)
    · exact (left.trans (.setCarriage _ c x _)).trans (.evalMode _ c x tag)

theorem StationsFrame.moveLevel (s : State) (c : CellId) (x : StreamId) (old new : Level) (tag : Tag) :
    StationsFrame s (s.moveLevel c x old new tag) := by
  unfold State.moveLevel
  split
  · exact .refl s
  · exact (StationsFrame.setCarriage s c x _).trans (.evalMode _ c x tag)

theorem StationsFrame.setSubState (s : State) (h : Handle) (x : StreamId) (v : SubState) :
    StationsFrame s (s.setSubState h x v) := by
  unfold State.setSubState
  split
  · exact .refl s
  · next st hst => exact .setStation hst rfl

theorem StationsFrame.evalEntry (h : Handle) (tag : Tag) (joined : Bool) (new : Option StreamId) (s : State)
    (x : StreamId) : StationsFrame s (s.evalEntry h tag joined new x) := by
  unfold State.evalEntry
  split
  · exact .refl s
  · next st hst =>
    have join := fun v => (StationsFrame.join s st.serving x st.level tag).trans (.setSubState _ h x v)
    split
    · exact .refl s
    · split
      · split
        · exact .refl s
        · exact join _
      · dsimp only
        split
        · exact join _
        · exact (join _).trans (.notify _ _ _ _)
      · dsimp only
        refine StationsFrame.trans (StationsFrame.trans ?_ (.setSubState _ h x _)) (.notify _ _ _ _)
        split
        · exact .leave s _ x _ tag
        · exact .refl s
      · split
        · exact .refl s
        · dsimp only
          split
          · exact .setSubState s h x _
          · exact (StationsFrame.setSubState s h x _).trans (.notify _ _ _ _)

/-- An evaluation moves no station (R100). -/
theorem StationsFrame.evaluateWith (s : State) (h : Handle) (tag : Tag) (joined : Bool) (new : Option StreamId) :
    StationsFrame s (s.evaluateWith h tag joined new) := by
  unfold State.evaluateWith
  split
  · exact .refl s
  · exact .foldl (StationsFrame.evalEntry h tag joined new) _ s

theorem StationsFrame.evaluate (s : State) (h : Handle) (tag : Tag) : StationsFrame s (s.evaluate h tag) :=
  .evaluateWith s h tag true none

theorem StationsFrame.leaveOld (s : State) (old : CellId) (l : Level) (tag : Tag) (subs : List Subscription) :
    StationsFrame s (s.leaveOld old l tag subs) :=
  .foldl (fun s (e : Subscription) => by
    split
    · exact .leave s old e.stream l tag
    · exact .refl s) subs s

theorem StationsFrame.removeSub (s : State) (h : Handle) (x : StreamId) : StationsFrame s (s.removeSub h x) := by
  unfold State.removeSub
  split
  · exact .refl s
  · next st hst =>
    refine StationsFrame.trans (.setStation hst ?_) (.setStream _ x _)
    rfl

theorem StationsFrame.leaveAndRemove (s : State) (h : Handle) (x : StreamId) (tag : Tag) :
    StationsFrame s (s.leaveAndRemove h x tag) := by
  unfold State.leaveAndRemove
  split
  · exact .refl s
  · split
    · exact .refl s
    · dsimp only
      refine StationsFrame.trans ?_ (.removeSub _ h x)
      split
      · exact .leave s _ x _ tag
      · exact .refl s

theorem StationsFrame.removeAllSubs (s : State) (h : Handle) (tag : Tag) (subs : List Subscription) :
    StationsFrame s (s.removeAllSubs h tag subs) :=
  .foldl (fun s (e : Subscription) => (StationsFrame.removeSub s h e.stream).trans (.notify _ _ _ _)) subs s

/-- One side of a binding set: the station's, where it is live, and then the ticket's, where it is known (R92). -/
theorem StationsFrame.bindingSides (s : State) (h : Handle) (t : TicketHandle) (n : Option TicketHandle)
    (g : Option Handle) :
    let u := match s.station? h with
      | none => s
      | some st => s.setStation h { st with ticket := n }
    StationsFrame s (match u.ticket? t with
      | none => u
      | some k => u.setTicket t { k with station := g }) := by
  intro u
  have station : StationsFrame s u := by
    unfold u
    split
    · exact .refl s
    · next st hst => exact .setStation hst rfl
  split
  · exact station
  · exact station.trans (.setTicket u t _)

theorem StationsFrame.clearBinding (s : State) (h : Handle) (t : TicketHandle) (cause : UnbindCause) (tag : Tag) :
    StationsFrame s (s.clearBinding h t cause tag) :=
  (StationsFrame.bindingSides s h t none none).trans (.notify _ _ _ _)

theorem StationsFrame.makeBinding (s : State) (h : Handle) (t : TicketHandle) (tag : Tag) :
    StationsFrame s (s.makeBinding h t tag) :=
  (StationsFrame.bindingSides s h t (some t) (some h)).trans (.evaluate _ h tag)

theorem StationsFrame.completeDrain (s : State) (x : StreamId) : StationsFrame s (s.completeDrain x) := by
  rcases completeDrain_cases s x with he | ⟨info, tag, f, _, he⟩
  · rw [he]
    exact .refl s
  · rw [he]
    have removed := StationsFrame.foldl (fun s h => .removeSub s h x) (s.holders x) s
    exact ((removed.trans (.foldl (fun s c => .dropCarriage s c x) _ _)).trans (.setStream _ x _)).trans (.notify _ _ _ _)

theorem StationsFrame.actDrainCompletion (s : State) : StationsFrame s s.actDrainCompletion :=
  .foldl .completeDrain _ s

theorem StationsFrame.actSurgeEnd (s : State) : StationsFrame s s.actSurgeEnd := by
  unfold State.actSurgeEnd
  split
  · exact .refl s
  · split
    · exact .beside rfl rfl rfl rfl rfl
    · exact .refl s

/-! ### Commands that leave every station in its place -/

theorem reportLevelReply_stations (p : PortId) (cmd : Cmd) (s : State) :
    StationsFrame s (reportLevelReply p cmd s).state := by
  unfold reportLevelReply
  split
  · exact .refl s
  · next st hst =>
    split
    · exact .refl s
    · dsimp only
      split
      · exact .refl s
      · have level : StationsFrame s (s.setStation (cmd.op 2).toNat { st with level := asLevel (cmd.op 3) }) :=
          .setStation (station?_of_asStation hst) rfl
        unfold State.replaceLevel
        dsimp only
        split
        · exact level
        · refine level.trans (.foldl (fun s (e : Subscription) => ?_) st.subs _)
          split
          · exact .moveLevel s st.serving e.stream _ _ cmd.tag
          · exact .refl s

theorem loadTicketsReply_stations (cmd : Cmd) (s : State) : StationsFrame s (loadTicketsReply cmd s).state := by
  unfold loadTicketsReply
  split
  · exact .refl s
  · split
    · exact .refl s
    · split
      · exact .refl s
      · exact .foldl .loadTicket _ s

theorem StationsFrame.evaluateBound (s : State) (k : Ticket) (tag : Tag) : StationsFrame s (s.evaluateBound k tag) := by
  unfold State.evaluateBound
  split
  · exact .refl s
  · exact .evaluate s _ tag

theorem admitTicketReply_stations (cmd : Cmd) (s : State) : StationsFrame s (admitTicketReply cmd s).state := by
  unfold admitTicketReply
  split
  · exact .refl s
  · exact .refl s
  · exact .refl s
  · next g t k _ _ =>
    have admitted : StationsFrame s (s.admitAt t k g cmd.tag) :=
      ((StationsFrame.setTicket s t _).trans (.setZone _ _ _)).trans (.evaluateBound _ k cmd.tag)
    unfold admitTicketAt
    dsimp only
    repeat' (split; exact .refl s)
    exact admitted

theorem exitTicketReply_stations (cmd : Cmd) (s : State) : StationsFrame s (exitTicketReply cmd s).state := by
  unfold exitTicketReply
  split
  · exact .refl s
  · split
    · exact .refl s
    · split
      · exact .refl s
      · split
        · exact .refl s
        · exact ((StationsFrame.setTicket s _ _).trans (.setZone _ _ _)).trans (.evaluateBound _ _ cmd.tag)

theorem voidTicketReply_stations (cmd : Cmd) (s : State) : StationsFrame s (voidTicketReply cmd s).state := by
  have mark : ∀ t k, StationsFrame s (s.markVoid t k) := by
    intro t k
    unfold State.markVoid
    dsimp only
    split
    · exact (StationsFrame.setTicket s t _).trans (.setZone _ _ _)
    · exact .setTicket s t _
  unfold voidTicketReply
  split
  · exact .refl s
  · next t k _ =>
    split
    · exact .refl s
    · dsimp only
      unfold State.voidRecord
      dsimp only
      split
      · exact mark t k
      · next h _ =>
        refine (((mark t k).trans (.clearBinding _ h t .voiding cmd.tag)).trans ?_).trans (.evaluate _ h cmd.tag)
        exact .foldl (fun s (e : Subscription) => (StationsFrame.leaveAndRemove s h e.stream cmd.tag).trans (.notify _ _ _ _))
          _ _

theorem setZoneReply_stations (cmd : Cmd) (s : State) : StationsFrame s (setZoneReply cmd s).state := by
  unfold setZoneReply
  split
  · split
    · exact .refl s
    · exact .setZone s _ _
  · exact .refl s
  · exact .refl s

theorem bindTicketReply_stations (cmd : Cmd) (s : State) : StationsFrame s (bindTicketReply cmd s).state := by
  unfold bindTicketReply
  split
  · exact .refl s
  · split
    · exact .refl s
    · next t k _ =>
      unfold bindTicketTo
      split
      · exact .refl s
      · split
        · exact .evaluate s _ cmd.tag
        · split
          · exact .refl s
          · split
            · exact .makeBinding s _ t cmd.tag
            · next earlier _ =>
              split
              · exact ((StationsFrame.clearBinding s earlier t .move cmd.tag).trans (.evaluate _ earlier cmd.tag)).trans
                  (.makeBinding _ _ t cmd.tag)
              · exact .refl s

theorem unbindTicketReply_stations (cmd : Cmd) (s : State) : StationsFrame s (unbindTicketReply cmd s).state := by
  unfold unbindTicketReply
  split
  · exact .refl s
  · split
    · exact .refl s
    · next t k _ _ h _ => exact (StationsFrame.clearBinding s h t .unbind cmd.tag).trans (.evaluate _ h cmd.tag)

theorem openStreamReply_stations (p : PortId) (cmd : Cmd) (s : State) :
    StationsFrame s (openStreamReply p cmd s).state := by
  unfold openStreamReply
  split
  · split
    · exact .setStream s _ _
    · exact .refl s
    · exact .refl s
  · exact .refl s
  · exact .refl s
  · exact .refl s

theorem StationsFrame.adjustCarriages (s : State) (x : StreamId) (tag : Tag) :
    StationsFrame s (s.adjustCarriages x tag).state := by
  have all : ∀ (cs : List CellId) (r : RateChange), StationsFrame r.state (cs.foldl (adjustCarriage x tag) r).state := by
    intro cs
    induction cs with
    | nil => exact fun r => .refl _
    | cons c cs ih =>
      intro r
      refine StationsFrame.trans ?_ (ih _)
      unfold adjustCarriage
      split
      · exact .refl _
      · exact (StationsFrame.setCarriage r.state c x _).trans (.evalMode _ c x tag)
  exact all (s.cellsWith x) ⟨s, 0, 0⟩

theorem setStreamRateReply_stations (cmd : Cmd) (s : State) : StationsFrame s (setStreamRateReply cmd s).state := by
  unfold setStreamRateReply
  split
  · exact .refl s
  · split
    · exact .refl s
    · exact .refl s
    · exact (StationsFrame.setStream s _ _).trans (.adjustCarriages _ _ cmd.tag)

theorem closeStreamReply_stations (cmd : Cmd) (s : State) : StationsFrame s (closeStreamReply cmd s).state := by
  unfold closeStreamReply
  split
  · exact .refl s
  · split
    · exact .refl s
    · exact .refl s
    · exact .setStream s _ _

theorem subscribeReply_stations (cmd : Cmd) (s : State) : StationsFrame s (subscribeReply cmd s).state := by
  unfold subscribeReply
  split
  · exact .refl s
  · next x _ =>
    split
    · exact .refl s
    · next st hst =>
      have appended : StationsFrame s (s.appendSub (cmd.op 2).toNat st x) := by
        refine StationsFrame.trans (.setStation (station?_of_asStation hst) ?_) (.setStream _ x _)
        rfl
      split
      · exact .refl s
      · exact .refl s
      · unfold subscribeStation
        split
        · exact .refl s
        · split
          · exact .refl s
          · exact appended.trans (.evaluateWith _ _ cmd.tag true (some x))

theorem unsubscribeReply_stations (cmd : Cmd) (s : State) : StationsFrame s (unsubscribeReply cmd s).state := by
  unfold unsubscribeReply
  split
  · exact .refl s
  · split
    · exact .refl s
    · split
      · exact .refl s
      · exact .leaveAndRemove s _ _ cmd.tag

theorem StationsFrame.setPolicies (s : State) (secs : List SectorId) (t : Nat) (pr : Priority) :
    StationsFrame s (s.setPolicies secs t pr) :=
  .foldl (act := fun s sec => s.setSector sec { s.sector sec with reservation := t, priority := pr })
    (fun _ _ => .beside rfl rfl rfl rfl rfl) secs s

theorem setSectorPolicyReply_stations (p : PortId) (cmd : Cmd) (s : State) :
    StationsFrame s (setSectorPolicyReply p cmd s).state := by
  unfold setSectorPolicyReply
  split
  · split
    · exact .refl s
    · exact .setPolicies s _ _ _
  · exact .refl s
  · exact .refl s
  · exact .refl s

theorem armMomentReply_stations (cmd : Cmd) (s : State) : StationsFrame s (armMomentReply cmd s).state := by
  unfold armMomentReply
  split
  · exact .beside rfl rfl rfl rfl rfl
  · exact .refl s
  · exact .refl s

theorem EngineFrame.toStations {cells : CellId → Prop} {s t : State} (f : EngineFrame cells s t) : StationsFrame s t := by
  obtain ⟨⟨ca, pl, se, pa, st, po, rfl⟩, _⟩ := f
  exact .beside rfl rfl rfl rfl rfl

theorem BusFrame.toStations {s t : State} (f : BusFrame s t) : StationsFrame s t := by
  obtain ⟨⟨po, ar, an, rfl⟩, _⟩ := f
  exact .beside rfl rfl rfl rfl rfl

theorem StationsFrame.momentPulse (s : State) (now : Instant) : StationsFrame s (s.momentPulse now) := by
  unfold State.momentPulse
  split
  · exact .refl s
  · exact .refl s
  · next value mask _ =>
    dsimp only
    refine StationsFrame.trans ?_ (.notify _ _ _ _)
    unfold State.openSurge
    split
    · exact .beside rfl rfl rfl rfl rfl
    · exact .beside rfl rfl rfl rfl rfl

theorem openMatchReply_stations (now : Instant) (cmd : Cmd) (s : State) :
    StationsFrame s (openMatchReply now cmd s).state := by
  unfold openMatchReply
  split
  · exact .refl s
  · refine StationsFrame.trans (StationsFrame.trans ?_ (EngineFrame.startBuild (cells := fun _ => False) _ _ _).toStations) (.notify _ _ _ _)
    exact .beside rfl rfl rfl rfl rfl

theorem declarePortReply_stations (p : PortId) (cmd : Cmd) (s : State) :
    StationsFrame s (declarePortReply p cmd s).state := by
  have declared : ∀ r, StationsFrame s (s.declare p r) := fun r => .beside rfl rfl rfl rfl rfl
  unfold declarePortReply
  split
  · exact declared _
  · unfold declareCell
    split
    · split
      · exact .refl s
      · split
        · exact .refl s
        · exact declared _
    · exact .refl s
    · exact .refl s
  · exact declared _
  · exact declared _
  · exact .refl s

end Sys2Proof.Machine
end

section
namespace Sys2Proof.Machine

open Sys2Proof

/-! ### The counts of a cell -/

@[simp] theorem rosterEntry_setStation (s : State) (h : Handle) (st : Station) (d : CellId) :
    (s.setStation h st).rosterEntry d = s.rosterEntry d := rfl

theorem rosterEntry_setRoster (s : State) (c d : CellId) (e : RosterEntry) :
    (s.setRoster c e).rosterEntry d = if c = d then e else s.rosterEntry d := by
  split
  · next h => rw [h, rosterEntry_setRoster_self]
  · next h => rw [rosterEntry_setRoster_of_ne s e (Ne.symm h)]

@[simp] theorem rosterEntry_addCount (s : State) (c d : CellId) :
    (s.addCount c).rosterEntry d =
      { s.rosterEntry d with count := (s.rosterEntry d).count + if c = d then 1 else 0 } := by
  rw [State.addCount, rosterEntry_setRoster]
  by_cases h : c = d <;> simp [h]

@[simp] theorem rosterEntry_subCount (s : State) (c d : CellId) :
    (s.subCount c).rosterEntry d =
      { s.rosterEntry d with count := (s.rosterEntry d).count - if c = d then 1 else 0 } := by
  rw [State.subCount, rosterEntry_setRoster]
  by_cases h : c = d <;> simp [h]

@[simp] theorem rosterEntry_addPending (s : State) (c d : CellId) :
    (s.addPending c).rosterEntry d =
      { s.rosterEntry d with pendingIn := (s.rosterEntry d).pendingIn + if c = d then 1 else 0 } := by
  rw [State.addPending, rosterEntry_setRoster]
  by_cases h : c = d <;> simp [h]

@[simp] theorem rosterEntry_subPending (s : State) (c d : CellId) :
    (s.subPending c).rosterEntry d =
      { s.rosterEntry d with pendingIn := (s.rosterEntry d).pendingIn - if c = d then 1 else 0 } := by
  rw [State.subPending, rosterEntry_setRoster]
  by_cases h : c = d <;> simp [h]

theorem rosterWf_setRoster {s : State} (h : tableWfDefault {} s.roster = true) (c : CellId) (e : RosterEntry) :
    tableWfDefault {} (s.setRoster c e).roster = true := tableWfDefault_write h c.val e

theorem hasRoom_iff (s : State) (c : CellId) :
    s.hasRoom c = true ↔ (s.rosterEntry c).count + (s.rosterEntry c).pendingIn < s.venue.cellLimit := decide_eq_true_iff

/-! ### A station that moves -/

/-- A live station replaced under its address, with the counts that go with it. -/
theorem State.recordsAgree.change {s t : State} {g : Handle} {a b : Station} (h : s.recordsAgree)
    (ha : s.station? g = some a) (haddr : b.address = a.address) (hv : t.venue = s.venue)
    (hm : t.addressMap = s.addressMap) (hh : t.handles = s.handles) (hst : t.stations = tableStore s.stations g b)
    (hroster : tableWfDefault {} s.roster = true → tableWfDefault {} t.roster = true) (hb : claimantDiffers b)
    (hchange : ∀ c, bit (servedBy c a) ≤ (s.rosterEntry c).count → bit (claimedInto c a) ≤ (s.rosterEntry c).pendingIn →
      (s.rosterEntry c).count + (s.rosterEntry c).pendingIn ≤ s.venue.cellLimit →
      (t.rosterEntry c).count + bit (servedBy c a) = (s.rosterEntry c).count + bit (servedBy c b) ∧
      (t.rosterEntry c).pendingIn + bit (claimedInto c a) = (s.rosterEntry c).pendingIn + bit (claimedInto c b) ∧
      (t.rosterEntry c).count + (t.rosterEntry c).pendingIn ≤ s.venue.cellLimit) : t.recordsAgree := by
  obtain ⟨hhandles, hcounts⟩ := h
  have hw : tableWf s.stations = true := hhandles.1
  refine ⟨handlesOk_congr ?_ hm hh hhandles, countsOk_of_change hw hcounts hv hst (hroster hcounts.1) hb fun c => ?_⟩
  · rw [hst]
    exact tableMap_store hw ha haddr
  · obtain ⟨hserved, hclaimed⟩ := tally_le_counts hw hcounts g c
    obtain ⟨_, _, _, hrooms⟩ := hcounts
    simp only [ha, tally_some] at hserved hclaimed ⊢
    exact hchange c hserved hclaimed (hrooms c).2.2

section
variable {s : State} {g : Handle} {a : Station} {c d claimant : CellId} {deadline : FrameNo} {tag : Tag}

theorem bit_servedBy (h : isLingering a.state = false) : bit (servedBy d a) = if a.serving = d then 1 else 0 := by
  simp [servedBy, h, bit]

theorem bit_servedBy_of_lingering (h : isLingering a.state = true) : bit (servedBy d a) = 0 := by
  simp [servedBy, h, bit]

theorem bit_claimedInto (h : a.state = .inHandover claimant deadline tag) :
    bit (claimedInto d a) = if claimant = d then 1 else 0 := by
  simp [claimedInto, h, bit]

theorem bit_claimedInto_of_associated (h : a.state = .associated) : bit (claimedInto d a) = 0 := by
  simp [claimedInto, h, bit]

theorem bit_claimedInto_of_lingering (h : isLingering a.state = true) : bit (claimedInto d a) = 0 := by
  unfold isLingering at h
  unfold claimedInto
  cases hs : a.state with
  | associated => rfl
  | inHandover c f t => simp [hs] at h
  | lingering f t => rfl

theorem isLingering_of_associated (h : a.state = .associated) : isLingering a.state = false := by rw [h]; rfl

theorem isLingering_of_inHandover (h : a.state = .inHandover claimant deadline tag) : isLingering a.state = false := by
  rw [h]
  rfl

/-- A handover completed: the count follows the station, and the claim is no longer pending (R42). -/
theorem recordsAgree_completeHandover (h : s.recordsAgree) (by_ : Completion) :
    (s.completeHandover g by_).recordsAgree := by
  unfold State.completeHandover
  split
  · exact h
  · next a ha =>
    split
    · exact h
    · exact h
    · next claimant deadline tag hs =>
      have differs : claimant ≠ a.serving := by
        obtain ⟨_, _, _, hdiffers, _⟩ := h
        have := hdiffers g a ha
        rwa [claimantDiffers, hs] at this
      refine StationsFrame.recordsAgree
        (((StationsFrame.leaveOld _ _ _ _ _).trans (.evaluateWith _ g tag false none)).trans (.notify _ _ _ _)) ?_
      refine h.change ha ?_ rfl rfl rfl rfl
        (fun hr => rosterWf_setRoster (rosterWf_setRoster (rosterWf_setRoster hr _ _) _ _) _ _) trivial fun d served claimed room => ?_
      · rfl
      · rw [bit_servedBy (isLingering_of_inHandover hs)] at served
        rw [bit_claimedInto hs] at claimed
        rw [bit_servedBy (isLingering_of_inHandover hs), bit_claimedInto hs, bit_servedBy rfl,
          bit_claimedInto_of_associated rfl]
        simp only [rosterEntry_subPending, rosterEntry_addCount, rosterEntry_subCount, rosterEntry_setStation]
        by_cases hd : claimant = d
        · subst hd
          simp only [differs.symm, if_true, if_false] at served claimed ⊢
          omega
        · simp only [hd, if_false]
          omega

/-- A claim abandoned is no longer pending (R45, R47). -/
theorem recordsAgree_abandonClaim (h : s.recordsAgree) (lapsed : Bool) : (s.abandonClaim g lapsed).recordsAgree := by
  unfold State.abandonClaim
  split
  · exact h
  · next a ha =>
    split
    · exact h
    · exact h
    · next claimant deadline tag hs =>
      refine StationsFrame.recordsAgree (.notify _ _ _ _) ?_
      refine h.change ha ?_ rfl rfl rfl rfl (fun hr => rosterWf_setRoster hr _ _) trivial fun d served claimed room => ?_
      · rfl
      · rw [bit_servedBy (isLingering_of_inHandover hs)] at served
        rw [bit_claimedInto hs] at claimed
        rw [bit_servedBy (isLingering_of_inHandover hs), bit_claimedInto hs, bit_servedBy rfl,
          bit_claimedInto_of_associated rfl]
        simp only [rosterEntry_subPending, rosterEntry_setStation, true_and]
        omega

/-- A claim accepted is pending at a cell that has room for it (R20, R39). -/
theorem recordsAgree_acceptClaim (h : s.recordsAgree) (ha : s.station? g = some a) (hs : a.state = .associated)
    (hc : c ≠ a.serving) (hroom : s.hasRoom c = true) (tag : Tag) : (s.acceptClaim g a c tag).recordsAgree := by
  rw [hasRoom_iff] at hroom
  refine StationsFrame.recordsAgree (.notify _ _ _ _) ?_
  refine h.change ha ?_ rfl rfl rfl rfl (fun hr => rosterWf_setRoster hr _ _) ?_ fun d served claimed room => ?_
  · rfl
  · exact hc
  · rw [bit_servedBy (isLingering_of_associated hs), bit_claimedInto_of_associated hs, bit_servedBy rfl,
      bit_claimedInto rfl]
    simp only [rosterEntry_addPending, rosterEntry_setStation, true_and]
    by_cases hd : c = d
    · subst hd
      simp only [if_true, true_and]
      omega
    · simp only [hd, if_false, true_and]
      exact room

/-- A station that begins to linger is no longer counted (R28). -/
theorem recordsAgree_enterLinger (h : s.recordsAgree) (ha : s.station? g = some a) (hs : a.state = .associated) (tag : Tag) :
    (s.enterLinger g a tag).recordsAgree := by
  refine StationsFrame.recordsAgree (.evaluate _ g tag) ?_
  refine h.change ha ?_ rfl rfl rfl rfl (fun hr => rosterWf_setRoster hr _ _) trivial fun d served claimed room => ?_
  · rfl
  · rw [bit_servedBy (isLingering_of_associated hs)] at served
    rw [bit_servedBy (isLingering_of_associated hs), bit_claimedInto_of_associated hs, bit_servedBy_of_lingering rfl,
      bit_claimedInto_of_lingering rfl]
    simp only [rosterEntry_subCount, rosterEntry_setStation, true_and]
    omega

/-- A revived station is counted at a cell that has room for it (R20, R25). -/
theorem recordsAgree_reviveStation (h : s.recordsAgree) (ha : s.station? g = some a) (hs : isLingering a.state = true)
    (hroom : s.hasRoom c = true) (l : Level) (tag : Tag) : (s.reviveStation g a c l tag).recordsAgree := by
  rw [hasRoom_iff] at hroom
  refine StationsFrame.recordsAgree (.evaluate _ g tag) ?_
  refine h.change ha ?_ rfl rfl rfl rfl (fun hr => rosterWf_setRoster hr _ _) trivial fun d served claimed room => ?_
  · rfl
  · rw [bit_servedBy_of_lingering hs, bit_claimedInto_of_lingering hs, bit_servedBy rfl, bit_claimedInto_of_associated rfl]
    simp only [rosterEntry_addCount, rosterEntry_setStation, true_and]
    by_cases hd : c = d
    · subst hd
      simp only [if_true, true_and]
      omega
    · simp only [hd, if_false, true_and]
      exact room

end

end Sys2Proof.Machine
end

section
namespace Sys2Proof.Machine

open Sys2Proof

/-! ### The Handle Stack -/

/-- The handles returned are distinct, and lie below those never taken (R18). -/
def HandleStack.ok (k : HandleStack) : Prop :=
  k.returned.Nodup ∧ (∀ h ∈ k.returned, h < k.fresh) ∧ k.fresh ≤ 65536

/-- A handle is off the stack. -/
def HandleStack.taken (k : HandleStack) (h : Handle) : Prop := h < k.fresh ∧ h ∉ k.returned

/-- Of a stack in order, the handle on top is taken off it, and no other (R18). -/
theorem popHandle_taken {k rest : HandleStack} {h : Handle} (hk : k.ok) (hp : popHandle k = some (h, rest)) :
    rest.ok ∧ ¬k.taken h ∧ (∀ g, rest.taken g ↔ g = h ∨ k.taken g) ∧ handlesFree rest + 1 = handlesFree k := by
  obtain ⟨returned, fresh⟩ := k
  obtain ⟨hn, hlt, hfresh⟩ := hk
  simp only [HandleStack.ok, HandleStack.taken, handlesFree] at hn hlt hfresh ⊢
  unfold popHandle at hp
  cases returned with
  | cons r returned =>
    cases hp
    obtain ⟨hr, hn⟩ := List.nodup_cons.1 hn
    have hrlt : h < fresh := hlt h (by simp)
    refine ⟨⟨hn, fun g hg => hlt g (by simp [hg]), hfresh⟩, by simp, fun g => ?_, by simp only [List.length_cons]; omega⟩
    simp only [List.mem_cons, not_or]
    by_cases hg : g = h
    · simp [hg, hr, hrlt]
    · simp [hg]
  | nil =>
    simp only [Option.ite_none_right_eq_some] at hp
    obtain ⟨hless, hp⟩ := hp
    cases hp
    refine ⟨⟨hn, by simp, hless⟩, by simp, fun g => ?_, by simp only [List.length_nil]; omega⟩
    simp only [List.not_mem_nil, not_false_eq_true, and_true]
    exact Nat.lt_succ_iff_lt_or_eq.trans or_comm

/-- A handle put back is on the stack again, and every other is where it was (R18). -/
theorem pushHandle_taken {k : HandleStack} {h : Handle} (hk : k.ok) (ht : k.taken h) :
    (pushHandle h k).ok ∧ (∀ g, (pushHandle h k).taken g ↔ g ≠ h ∧ k.taken g) ∧
      handlesFree (pushHandle h k) = handlesFree k + 1 := by
  obtain ⟨returned, fresh⟩ := k
  obtain ⟨hn, hlt, hfresh⟩ := hk
  obtain ⟨hless, hout⟩ := ht
  simp only [HandleStack.ok, HandleStack.taken, handlesFree] at hn hlt hfresh hless hout ⊢
  unfold pushHandle
  by_cases hj : returned = [] ∧ h + 1 = fresh
  · obtain ⟨rfl, rfl⟩ := hj
    simp only [true_and, if_true]
    refine ⟨⟨hn, by simp, by omega⟩, fun g => ?_, by omega⟩
    simp only [List.not_mem_nil, not_false_eq_true, and_true]
    rw [and_comm, ← Nat.lt_iff_le_and_ne.trans (and_congr_left' Nat.lt_succ_iff.symm)]
  · rw [if_neg hj]
    refine ⟨⟨List.nodup_cons.2 ⟨hout, hn⟩, fun g hg => ?_, hfresh⟩, fun g => ?_, by simp only [List.length_cons]; omega⟩
    · rcases List.mem_cons.1 hg with rfl | hg
      · exact hless
      · exact hlt g hg
    · simp only [List.mem_cons, not_or]
      exact and_left_comm

/-- The handle put back last is taken again first. -/
theorem popHandle_pushHandle {k : HandleStack} {h : Handle} (hk : k.ok) (ht : k.taken h) :
    popHandle (pushHandle h k) = some (h, k) := by
  obtain ⟨returned, fresh⟩ := k
  obtain ⟨_, _, hfresh⟩ := hk
  obtain ⟨hless, _⟩ := ht
  simp only at hfresh hless
  unfold pushHandle popHandle
  by_cases hj : returned = [] ∧ h + 1 = fresh
  · obtain ⟨rfl, rfl⟩ := hj
    simp only [true_and, if_true]
    rw [if_pos (by omega)]
  · rw [if_neg hj]

theorem handlesOk_iff (s : State) : s.handlesOk ↔ tableWf s.stations = true ∧ tableWf s.addressMap = true ∧ s.handles.ok ∧
    (∀ h, (s.station? h).isSome = true ↔ s.handles.taken h) ∧
    (∀ (a : BitVec 48) (h : Handle),
      tableFind s.addressMap a.toNat = some h ↔ ∃ st, s.station? h = some st ∧ st.address = a) ∧
    handlesFree s.handles + s.stations.length = 65536 := by
  simp only [State.handlesOk, HandleStack.ok, HandleStack.taken, and_assoc]

/-- The keys of two addresses differ. -/
theorem toNat_ne_of_ne {n : Nat} {a b : BitVec n} (h : a ≠ b) : a.toNat ≠ b.toNat := fun e => h (BitVec.eq_of_toNat_eq e)

/-- What a lookup by address finds (R17). -/
theorem stationByAddress_eq_some {s : State} {a : BitVec 48} {h : Handle} {st : Station} :
    s.stationByAddress a = some (h, st) ↔ tableFind s.addressMap a.toNat = some h ∧ s.station? h = some st := by
  unfold State.stationByAddress
  cases hm : tableFind s.addressMap a.toNat with
  | none => simp
  | some g =>
    simp only [Option.map_eq_some_iff, Prod.mk.injEq, Option.some.injEq]
    constructor
    · rintro ⟨_, hst, rfl, rfl⟩
      exact ⟨rfl, hst⟩
    · rintro ⟨rfl, hst⟩
      exact ⟨st, hst, rfl, rfl⟩

/-- An address that no lookup finds is the address of no station. -/
theorem address_unknown {s : State} (h : s.handlesOk) {a : BitVec 48} (ha : s.stationByAddress a = none) :
    tableFind s.addressMap a.toNat = none := by
  obtain ⟨_, _, _, _, haddr, _⟩ := (handlesOk_iff s).1 h
  by_contra hm
  obtain ⟨g, hg⟩ := Option.ne_none_iff_exists'.1 hm
  obtain ⟨st, hst, _⟩ := (haddr a g).1 hg
  rw [stationByAddress_eq_some.2 ⟨hg, hst⟩] at ha
  cases ha

/-! ### Records created and freed -/

/-- A new record takes the handle on top of the stack and an address that no station has (R18, R24). -/
theorem handlesOk_createStation {s : State} (h : s.handlesOk) {g : Handle} {rest : HandleStack} {a : BitVec 48}
    (ha : s.stationByAddress a = none) (hp : popHandle s.handles = some (g, rest)) (c : CellId) (l : Level) :
    (s.createStation g rest a c l).handlesOk := by
  have hunknown := address_unknown h ha
  obtain ⟨hw, hmap, hstack, hlive, haddr, hfree⟩ := (handlesOk_iff s).1 h
  obtain ⟨hrest, hfresh, htaken, hcount⟩ := popHandle_taken hstack hp
  have hnone : s.station? g = none := by
    rw [← Option.not_isSome_iff_eq_none, hlive]
    exact hfresh
  obtain ⟨st, hst, hsta⟩ : ∃ st : Station, (s.createStation g rest a c l).stations = tableStore s.stations g st ∧
    st.address = a := ⟨_, rfl, rfl⟩
  have find : ∀ k, (s.createStation g rest a c l).station? k = if k = g then some st else s.station? k := fun k => by
    rw [State.station?, hst]
    split
    · next hk => rw [hk, tableFind_store_self]
    · next hk => exact tableFind_store_of_ne _ _ hk
  rw [handlesOk_iff]
  refine ⟨by rw [hst]; exact tableWf_store hw g st, tableWf_store hmap _ _, hrest, fun k => ?_, fun b k => ?_, ?_⟩
  · rw [find, State.createStation_handles, htaken]
    split
    · next hk => simp [hk]
    · next hk => simp [hk, hlive]
  · rw [find, State.createStation_addressMap]
    by_cases hb : b = a
    · subst hb
      rw [tableFind_store_self]
      split
      · next hk => simp [hk, hsta]
      · next hk =>
        simp only [Option.some.injEq, Ne.symm hk, false_iff]
        rw [← haddr b k, hunknown]
        simp
    · rw [tableFind_store_of_ne _ _ (toNat_ne_of_ne hb), haddr]
      split
      · next hk => simp [hk, hnone, hsta, Ne.symm hb]
      · rfl
  · have := countP_store hw g st fun _ => true
    rw [show tableFind s.stations g = none from hnone] at this
    rw [hst, State.createStation_handles]
    simp only [List.countP_true, tally_none, bit, if_true] at this
    omega

/-- A freed record gives up its address and its handle (R18, R30). -/
theorem handlesOk_freeStation {s : State} (h : s.handlesOk) {g : Handle} {st : Station} (hst : s.station? g = some st) :
    (s.freeStation g st.address).handlesOk := by
  obtain ⟨hw, hmap, hstack, hlive, haddr, hfree⟩ := (handlesOk_iff s).1 h
  have hg : s.handles.taken g := (hlive g).1 (by simp [hst])
  obtain ⟨hrest, htaken, hcount⟩ := pushHandle_taken hstack hg
  have find : ∀ k, (s.freeStation g st.address).station? k = if k = g then none else s.station? k := fun k => by
    rw [State.station?, State.freeStation_stations]
    split
    · next hk => rw [hk, tableFind_erase_self]
    · next hk => exact tableFind_erase_of_ne _ hk
  rw [handlesOk_iff]
  refine ⟨tableWf_erase hw g, tableWf_erase hmap _, hrest, fun k => ?_, fun b k => ?_, ?_⟩
  · rw [find, State.freeStation_handles, htaken, ← hlive]
    by_cases hk : k = g <;> simp [hk]
  · rw [find, State.freeStation_addressMap]
    by_cases hb : b = st.address
    · subst hb
      rw [tableFind_erase_self]
      split
      · simp
      · next hk =>
        have hown := (haddr st.address g).2 ⟨st, hst, rfl⟩
        rw [← haddr, hown]
        simp [Ne.symm hk]
    · rw [tableFind_erase_of_ne _ (toNat_ne_of_ne hb), haddr]
      split
      · next hk => simp [hk, hst, Ne.symm hb]
      · rfl
  · have := countP_erase hw g fun _ => true
    rw [show tableFind s.stations g = some st from hst] at this
    rw [State.freeStation_stations, State.freeStation_handles]
    simp only [List.countP_true, tally_some, bit, if_true] at this
    omega

/-- A new record is counted at a cell that has room for it (R20, R24). -/
theorem recordsAgree_createStation {s : State} (h : s.recordsAgree) {g : Handle} {rest : HandleStack} {a : BitVec 48}
    {c : CellId} (ha : s.stationByAddress a = none) (hroom : s.hasRoom c = true)
    (hp : popHandle s.handles = some (g, rest)) (l : Level) : (s.createStation g rest a c l).recordsAgree := by
  obtain ⟨hhandles, hcounts⟩ := h
  obtain ⟨hw, _, hstack, hlive, _, _⟩ := (handlesOk_iff s).1 hhandles
  have hnone : s.station? g = none := by
    obtain ⟨_, hfresh, _, _⟩ := popHandle_taken hstack hp
    rw [← Option.not_isSome_iff_eq_none, hlive]
    exact hfresh
  rw [hasRoom_iff] at hroom
  refine ⟨handlesOk_createStation hhandles ha hp c l,
    countsOk_of_change hw hcounts rfl rfl (rosterWf_setRoster hcounts.1 c _) trivial fun d => ?_⟩
  have entry : (s.createStation g rest a c l).rosterEntry d =
      { s.rosterEntry d with count := (s.rosterEntry d).count + if c = d then 1 else 0 } := rosterEntry_addCount _ c d
  obtain ⟨_, _, _, hrooms⟩ := hcounts
  obtain ⟨_, _, room⟩ := hrooms d
  rw [entry, hnone, bit_servedBy rfl, bit_claimedInto_of_associated rfl]
  by_cases hd : c = d
  · subst hd
    simp only [tally_none, if_true, true_and]
    omega
  · simp only [tally_none, hd, if_false, true_and]
    exact room

/-- A freed LINGERING record was counted nowhere (R30). -/
theorem recordsAgree_freeStation {s : State} (h : s.recordsAgree) {g : Handle} {st : Station}
    (hst : s.station? g = some st) (hs : isLingering st.state = true) : (s.freeStation g st.address).recordsAgree := by
  obtain ⟨hhandles, hroster, hlimit, hdiffers, hcounts⟩ := h
  have hw : tableWf s.stations = true := hhandles.1
  refine ⟨handlesOk_freeStation hhandles hst, hroster, hlimit, fun k a ha => ?_, fun c => ?_⟩
  · by_cases hk : k = g
    · subst hk
      simp [State.station?] at ha
    · exact hdiffers k a (by simpa [State.station?, hk] using ha)
  · obtain ⟨hcount, hpending, hroom⟩ := hcounts c
    have served := countP_erase hw g (servedBy c)
    have claimed := countP_erase hw g (claimedInto c)
    rw [show tableFind s.stations g = some st from hst] at served claimed
    rw [tally_some, bit_servedBy_of_lingering hs, Nat.add_zero] at served
    rw [tally_some, bit_claimedInto_of_lingering hs, Nat.add_zero] at claimed
    exact ⟨hcount.trans served.symm, hpending.trans claimed.symm, hroom⟩

end Sys2Proof.Machine
end

section
namespace Sys2Proof.Machine

open Sys2Proof

/-! ### The acts of a boundary -/

theorem recordsAgree_foldl {α : Type} {act : State → α → State} (hact : ∀ s a, s.recordsAgree → (act s a).recordsAgree)
    (l : List α) (s : State) (h : s.recordsAgree) : (l.foldl act s).recordsAgree := by
  induction l generalizing s with
  | nil => exact h
  | cons a l ih => exact ih _ (hact s a h)

theorem recordsAgree_expireClaim (s : State) (g : Handle) (h : s.recordsAgree) : (s.expireClaim g).recordsAgree := by
  rcases expireClaim_cases s g with he | ⟨st, claimant, deadline, tag, _, _, he⟩
  · rwa [he]
  · rw [he]
    split
    · exact recordsAgree_abandonClaim h true
    · exact recordsAgree_completeHandover h .deadline

theorem recordsAgree_notify {s : State} (h : s.recordsAgree) (dest : PortUnit → Bool) (n : Notice) (tag : Tag) :
    (s.notify dest n tag).recordsAgree := (StationsFrame.notify s dest n tag).recordsAgree h

/-- A LINGERING record with its list emptied and its binding cleared, before it is freed (R30, steps 1 and 2). -/
def State.emptyRecord (s : State) (h : Handle) (st : Station) (tag : Tag) : State :=
  match st.ticket with
  | none => s.removeAllSubs h tag st.subs
  | some t => (s.removeAllSubs h tag st.subs).clearBinding h t .expiry tag

theorem expireLinger_eq {s : State} {h : Handle} {st : Station} {deadline : FrameNo} {tag : Tag}
    (hst : s.station? h = some st) (hs : st.state = .lingering deadline tag) :
    s.expireLinger h = ((s.emptyRecord h st tag).freeStation h st.address).notify (fun u => ownsCell u st.serving)
      (.lingerExpired h st.serving) tag := by
  simp only [State.expireLinger, hst, hs]
  cases ht : st.ticket <;> simp only [State.emptyRecord, ht]

theorem StationsFrame.emptyRecord (s : State) (g : Handle) (st : Station) (tag : Tag) :
    StationsFrame s (s.emptyRecord g st tag) := by
  unfold State.emptyRecord
  split
  · exact .removeAllSubs s g tag st.subs
  · exact (StationsFrame.removeAllSubs s g tag st.subs).trans (.clearBinding _ g _ .expiry tag)

theorem StationsFrame.station? {s t : State} (f : StationsFrame s t) (hw : tableWf s.stations = true) {g : Handle}
    {a : Station} (ha : s.station? g = some a) : ∃ b, t.station? g = some b ∧ b.place = a.place := by
  have find : (t.station? g).map Station.place = (s.station? g).map Station.place := by
    simp only [State.station?, ← tableFind_map, f.places hw]
  rw [ha] at find
  exact Option.map_eq_some_iff.1 find

theorem recordsAgree_expireLinger (s : State) (g : Handle) (h : s.recordsAgree) : (s.expireLinger g).recordsAgree := by
  cases hst : s.station? g with
  | none => simpa only [State.expireLinger, hst] using h
  | some st =>
    cases hs : st.state with
    | associated => simpa only [State.expireLinger, hst, hs] using h
    | inHandover c deadline tag => simpa only [State.expireLinger, hst, hs] using h
    | lingering deadline tag =>
      have emptied := StationsFrame.emptyRecord s g st tag
      obtain ⟨b, hb, hplace⟩ := emptied.station? h.1.1 hst
      simp only [Station.place, Prod.mk.injEq] at hplace
      obtain ⟨haddr, hstate, _⟩ := hplace
      rw [expireLinger_eq hst hs, ← haddr]
      exact recordsAgree_notify (recordsAgree_freeStation (emptied.recordsAgree h) hb (by rw [hstate, hs]; rfl)) _ _ _

/-- Every act of a boundary keeps the maps, the stack and the counts in agreement with the stations. -/
theorem recordsAgree_act (s : State) (a : BoundaryAct) (h : s.recordsAgree) : (s.act a).recordsAgree := by
  cases a with
  | claimDeadline => exact recordsAgree_foldl recordsAgree_expireClaim _ s h
  | lingerExpiry => exact recordsAgree_foldl recordsAgree_expireLinger _ s h
  | drainCompletion => exact (StationsFrame.actDrainCompletion s).recordsAgree h
  | surgeEnd => exact (StationsFrame.actSurgeEnd s).recordsAgree h

theorem recordsAgree_settle (s : State) (h : s.recordsAgree) : s.settle.recordsAgree :=
  recordsAgree_act _ .surgeEnd
    (recordsAgree_act _ .drainCompletion (recordsAgree_act _ .lingerExpiry (recordsAgree_act s .claimDeadline h)))

theorem recordsAgree_boundary (s : State) (now : Instant) (early : List BoundaryAct) (h : s.recordsAgree) :
    (s.boundary now early).recordsAgree := by
  have raised : StationsFrame s (s.advanceFrame now).raiseFrame := .beside rfl rfl rfl rfl rfl
  exact (EngineFrame.planBoundary _).toStations.recordsAgree
    (recordsAgree_foldl recordsAgree_act early _ (raised.recordsAgree h))

theorem recordsAgree_setClock {s : State} (h : s.recordsAgree) (c : ClockState) (strobe : Instant) :
    (s.setClock c strobe).recordsAgree := StationsFrame.recordsAgree (.beside rfl rfl rfl rfl rfl) h

theorem recordsAgree_frameStrobe (s : State) (now : Instant) (early : List BoundaryAct) (h : s.recordsAgree) :
    (s.frameStrobe now early).recordsAgree := by
  have moved := recordsAgree_setClock (recordsAgree_boundary s now early h) .external now
  unfold State.frameStrobe
  split
  · exact h
  · split
    · exact moved
    · exact h
  · split
    · exact recordsAgree_notify moved _ _ _
    · exact h

theorem recordsAgree_strobeLossExpiry (s : State) (early : List BoundaryAct) (h : s.recordsAgree) :
    (s.strobeLossExpiry early).recordsAgree := by
  unfold State.strobeLossExpiry
  split
  · exact h
  · exact h
  · exact recordsAgree_notify (recordsAgree_setClock (recordsAgree_boundary s _ early h) _ _) _ _ _

theorem recordsAgree_dividerExpiry (s : State) (early : List BoundaryAct) (h : s.recordsAgree) :
    (s.dividerExpiry early).recordsAgree := by
  unfold State.dividerExpiry
  split
  · exact h
  · exact h
  · exact recordsAgree_boundary s _ early h

/-! ### The commands -/

section
variable {s : State} (h : s.recordsAgree) (p : PortId) (cmd : Cmd)
include h

theorem recordsAgree_associateReply : (associateReply p cmd s).state.recordsAgree := by
  unfold associateReply
  split
  · exact h
  · next a _ =>
    split
    · exact h
    · next c _ =>
      split
      · exact h
      · unfold associateAt
        dsimp only
        split
        · next g st hfound =>
          obtain ⟨_, hst⟩ := stationByAddress_eq_some.1 hfound
          split
          · exact h
          · next hlingers =>
            split
            · exact h
            · next hroom => exact recordsAgree_reviveStation h hst (by simpa using hlingers) (by simpa using hroom) _ _
        · next hunknown =>
          split
          · exact h
          · next hroom =>
            split
            · exact h
            · next g rest hpop => exact recordsAgree_createStation h hunknown (by simpa using hroom) hpop _

theorem recordsAgree_detachReply : (detachReply p cmd s).state.recordsAgree := by
  unfold detachReply
  split
  · exact h
  · next st hst =>
    split
    · exact h
    · split
      · exact h
      · split
        · exact h
        · split
          · exact h
          · next hs => exact recordsAgree_enterLinger h (station?_of_asStation hst) hs cmd.tag
          · exact recordsAgree_completeHandover h .detach

theorem recordsAgree_claimReply : (claimReply p cmd s).state.recordsAgree := by
  unfold claimReply
  split
  · exact h
  · next c _ =>
    split
    · exact h
    · split
      · exact h
      · next st hst =>
        unfold claimStation
        split
        · exact h
        · split
          · exact h
          · next hc =>
            split
            · exact h
            · split
              · exact h
              · exact h
            · next hs =>
              split
              · next hroom => exact recordsAgree_acceptClaim h (station?_of_asStation hst) hs hc hroom cmd.tag
              · exact h

theorem recordsAgree_releaseReply : (releaseReply p cmd s).state.recordsAgree := by
  unfold releaseReply
  split
  · exact h
  · split
    · exact h
    · split
      · exact h
      · split
        · exact h
        · split
          · exact h
          · exact h
          · exact recordsAgree_completeHandover h .release

theorem recordsAgree_withdrawReply : (withdrawReply p cmd s).state.recordsAgree := by
  unfold withdrawReply
  split
  · exact h
  · split
    · exact h
    · split
      · exact h
      · exact h
      · split
        · exact h
        · exact recordsAgree_abandonClaim h false

end

/-- A part with no station has its maps, its stack and its counts in agreement with them. -/
theorem recordsAgree_of_noStations {s : State} (hst : s.stations = []) (hm : s.addressMap = []) (hh : s.handles = {})
    (hr : s.roster = []) (hlimit : s.venue.cellLimit ≤ 255) : s.recordsAgree := by
  refine ⟨(handlesOk_iff s).2 ⟨by rw [hst]; rfl, by rw [hm]; rfl, ?_, ?_, ?_, ?_⟩, by rw [hr]; rfl, hlimit, ?_, ?_⟩
  · rw [hh]
    exact ⟨.nil, by simp, by decide⟩
  · simp [State.station?, hst, hh, HandleStack.taken]
  · simp [State.station?, hst, hm]
  · rw [hst, hh]
    rfl
  · simp [State.station?, hst]
  · simp [State.rosterEntry, hst, hr]

theorem recordsAgree_setVenueReply {s : State} (hl : s.lifecycleOk) (hd : s.device = .setup) (h : s.recordsAgree)
    (cmd : Cmd) : (setVenueReply cmd s).state.recordsAgree := by
  simp only [State.lifecycleOk, hd] at hl
  obtain ⟨_, _, _, hst, hm, hh, hr, _⟩ := hl
  unfold setVenueReply
  split
  · exact h
  · split
    · exact h
    · split
      · exact h
      · refine recordsAgree_of_noStations hst hm hh hr ?_
        have := clampTo_eq (by decide : 1 ≤ 255) (cmd.word 0 4).toNat
        simp only [venueOf]
        omega

/-- Every command that passes the device state check keeps the agreement (R1). -/
theorem recordsAgree_bodyOf {c : Command} {s : State} (hl : s.lifecycleOk) (h : s.recordsAgree)
    (hd : stateRefusal s.device c = none) (p : PortId) (now : Instant) (cmd : Cmd) :
    (bodyOf c p now cmd s).state.recordsAgree := by
  have query : ∀ {t : State}, t = s → t.recordsAgree := by
    rintro t rfl
    exact h
  cases c with
  | declarePort => exact (declarePortReply_stations p cmd s).recordsAgree h
  | setVenue =>
    cases hs : s.device with
    | setup => exact recordsAgree_setVenueReply hl hs h cmd
    | service => simp [hs, stateRefusal] at hd
  | openMatch => exact (openMatchReply_stations now cmd s).recordsAgree h
  | closeMatch => exact recordsAgree_of_noStations rfl rfl rfl rfl h.2.2.1
  | readStation => exact query (readStationReply_state cmd s)
  | readTicket => exact query (readTicketReply_state cmd s)
  | readStream => exact query (readStreamReply_state cmd s)
  | readCarriage => exact query (readCarriageReply_state cmd s)
  | readZone => exact query (readZoneReply_state cmd s)
  | readCell => exact query (readCellReply_state cmd s)
  | associate => exact recordsAgree_associateReply h p cmd
  | detach => exact recordsAgree_detachReply h p cmd
  | reportLevel => exact (reportLevelReply_stations p cmd s).recordsAgree h
  | claim => exact recordsAgree_claimReply h p cmd
  | release => exact recordsAgree_releaseReply h p cmd
  | withdraw => exact recordsAgree_withdrawReply h p cmd
  | setSectorPolicy => exact (setSectorPolicyReply_stations p cmd s).recordsAgree h
  | loadTickets => exact (loadTicketsReply_stations cmd s).recordsAgree h
  | admitTicket => exact (admitTicketReply_stations cmd s).recordsAgree h
  | exitTicket => exact (exitTicketReply_stations cmd s).recordsAgree h
  | voidTicket => exact (voidTicketReply_stations cmd s).recordsAgree h
  | setZone => exact (setZoneReply_stations cmd s).recordsAgree h
  | bindTicket => exact (bindTicketReply_stations cmd s).recordsAgree h
  | unbindTicket => exact (unbindTicketReply_stations cmd s).recordsAgree h
  | openStream => exact (openStreamReply_stations p cmd s).recordsAgree h
  | setStreamRate => exact (setStreamRateReply_stations cmd s).recordsAgree h
  | closeStream => exact (closeStreamReply_stations cmd s).recordsAgree h
  | subscribe => exact (subscribeReply_stations cmd s).recordsAgree h
  | unsubscribe => exact (unsubscribeReply_stations cmd s).recordsAgree h
  | armMoment => exact (armMomentReply_stations cmd s).recordsAgree h

/-- What the last boundary has left due, taken, keeps what a part in SETUP holds. -/
theorem lifecycleOk_settle {s : State} (h : s.lifecycleOk) : s.settle.lifecycleOk := by
  cases hs : s.device with
  | setup => rwa [settle_of_settled (settled_of_setup h hs)]
  | service => exact (RecordFrame.settle becomesAssociated_associated s).toMatch.lifecycleOk h hs

/-- Every row keeps the maps, the stack and the counts in agreement with the stations (R15, R17 to R19). -/
theorem Effect.recordsAgree {i : Instr} {s t : State} (he : Effect s i t) (hl : s.lifecycleOk) (h : s.recordsAgree) :
    t.recordsAgree := by
  have settled := recordsAgree_settle s h
  cases he with
  | reset => exact recordsAgree_of_noStations rfl rfl rfl rfl (by decide : State.reset.venue.cellLimit ≤ 255)
  | act a => exact recordsAgree_act s a h
  | command c p now =>
    rcases serve_effect p c (bodyOf c p now) s.settle with hb | ⟨cmd, hd, hr⟩
    · exact hb.toStations.recordsAgree settled
    · rw [hr]
      have completed : StationsFrame (bodyOf c p now cmd s.settle).state
          (finishCommand p cmd (bodyOf c p now cmd s.settle)) := .beside rfl rfl rfl rfl rfl
      exact completed.recordsAgree (recordsAgree_bodyOf (lifecycleOk_settle hl) settled hd p now cmd)
  | strobe now early => exact recordsAgree_frameStrobe _ now early settled
  | loss early => exact recordsAgree_strobeLossExpiry _ early settled
  | divider early => exact recordsAgree_dividerExpiry _ early settled
  | pulse now => exact (StationsFrame.momentPulse _ now).recordsAgree settled
  | build => exact (EngineFrame.finishBuild _).toStations.recordsAgree settled
  | bus i t hb => exact hb.toStations.recordsAgree settled

end Sys2Proof.Machine

open Sys2Proof Sys2Proof.Machine

/-- Settles O54, by the kinds of effect that a row can have: a station that moves takes its count with it, and every other
change leaves the stations in their places. -/
theorem stepKeepsStationsOk : Obligations.StepKeepsStationsOk := by
  intro s t hs ht
  obtain ⟨hl, hagree⟩ := (stationsOk_iff s).1 hs
  unfold step at ht
  split at ht
  · cases ht
    exact hs
  · next c rest _ =>
    have effect := effect_of_exec ht
    have waiting : StationsFrame s { s with pending := rest } := .beside rfl rfl rfl rfl rfl
    exact (stationsOk_iff t).2 ⟨effect.lifecycleOk hl, effect.recordsAgree hl (waiting.recordsAgree hagree)⟩
end

section
namespace Sys2Proof.Machine

open Sys2Proof

/-! ## Rows and the waiting queue -/

theorem pending_boundary (s : State) (now : Instant) (early : List BoundaryAct) :
    (s.boundary now early).pending = s.pending := by
  obtain ⟨_, _, _, _, _, _, h⟩ := (EngineFrame.planBoundary (early.foldl State.act (s.advanceFrame now).raiseFrame)).rest
  have acts := (RecordFrame.foldl (fun s a => .act becomesAssociated_associated s a) early
    (s.advanceFrame now).raiseFrame).pending
  rw [State.boundary, h]
  exact acts

theorem pending_frameStrobe (s : State) (now : Instant) (early : List BoundaryAct) :
    (s.frameStrobe now early).pending = s.pending := by
  unfold State.frameStrobe
  split
  · rfl
  · split
    · exact pending_boundary s now early
    · rfl
  · split
    · exact pending_boundary s now early
    · rfl

theorem pending_strobeLossExpiry (s : State) (early : List BoundaryAct) : (s.strobeLossExpiry early).pending = s.pending := by
  unfold State.strobeLossExpiry
  split
  · rfl
  · rfl
  · exact pending_boundary s _ early

theorem pending_dividerExpiry (s : State) (early : List BoundaryAct) : (s.dividerExpiry early).pending = s.pending := by
  unfold State.dividerExpiry
  split
  · rfl
  · rfl
  · exact pending_boundary s _ early

theorem pending_momentPulse (s : State) (now : Instant) : (s.momentPulse now).pending = s.pending := by
  unfold State.momentPulse State.openSurge
  split
  · rfl
  · rfl
  · dsimp only
    split <;> rfl

theorem pending_declarePortReply (p : PortId) (cmd : Cmd) (s : State) : (declarePortReply p cmd s).state.pending = s.pending := by
  unfold declarePortReply
  split
  · rfl
  · unfold declareCell
    split
    · split
      · rfl
      · split <;> rfl
    · rfl
    · rfl
  · rfl
  · rfl
  · rfl

theorem pending_setVenueReply (cmd : Cmd) (s : State) : (setVenueReply cmd s).state.pending = s.pending := by
  unfold setVenueReply
  split
  · rfl
  · split
    · rfl
    · split <;> rfl

theorem pending_openMatchReply (now : Instant) (cmd : Cmd) (s : State) :
    (openMatchReply now cmd s).state.pending = s.pending := by
  have begun : ∀ (t : State) (f : FrameNo), (t.beginPass f).pending = t.pending := fun t f => by
    obtain ⟨_, _, _, _, _, _, h⟩ := (EngineFrame.startBuild (cells := fun _ => True) t f (t.passOrder t.startSector)).rest
    rw [State.beginPass, h]
  unfold openMatchReply
  split
  · rfl
  · exact begun _ _

theorem pending_setSectorPolicyReply (p : PortId) (cmd : Cmd) (s : State) :
    (setSectorPolicyReply p cmd s).state.pending = s.pending := by
  have policies : ∀ (secs : List SectorId) (n : Nat) (pr : Priority) (t : State),
      (t.setPolicies secs n pr).pending = t.pending := by
    intro secs n pr
    induction secs with
    | nil => exact fun _ => rfl
    | cons sec secs ih => exact fun t => ih (t.setSector sec { t.sector sec with reservation := n, priority := pr })
  unfold setSectorPolicyReply
  split
  · split
    · rfl
    · exact policies _ _ _ s
  · rfl
  · rfl
  · rfl

theorem pending_armMomentReply (cmd : Cmd) (s : State) : (armMomentReply cmd s).state.pending = s.pending := by
  unfold armMomentReply
  split <;> rfl

/-- No command touches the waiting queue. -/
theorem pending_bodyOf (c : Command) (p : PortId) (now : Instant) (cmd : Cmd) (s : State) :
    (bodyOf c p now cmd s).state.pending = s.pending := by
  cases c with
  | declarePort => exact pending_declarePortReply p cmd s
  | setVenue => exact pending_setVenueReply cmd s
  | openMatch => exact pending_openMatchReply now cmd s
  | closeMatch => rfl
  | readStation => exact congrArg State.pending (readStationReply_state cmd s)
  | readTicket => exact congrArg State.pending (readTicketReply_state cmd s)
  | readStream => exact congrArg State.pending (readStreamReply_state cmd s)
  | readCarriage => exact congrArg State.pending (readCarriageReply_state cmd s)
  | readZone => exact congrArg State.pending (readZoneReply_state cmd s)
  | readCell => exact congrArg State.pending (readCellReply_state cmd s)
  | associate => exact (associateReply_frame p cmd s).pending
  | detach => exact (detachReply_frame p cmd s).pending
  | reportLevel => exact (reportLevelReply_frame p cmd s).pending
  | claim => exact (claimReply_frame p cmd s).pending
  | release => exact (releaseReply_frame p cmd s).pending
  | withdraw => exact (withdrawReply_frame p cmd s).pending
  | setSectorPolicy => exact pending_setSectorPolicyReply p cmd s
  | loadTickets => exact (loadTicketsReply_frame (fresh := becomesAssociated) cmd s).pending
  | admitTicket => exact (admitTicketReply_frame (fresh := becomesAssociated) cmd s).pending
  | exitTicket => exact (exitTicketReply_frame (fresh := becomesAssociated) cmd s).pending
  | voidTicket => exact (voidTicketReply_frame (fresh := becomesAssociated) cmd s).pending
  | setZone => exact (setZoneReply_frame (fresh := becomesAssociated) cmd s).pending
  | bindTicket => exact (bindTicketReply_frame (fresh := becomesAssociated) cmd s).pending
  | unbindTicket => exact (unbindTicketReply_frame (fresh := becomesAssociated) cmd s).pending
  | openStream => exact (openStreamReply_frame (fresh := becomesAssociated) p cmd s).pending
  | setStreamRate => exact (setStreamRateReply_frame (fresh := becomesAssociated) cmd s).pending
  | closeStream => exact (closeStreamReply_frame (fresh := becomesAssociated) cmd s).pending
  | subscribe => exact (subscribeReply_frame (fresh := becomesAssociated) cmd s).pending
  | unsubscribe => exact (unsubscribeReply_frame (fresh := becomesAssociated) cmd s).pending
  | armMoment => exact pending_armMomentReply cmd s

/-- No row touches the waiting queue. -/
theorem Effect.pending {i : Instr} {s t : State} (he : Effect s i t) : t.pending = s.pending := by
  have settled := (RecordFrame.settle becomesAssociated_associated s).pending
  have bus : ∀ {t : State}, BusFrame s.settle t → t.pending = s.pending := fun f => by
    obtain ⟨_, _, _, h⟩ := f.rest
    rw [h]
    exact settled
  cases he with
  | reset => rfl
  | act a => exact (RecordFrame.act becomesAssociated_associated s a).pending
  | command c p now =>
    rcases serve_effect p c (bodyOf c p now) s.settle with hb | ⟨cmd, _, hr⟩
    · exact bus hb
    · rw [hr]
      exact (pending_bodyOf c p now cmd s.settle).trans settled
  | strobe now early => exact (pending_frameStrobe _ now early).trans settled
  | loss early => exact (pending_strobeLossExpiry _ early).trans settled
  | divider early => exact (pending_dividerExpiry _ early).trans settled
  | pulse now => exact (pending_momentPulse _ now).trans settled
  | build =>
    obtain ⟨_, _, _, _, _, _, h⟩ := (EngineFrame.finishBuild s.settle).rest
    rw [h]
    exact settled
  | bus i t hb => exact bus hb

theorem exec_isNext (i : Instr) (s : State) : ∃ t, exec i s = .next t := by
  cases i <;> exact ⟨_, rfl⟩

/-! ## What is due is taken -/

theorem streamState_removeSub (s : State) (h : Handle) (x y : StreamId) :
    ((s.removeSub h x).stream y).state = (s.stream y).state := by
  unfold State.removeSub
  split
  · rfl
  · by_cases hy : y = x
    · subst hy
      rw [State.subHeld, stream_setStream_self]
      rfl
    · rw [State.subHeld, stream_setStream_of_ne _ _ hy]
      rfl

/-- A drain makes its stream IDLE, and no other (R83). -/
theorem streamState_drainStream (s : State) (x : StreamId) (tag : Tag) (y : StreamId) :
    ((s.drainStream x tag).stream y).state = if y = x then .idle else (s.stream y).state := by
  have removed : ∀ (l : List Handle) (s : State),
      ((l.foldl (fun s h => s.removeSub h x) s).stream y).state = (s.stream y).state := by
    intro l
    induction l with
    | nil => exact fun _ => rfl
    | cons h l ih => exact fun s => (ih _).trans (streamState_removeSub s h x y)
  have dropped : ∀ (l : List CellId) (s : State), (l.foldl (fun s c => s.dropCarriage c x) s).stream y = s.stream y := by
    intro l
    induction l with
    | nil => exact fun _ => rfl
    | cons c l ih => exact fun s => ih (s.dropCarriage c x)
  by_cases hy : y = x
  · subst hy
    rw [if_pos rfl]
    exact congrArg Stream.state (stream_setStream_self _ y _)
  · rw [if_neg hy]
    refine (congrArg Stream.state (stream_setStream_of_ne _ _ hy)).trans ?_
    rw [dropped, removed]

theorem streamState_completeDrain_of_ne (s : State) {x y : StreamId} (hy : y ≠ x) :
    ((s.completeDrain x).stream y).state = (s.stream y).state := by
  rcases completeDrain_cases s x with he | ⟨info, tag, f, _, he⟩
  · rw [he]
  · rw [he, streamState_drainStream, if_neg hy]

/-- The drain of one stream taken: it is not due any more (R83). -/
theorem completeDrain_takes (s : State) (x : StreamId) (now : FrameNo) :
    drainDue now ((s.completeDrain x).stream x).state = false := by
  unfold State.completeDrain
  cases hs : (s.stream x).state with
  | idle => simp [drainDue, hs]
  | live i => simp [drainDue, hs]
  | draining i tag f => simp [drainDue, streamState_drainStream]

/-- Once the drains that are due are taken, none is due (R83). -/
theorem actDrainCompletion_noneDue (s : State) (x : StreamId) :
    drainDue s.clock.frame (s.actDrainCompletion.stream x).state = false := by
  have taken : ∀ (l : List StreamId) (t : State),
      (∀ y, drainDue s.clock.frame (t.stream y).state = true → y ∈ l) →
      drainDue s.clock.frame ((l.foldl State.completeDrain t).stream x).state = false := by
    intro l
    induction l with
    | nil =>
      intro t ht
      by_contra hdue
      exact List.not_mem_nil (ht x (by simpa using hdue))
    | cons z l ih =>
      intro t ht
      refine ih _ fun y hy => ?_
      have hyz : y ≠ z := by
        rintro rfl
        rw [completeDrain_takes] at hy
        cases hy
      rw [streamState_completeDrain_of_ne t hyz] at hy
      exact (List.mem_cons.1 (ht y hy)).resolve_left hyz
  exact taken s.drainsDue s fun y hy => (mem_drainsDue s y).2 hy

/-- Once a surge end that is due is taken, none is due (R14). -/
theorem actSurgeEnd_noneDue (s : State) (g : Surge) (hg : s.actSurgeEnd.surge = some g) : g.endFrame ≠ s.clock.frame := by
  unfold State.actSurgeEnd at hg
  split at hg
  · next h => simp [h] at hg
  · next g' h =>
    split at hg
    · cases hg
    · next hne =>
      rw [h] at hg
      cases hg
      exact hne

theorem stream_actSurgeEnd (s : State) (x : StreamId) : s.actSurgeEnd.stream x = s.stream x := by
  unfold State.actSurgeEnd
  split
  · rfl
  · split <;> rfl

/-- Once what the last boundary has left due is taken, nothing is due (R14, R30, R46, R83). -/
theorem settled_settle {s : State} (hw : tableWf s.stations = true) : s.settle.settled := by
  have frame := RecordFrame.settle becomesAssociated_associated s
  have clock : s.settle.clock.frame = s.clock.frame := by rw [frame.clock]
  have find : ∀ e ∈ s.settle.stations, s.settle.station? e.1 = some e.2 := fun e he => find_of_mem (frame.wf hw) he
  refine ⟨fun e he => ?_, fun x => ?_, fun g hg => ?_⟩
  · rw [clock]
    exact ⟨settle_noClaimDue hw e.1 e.2 (find e he), settle_noLingerDue hw e.1 e.2 (find e he)⟩
  · have before := (RecordFrame.actClaimDeadline becomesAssociated_associated s).trans (.actLingerExpiry _)
    have := actDrainCompletion_noneDue s.actClaimDeadline.actLingerExpiry x
    rw [State.settle, stream_actSurgeEnd]
    rwa [before.clock, ← clock] at this
  · have before := ((RecordFrame.actClaimDeadline becomesAssociated_associated s).trans (.actLingerExpiry _)).trans
      (.actDrainCompletion _)
    have := actSurgeEnd_noneDue _ g hg
    rwa [before.clock, ← clock] at this

/-- Every row but RESET and the acts of a boundary comes after what the last boundary has left due. -/
theorem exec_eq_afterActs {i : Instr} (hacts : ∀ a, i ≠ actRow a) (hreset : i ≠ .reset) :
    ∃ row, ∀ s, exec i s = s.afterActs row := by
  cases i with
  | claimDeadline => exact absurd rfl (hacts .claimDeadline)
  | lingerExpiry => exact absurd rfl (hacts .lingerExpiry)
  | drainCompletion => exact absurd rfl (hacts .drainCompletion)
  | surgeEnd => exact absurd rfl (hacts .surgeEnd)
  | reset => exact absurd rfl hreset
  | frameStrobe now early => exact ⟨fun s => s.frameStrobe now early, fun _ => rfl⟩
  | strobeLossExpiry early => exact ⟨fun s => s.strobeLossExpiry early, fun _ => rfl⟩
  | dividerExpiry early => exact ⟨fun s => s.dividerExpiry early, fun _ => rfl⟩
  | momentPulse now => exact ⟨fun s => s.momentPulse now, fun _ => rfl⟩
  | busGrant lines => exact ⟨fun s => s.grantBus lines, fun _ => rfl⟩
  | acknowledgeRaised p => exact ⟨fun s => s.raiseAcknowledge p, fun _ => rfl⟩
  | grantWithdrawn p => exact ⟨fun s => s.withdrawGrant p, fun _ => rfl⟩
  | acknowledgeDropped p => exact ⟨fun s => s.dropAcknowledge p, fun _ => rfl⟩
  | planWindowRead p w => exact ⟨fun s => s.busRead p (planWordAddr w), fun _ => rfl⟩
  | producerIndexWrite p v => exact ⟨fun s => s.busWrite p (ownWord p 0x600) v, fun _ => rfl⟩
  | noticeHeadWrite p v => exact ⟨fun s => s.busWrite p (ownWord p 0x602) v, fun _ => rfl⟩
  | attentionRequestSet p b => exact ⟨fun s => s.busWrite p (ownWord p 0x604) (setForm b), fun _ => rfl⟩
  | attentionRequestClear p b => exact ⟨fun s => s.busWrite p (ownWord p 0x604) (clearForm b), fun _ => rfl⟩
  | attentionEnableSet p b => exact ⟨fun s => s.busWrite p (ownWord p 0x605) (setForm b), fun _ => rfl⟩
  | attentionEnableClear p b => exact ⟨fun s => s.busWrite p (ownWord p 0x605) (clearForm b), fun _ => rfl⟩
  | portReset p b => exact ⟨fun s => s.busWrite p (ownWord p 0x606) (setForm b), fun _ => rfl⟩
  | wordWrite p a v => exact ⟨fun s => s.busWrite p a v, fun _ => rfl⟩
  | badCodeElement p => exact ⟨fun s => s.serveBadCode p, fun _ => rfl⟩
  | overlongChain p => exact ⟨fun s => s.serveOverlongAt p, fun _ => rfl⟩
  | wordRead p a => exact ⟨fun s => s.busRead p a, fun _ => rfl⟩
  | _ => exact ⟨_, fun _ => rfl⟩

/-- A row that is no act does the same once what the last boundary has left due is taken. -/
theorem exec_settle {i : Instr} {s : State} (hs : s.settle.settled) (hacts : ∀ a, i ≠ actRow a) :
    exec i s = exec i s.settle := by
  by_cases hreset : i = .reset
  · subst hreset
    have queue := (RecordFrame.settle becomesAssociated_associated s).pending
    exact congrArg (fun q => Host.Outcome.next { State.reset with pending := q }) queue.symm
  · obtain ⟨row, hrow⟩ := exec_eq_afterActs hacts hreset
    rw [hrow, hrow, afterActs_of_settled hs, State.afterActs]

end Sys2Proof.Machine

open Sys2Proof Sys2Proof.Machine

/-- Settles O2: the waiting queue by the kinds of effect that a row can have, and what is due by the acts, one after
another. -/
theorem everyRowRunsAndKeepsTheQueue : Obligations.EveryRowRunsAndKeepsTheQueue := by
  refine ⟨fun i s => ?_, fun s hw => ?_⟩
  · obtain ⟨t, ht⟩ := exec_isNext i s
    exact ⟨t, ht, (effect_of_exec ht).pending⟩
  · have settled := settled_settle hw
    refine ⟨_, _, _, s.settle, rfl, rfl, rfl, rfl, settled, settle_of_settled, fun i hclaim hlinger hdrain hsurge => ?_⟩
    refine exec_settle settled fun a => ?_
    cases a with
    | claimDeadline => exact hclaim
    | lingerExpiry => exact hlinger
    | drainCompletion => exact hdrain
    | surgeEnd => exact hsurge
end

section
namespace Sys2Proof.Machine

open Sys2Proof

/-! ## Reading the operands of the commands on stations -/

theorem asCell_of_val {s : State} {w : Word} {c : CellId} (h : w.toNat = c.val) (hc : s.inVenue c = true) :
    s.asCell w = some c := by
  have hlt : w.toNat < 1024 := by omega
  have hw : (⟨w.toNat, hlt⟩ : CellId) = c := Fin.ext h
  simp [State.asCell, hlt, hw, hc]

theorem asCell_eq_none {s : State} {w : Word} (h : ∀ c : CellId, w.toNat = c.val → s.inVenue c = false) :
    s.asCell w = none := by
  unfold State.asCell
  split
  · next hlt => simp [h ⟨w.toNat, hlt⟩ rfl]
  · rfl

theorem asStation_of_lt {s : State} {w : Word} {h : Handle} (hw : w.toNat = h) (hlt : h < 65536) :
    s.asStation w = s.station? h := by
  subst hw
  exact if_pos hlt

theorem asStation_eq_none {s : State} {w : Word} (h : ∀ g, w.toNat = g → g < 65536 → s.station? g = none) :
    s.asStation w = none := by
  unfold State.asStation
  split
  · next hlt => exact h w.toNat rfl hlt
  · rfl

theorem asLevel_of_val {w : Word} {l : Level} (h : l.val = min 7 (w.toNat % 256)) : asLevel w = l := by
  unfold asLevel
  split
  · exact Fin.ext (show w.toNat % 256 = l.val by omega)
  · exact Fin.ext (show 7 = l.val by omega)

theorem levelClamped_eq (w : Word) : levelClamped w = decide (7 < w.toNat % 256) := rfl

/-- The number that two operand words give, the low word first (R167). -/
theorem toNat_number (cmd : Cmd) (j : Nat) :
    (cmd.number j).toNat = (cmd.op j).toNat + 2 ^ 32 * (cmd.op (j + 1)).toNat := by
  have := (cmd.op j).isLt
  rw [Cmd.number, twoWords, BitVec.toNat_append, ← Nat.shiftLeft_add_eq_or_of_lt this, Nat.shiftLeft_eq]
  omega

theorem address?_of_toNat {cmd : Cmd} {j : Nat} {a : BitVec 48}
    (h : a.toNat = (cmd.op j).toNat + 2 ^ 32 * (cmd.op (j + 1)).toNat) : cmd.address? j = some a := by
  have := a.isLt
  rw [Cmd.address?, if_pos (by omega), Option.some.injEq]
  refine BitVec.eq_of_toNat_eq ?_
  rw [BitVec.toNat_setWidth, toNat_number, ← h, Nat.mod_eq_of_lt this]

theorem address?_of_high {cmd : Cmd} {j : Nat} (h : 2 ^ 16 ≤ (cmd.op (j + 1)).toNat) : cmd.address? j = none :=
  if_neg (Nat.not_lt.2 h)

/-! ## ASSOCIATE -/

section
variable {s : State} {p : PortId} {cmd : Cmd}

/-- An ASSOCIATE whose operands are an address and a cell of the venue comes to the check of the owner (R23). -/
theorem associateReply_of_operands {a : BitVec 48} {c : CellId}
    (ha : a.toNat = (cmd.op 2).toNat + 2 ^ 32 * (cmd.op 3).toNat) (hc : (cmd.op 4).toNat = c.val)
    (hv : s.inVenue c = true) :
    associateReply p cmd s = if !ownsCell (s.port p) c then refuse .notOwner [] s else associateAt cmd a c s := by
  simp only [associateReply, address?_of_toNat (cmd := cmd) (j := 2) ha, asCell_of_val hc hv]

variable {a : BitVec 48} {c : CellId} {h : Handle} {st : Station}

theorem associateAt_already (hs : s.stationByAddress a = some (h, st)) (hl : isLingering st.state = false) :
    associateAt cmd a c s = refuse .already [.bytes 2 h, .bytes 2 st.serving.val] s := by
  simp [associateAt, hs, hl]

theorem associateAt_full (hs : ∀ h st, s.stationByAddress a = some (h, st) → isLingering st.state = true)
    (hr : s.hasRoom c = false) : associateAt cmd a c s = refuse .cellFull [] s := by
  cases hst : s.stationByAddress a with
  | none => simp [associateAt, hst, hr]
  | some e => simp [associateAt, hst, hs e.1 e.2 hst, hr]

theorem associateAt_noHandle (hs : s.stationByAddress a = none) (hr : s.hasRoom c = true)
    (hp : popHandle s.handles = none) : associateAt cmd a c s = refuse .tableFull [] s := by
  simp [associateAt, hs, hr, hp]

theorem associateAt_creates {rest : HandleStack} (hs : s.stationByAddress a = none) (hr : s.hasRoom c = true)
    (hp : popHandle s.handles = some (h, rest)) :
    associateAt cmd a c s = ⟨.ok, [.bytes 1 0, .bytes 2 h, .bytes 1 0, .bytes 1 (asLevel (cmd.op 5)).val,
      itemMarks [levelClamped (cmd.op 5)]], s.createStation h rest a c (asLevel (cmd.op 5))⟩ := by
  simp [associateAt, hs, hr, hp]

theorem associateAt_revives (hs : s.stationByAddress a = some (h, st)) (hl : isLingering st.state = true)
    (hr : s.hasRoom c = true) :
    associateAt cmd a c s = ⟨.ok, [.bytes 1 1, .bytes 2 h, .bytes 1 st.sequence.toNat, .bytes 1 (asLevel (cmd.op 5)).val,
      itemMarks [levelClamped (cmd.op 5)], .bytes 1 ((s.reviveStation h st c (asLevel (cmd.op 5)) cmd.tag).activeOf h)],
      s.reviveStation h st c (asLevel (cmd.op 5)) cmd.tag⟩ := by
  simp [associateAt, hs, hl, hr]

/-- What a station more at a cell does to the counts. -/
theorem counts_addCount (s : State) (c : CellId) :
    ((s.addCount c).rosterEntry c).count = (s.rosterEntry c).count + 1 ∧
      ((s.addCount c).rosterEntry c).pendingIn = (s.rosterEntry c).pendingIn ∧
      ∀ d, d ≠ c → ((s.addCount c).rosterEntry d).count = (s.rosterEntry d).count ∧
        ((s.addCount c).rosterEntry d).pendingIn = (s.rosterEntry d).pendingIn := by
  refine ⟨by simp, by simp, fun d hd => ?_⟩
  simp [Ne.symm hd]

/-- The records after a station is created (R24). -/
theorem createStation_records (s : State) (h : Handle) (rest : HandleStack) (a : BitVec 48) (c : CellId) (l : Level) :
    let t := s.createStation h rest a c l
    t = { s with handles := rest, stations := t.stations, addressMap := t.addressMap, roster := t.roster } ∧
      t.station? h = some ⟨a, .associated, c, 0, l, none, []⟩ ∧ (∀ g, g ≠ h → t.station? g = s.station? g) ∧
      (∀ b : BitVec 48, tableFind t.addressMap b.toNat = if b = a then some h else tableFind s.addressMap b.toNat) ∧
      ∀ d, t.rosterEntry d = (s.addCount c).rosterEntry d := by
  refine ⟨rfl, tableFind_store_self _ _ _, fun g hg => tableFind_store_of_ne _ _ hg, fun b => ?_, fun d => ?_⟩
  · rw [State.createStation_addressMap]
    split
    · next hb => rw [hb, tableFind_store_self]
    · next hb => exact tableFind_store_of_ne _ _ (toNat_ne_of_ne hb)
  · rw [rosterEntry_addCount]
    exact rosterEntry_addCount _ c d

end

/-! ## DETACH -/

section
variable {s : State} {p : PortId} {cmd : Cmd} {h : Handle} {st : Station}

section
variable (hh : (cmd.op 2).toNat = h) (hlt : h < 65536) (hst : s.station? h = some st)
include hh hlt hst

theorem detachReply_of_lingering (hl : isLingering st.state = true) :
    detachReply p cmd s = refuse .notAssociated [] s := by
  simp [detachReply, asStation_of_lt hh hlt, hst, hl]

theorem detachReply_of_stranger (hl : isLingering st.state = false) (ho : ownsCell (s.port p) st.serving = false) :
    detachReply p cmd s = refuse .notServing [] s := by
  simp [detachReply, asStation_of_lt hh hlt, hst, hl, ho]

theorem detachReply_of_stale (hl : isLingering st.state = false) (ho : ownsCell (s.port p) st.serving = true)
    (hq : (cmd.op 3).toNat ≠ st.sequence.toNat) :
    detachReply p cmd s = refuse .stale [.bytes 1 st.sequence.toNat] s := by
  simp [detachReply, asStation_of_lt hh hlt, hst, hl, ho, hq]

theorem detachReply_of_associated (ho : ownsCell (s.port p) st.serving = true)
    (hq : (cmd.op 3).toNat = st.sequence.toNat) (hs : st.state = .associated) :
    detachReply p cmd s = ⟨.ok, [itemWord (s.clock.frame + BitVec.ofNat 32 s.venue.lingerTime),
      .bytes 1 st.sequence.toNat], s.enterLinger h st cmd.tag⟩ := by
  simp [detachReply, asStation_of_lt hh hlt, hst, hh, ho, hq, hs, isLingering]

theorem detachReply_of_inHandover (ho : ownsCell (s.port p) st.serving = true)
    (hq : (cmd.op 3).toNat = st.sequence.toNat) {c : CellId} {deadline : FrameNo} {tag : Tag}
    (hs : st.state = .inHandover c deadline tag) :
    detachReply p cmd s = ⟨.ok, [.bytes 1 2, .bytes 2 c.val, .bytes 1 (st.sequence + 1).toNat],
      s.completeHandover h .detach⟩ := by
  simp [detachReply, asStation_of_lt hh hlt, hst, hh, ho, hq, hs, isLingering]

end

/-- An evaluation of a LINGERING station suspends every entry (R28, R98). -/
theorem evaluate_lingering {t : State} {b : Station} (ht : t.evaluatedAt h) (hb : t.station? h = some b)
    (hl : isLingering b.state = true) : ∀ e ∈ b.subs, e.state = .suspended .lingering := by
  intro e he
  have := ht b e hb he
  rwa [State.decided, if_pos hl] at this

end

end Sys2Proof.Machine

open Sys2Proof Sys2Proof.Machine

/-- Settles O27, check by check. -/
theorem associateRefusesInOrder : Obligations.AssociateRefusesInOrder := by
  intro s p cmd hpass refused
  have replied : ∀ {st items}, associateReply p cmd s = refuse st items s → refused st items := fun hr =>
    (exec_rowOf_of_passes hpass 0).trans (by rw [bodyOf, hr]; rfl)
  refine ⟨fun haddr => replied ?_, fun hcell => replied ?_, fun a c ha hc hv => ?_⟩
  · simp only [associateReply, address?_of_high (cmd := cmd) (j := 2) haddr]
  · simp only [associateReply, asCell_eq_none hcell]
    split <;> rfl
  · have operands := associateReply_of_operands (p := p) ha hc hv
    split
    · next hown => exact replied (by simp [operands, hown])
    · next hown =>
      have checked : associateReply p cmd s = associateAt cmd a c s := by
        rw [operands, if_neg (by simpa using hown)]
      split
      · next h st hst =>
        split
        · next hl => exact replied (checked.trans (associateAt_already hst hl))
        · next hl =>
          refine fun hroom => replied (checked.trans (associateAt_full (fun g b hb => ?_) hroom))
          rw [hst] at hb
          cases hb
          simpa using hl
      · next hst =>
        refine ⟨fun hroom => replied (checked.trans (associateAt_full (fun g b hb => ?_) hroom)),
          fun hroom hpop => replied (checked.trans (associateAt_noHandle hst hroom hpop))⟩
        rw [hst] at hb
        cases hb

/-- Settles O26: a new record as it is created, and a revived one as its evaluation leaves it. -/
theorem associateCreatesOrRevives : Obligations.AssociateCreatesOrRevives := by
  intro s p cmd a c l hpass ha hc hv hl hown hroom mark counted
  have hlevel : asLevel (cmd.op 5) = l := asLevel_of_val hl
  have hroom : s.hasRoom c = true := (hasRoom_iff s c).2 hroom
  have checked : associateReply p cmd s = associateAt cmd a c s := by
    rw [associateReply_of_operands ha hc hv, hown]
    rfl
  have replied : ∀ {r}, associateAt cmd a c s = r → exec (.associate p) s = .next (finishCommand p cmd r) := fun hr =>
    (exec_rowOf_of_passes hpass 0).trans (by rw [bodyOf, checked, hr])
  refine ⟨fun h rest hs hpop => ?_, fun h st hs hlingers => ?_⟩
  · obtain ⟨rest_eq, own, others, addresses, roster⟩ := createStation_records s h rest a c l
    refine ⟨s.createStation h rest a c l, replied ?_, rest_eq, own, others, addresses, ?_, fun d => ?_⟩
    · rw [associateAt_creates hs hroom hpop, hlevel, levelClamped_eq]
    · simp only [counted, roster]
      exact counts_addCount s c
    · rw [roster, rosterEntry_addCount]
  · intro st'
    have evaluated : SubscriptionFrame (· = h) (carriagesOf st') ((s.setStation h st').addCount c)
        (s.reviveStation h st c l cmd.tag) := by
      refine evaluate_frame (hs := (· = h)) _ rfl cmd.tag fun b hb d x hx => ?_
      cases (station?_setStation_self s h st').symm.trans hb
      exact hx
    obtain ⟨count, pending, others⟩ := counts_addCount (s.setStation h st') c
    refine ⟨s.reviveStation h st c l cmd.tag, replied ?_, rfl, evaluated, ⟨?_, ?_, fun d hd => ?_⟩, fun hn => ?_⟩
    · rw [associateAt_revives hs hlingers hroom, hlevel, levelClamped_eq]
    · exact (evaluated.counts c).1.trans count
    · exact (evaluated.counts c).2.trans pending
    · exact ⟨(evaluated.counts d).1.trans (others d hd).1, (evaluated.counts d).2.trans (others d hd).2⟩
    · refine evaluate_decides _ h cmd.tag fun b hb => ?_
      cases (station?_setStation_self s h st').symm.trans hb
      exact hn

/-- Settles O28, by the checks of DETACH in their order; the evaluation of a LINGERING station suspends its list. -/
theorem detachStartsTheLinger : Obligations.DetachStartsTheLinger := by
  intro s p cmd hpass refused
  have replied : ∀ {r}, detachReply p cmd s = r → exec (.detach p) s = .next (finishCommand p cmd r) := fun hr =>
    (exec_rowOf_of_passes hpass 0).trans (by rw [bodyOf, hr])
  refine ⟨fun hnone => replied ?_, fun h st hh hlt hst => ?_⟩
  · unfold detachReply
    rw [asStation_eq_none hnone]
    rfl
  · split
    · next hl => exact replied (detachReply_of_lingering hh hlt hst hl)
    · next hl =>
      have hl : isLingering st.state = false := by simpa using hl
      split
      · next ho => exact replied (detachReply_of_stranger hh hlt hst hl ho)
      · next ho =>
        have ho : ownsCell (s.port p) st.serving = true := by simpa using ho
        split
        · next hq => exact replied (detachReply_of_stale hh hlt hst hl ho hq)
        · next hq =>
          intro hs deadline u
          have reply := detachReply_of_associated hh hlt hst ho (not_not.1 hq) hs
          have hu : u.station? h = some { st with state := .lingering deadline cmd.tag } := station?_setStation_self _ _ _
          have evaluated : SubscriptionFrame (· = h) (carriagesOf st) u (u.evaluate h cmd.tag) := by
            refine evaluate_frame (hs := (· = h)) u rfl cmd.tag fun b hb d x hx => ?_
            cases hu.symm.trans hb
            exact hx
          obtain ⟨b, hb, frame⟩ := evaluated.own h _ hu
          refine ⟨u.evaluate h cmd.tag, replied reply, rfl, evaluated, ?_, b, hb, frame, fun hn => ?_⟩
          · rw [(evaluated.counts _).1]
            simp [u]
          · refine evaluate_lingering (evaluate_decides u h cmd.tag fun a ha => ?_) hb (by rw [frame.state]; rfl)
            cases hu.symm.trans ha
            exact hn
end

section
namespace Sys2Proof.Machine

open Sys2Proof

/-! ## Handover completion (R42 to R46) -/

section
variable {s : State} {p : PortId} {cmd : Cmd} {h : Handle} {st : Station} (hh : (cmd.op 2).toNat = h) (hlt : h < 65536)
  (hst : s.station? h = some st)
include hh hlt hst

theorem releaseReply_of_stale (hq : (cmd.op 3).toNat ≠ st.sequence.toNat) :
    releaseReply p cmd s = refuse .stale [.bytes 1 st.sequence.toNat, .bytes 2 st.serving.val] s := by
  simp [releaseReply, asStation_of_lt hh hlt, hst, hq, staleItems]

variable (hq : (cmd.op 3).toNat = st.sequence.toNat)
include hq

theorem releaseReply_of_lingering (hl : isLingering st.state = true) :
    releaseReply p cmd s = refuse .notAssociated [] s := by
  simp [releaseReply, asStation_of_lt hh hlt, hst, hq, hl]

theorem releaseReply_of_stranger (hl : isLingering st.state = false) (ho : ownsCell (s.port p) st.serving = false) :
    releaseReply p cmd s = refuse .notServing [] s := by
  simp [releaseReply, asStation_of_lt hh hlt, hst, hq, hl, ho]

theorem releaseReply_of_associated (ho : ownsCell (s.port p) st.serving = true) (hs : st.state = .associated) :
    releaseReply p cmd s = refuse .noClaim [] s := by
  simp [releaseReply, asStation_of_lt hh hlt, hst, hq, ho, hs, isLingering]

theorem releaseReply_of_inHandover (ho : ownsCell (s.port p) st.serving = true) {c : CellId} {deadline : FrameNo}
    {tag : Tag} (hs : st.state = .inHandover c deadline tag) :
    releaseReply p cmd s = ⟨.ok, [.bytes 2 st.serving.val, .bytes 2 c.val, .bytes 1 (st.sequence + 1).toNat,
      .bytes 1 ((s.completeHandover h .release).activeOf h)], s.completeHandover h .release⟩ := by
  simp [releaseReply, asStation_of_lt hh hlt, hst, hh, hq, ho, hs, isLingering]

end

/-- The record and the counts of a completed handover (R42). -/
def State.moveStation (s : State) (h : Handle) (st : Station) (c : CellId) : State :=
  (((s.setStation h { st with serving := c, state := .associated, sequence := st.sequence + 1 }).subCount
    st.serving).addCount c).subPending c

/-- A completed handover but for its notice: the record and the counts moved, the old cell's carriages left, the list
evaluated at the new one (R42, R43). -/
def State.handOver (s : State) (h : Handle) (st : Station) (c : CellId) (tag : Tag) : State :=
  ((s.moveStation h st c).leaveOld st.serving st.level tag st.subs).evaluateWith h tag false none

theorem completeHandover_eq {s : State} {h : Handle} {st : Station} {c : CellId} {deadline : FrameNo} {tag : Tag}
    (hst : s.station? h = some st) (hs : st.state = .inHandover c deadline tag) (by_ : Completion) :
    s.completeHandover h by_ = (s.handOver h st c tag).notify (fun u => ownsCell u st.serving || ownsCell u c)
      (completionNotice by_ h (st.sequence + 1) st.serving c) tag := by
  simp only [State.completeHandover, hst, hs]
  rfl

theorem leaveOld_eq_filter (s : State) (old : CellId) (l : Level) (tag : Tag) (subs : List Subscription) :
    s.leaveOld old l tag subs = (subs.filter fun e => decide (e.state = .active)).foldl
      (fun w e => w.leave old e.stream l tag) s := by
  simp only [State.leaveOld, List.foldl_filter, decide_eq_true_eq]

/-- Leaving the old cell reaches only the carriages of the list's streams there (R43). -/
theorem leaveOld_frame {hs : Handle → Prop} {cs : CellId → StreamId → Prop} (s : State) {old : CellId} (l : Level) (tag : Tag)
    {subs : List Subscription} (hc : ∀ e ∈ subs, cs old e.stream) :
    SubscriptionFrame hs cs s (s.leaveOld old l tag subs) := by
  unfold State.leaveOld
  induction subs generalizing s with
  | nil => exact .refl s
  | cons e subs ih =>
    refine SubscriptionFrame.trans ?_ (ih _ fun d hd => hc d (by simp [hd]))
    dsimp only
    split
    · exact leave_frame s (hc e (by simp)) l tag
    · exact .refl s

section
variable (s : State) (h : Handle) (st : Station) {c : CellId} (tag : Tag)

/-- A completed handover reaches the station, and the carriages of its streams in the two cells (R43). -/
theorem handOver_frame : SubscriptionFrame (· = h)
    (fun d x => (d = st.serving ∨ d = c) ∧ x ∈ st.subs.map (·.stream)) (s.moveStation h st c) (s.handOver h st c tag) := by
  have left : SubscriptionFrame (· = h) (fun d x => (d = st.serving ∨ d = c) ∧ x ∈ st.subs.map (·.stream))
      (s.moveStation h st c) ((s.moveStation h st c).leaveOld st.serving st.level tag st.subs) :=
    leaveOld_frame _ _ tag fun e he => ⟨.inl rfl, List.mem_map_of_mem he⟩
  obtain ⟨b, hb, frame⟩ := left.own h _ (station?_setStation_self _ h _)
  refine left.trans (evaluateWith_frame (hs := (· = h)) _ rfl tag false none fun a ha d x hx => ?_)
  cases hb.symm.trans ha
  obtain ⟨hd, hx⟩ := hx
  exact ⟨.inr (hd.trans frame.serving), frame.streams ▸ hx⟩

theorem handOver_decides (hn : (st.subs.map (·.stream)).Nodup) : (s.handOver h st c tag).evaluatedAt h := by
  have left : SubscriptionFrame (· = h) (fun _ _ => True) (s.moveStation h st c)
      ((s.moveStation h st c).leaveOld st.serving st.level tag st.subs) := leaveOld_frame _ _ tag fun _ _ => trivial
  obtain ⟨b, hb, frame⟩ := left.own h _ (station?_setStation_self _ h _)
  refine evaluateWith_decides _ h tag false none fun a ha => ?_
  cases hb.symm.trans ha
  rwa [frame.streams]

/-- The counts after a completed handover between two cells (R42). -/
theorem handOver_counts (hc : c ≠ st.serving) :
    let t := s.handOver h st c tag
    (t.rosterEntry c).count = (s.rosterEntry c).count + 1 ∧
      (t.rosterEntry c).pendingIn = (s.rosterEntry c).pendingIn - 1 ∧
      (t.rosterEntry st.serving).count = (s.rosterEntry st.serving).count - 1 ∧
      (t.rosterEntry st.serving).pendingIn = (s.rosterEntry st.serving).pendingIn := by
  have counts := (handOver_frame s h st (c := c) tag).counts
  refine ⟨(counts c).1.trans ?_, (counts c).2.trans ?_, (counts st.serving).1.trans ?_, (counts st.serving).2.trans ?_⟩
  all_goals simp [State.moveStation, hc, hc.symm]

end

theorem ownerQuarantined_of_active {s : State} {c : CellId}
    (h : ∀ q, s.ownerOf (sectorOf c) = some q → (s.port q).state = .active) : s.ownerQuarantined c = false := by
  unfold State.ownerQuarantined
  split
  · rfl
  · next q hq => simp [h q hq]

theorem expireClaim_completes {s : State} {h : Handle} {st : Station} {c : CellId} {deadline : FrameNo} {tag : Tag}
    (hst : s.station? h = some st) (hs : st.state = .inHandover c deadline tag) (hq : s.ownerQuarantined c = false) :
    s.expireClaim h = s.completeHandover h .deadline := by
  simp [State.expireClaim, hst, hs, hq]

theorem claimDue_iff (now : FrameNo) (st : Station) :
    claimDue now st = true ↔ ∃ c tag, st.state = .inHandover c now tag := by
  unfold claimDue
  cases st.state <;> simp [eq_comm]

theorem lingerDue_iff (now : FrameNo) (st : Station) : lingerDue now st = true ↔ ∃ tag, st.state = .lingering now tag := by
  unfold lingerDue
  cases st.state <;> simp [eq_comm]

end Sys2Proof.Machine

open Sys2Proof Sys2Proof.Machine

/-- Settles O31: the checks of RELEASE in their order, one completion for the three events that ask for it, and the stations
whose claim deadline is the present frame. -/
theorem handoverCompletionMovesTheStation : Obligations.HandoverCompletionMovesTheStation := by
  refine ⟨?_, ?_, fun s hw => ⟨s.claimsDue, claimsDue_sorted hw, fun h => ?_, rfl⟩⟩
  · intro s p cmd hpass refused
    have replied : ∀ {st items}, releaseReply p cmd s = refuse st items s → refused st items := fun hr =>
      (exec_rowOf_of_passes hpass 0).trans (by rw [bodyOf, hr]; rfl)
    refine ⟨fun hnone => replied ?_, fun h st hh hlt hst => ?_⟩
    · unfold releaseReply
      rw [asStation_eq_none hnone]
    · split
      · next hq => exact replied (releaseReply_of_stale hh hlt hst hq)
      · next hq =>
        have hq : (cmd.op 3).toNat = st.sequence.toNat := not_not.1 hq
        split
        · next hl => exact replied (releaseReply_of_lingering hh hlt hst hq hl)
        · next hl =>
          split
          · next ho => exact replied (releaseReply_of_stranger hh hlt hst hq (by simpa using hl) ho)
          · next ho => exact fun hs => replied (releaseReply_of_associated hh hlt hst hq (by simpa using ho) hs)
  · intro s h st c deadline tag hst hs hc st' moved told
    have completed := completeHandover_eq hst hs
    have hmoved : moved (s.handOver h st c tag) := by
      obtain ⟨count, pending, count', pending'⟩ := handOver_counts s h st tag hc
      exact ⟨rfl, handOver_frame s h st tag, count, pending, count', pending', handOver_decides s h st tag⟩
    refine ⟨fun v => leaveOld_eq_filter v _ _ _ _, fun p cmd hh hlt hq ho => ⟨fun hpass => ?_, fun hpass => ?_⟩,
      fun hactive => ⟨_, hmoved, ?_⟩⟩
    · refine ⟨_, hmoved, (exec_rowOf_of_passes hpass 0).trans ?_⟩
      rw [bodyOf, releaseReply_of_inHandover hh hlt hst hq ho hs, completed]
      rfl
    · refine ⟨_, hmoved, (exec_rowOf_of_passes hpass 0).trans ?_⟩
      rw [bodyOf, detachReply_of_inHandover hh hlt hst ho hq hs, completed]
      rfl
    · rw [expireClaim_completes hst hs (ownerQuarantined_of_active hactive), completed]
      rfl
  · simp only [mem_claimsDue hw, claimDue_iff]
    constructor
    · rintro ⟨st, hst, c, tag, hs⟩
      exact ⟨st, c, tag, hst, hs⟩
    · rintro ⟨st, c, tag, hst, hs⟩
      exact ⟨st, hst, c, tag, hs⟩
end

section
namespace Sys2Proof.Machine

open Sys2Proof

/-! ## The linger expiry (R30) -/

/-- What a notice makes of the ports depends on the ports and the clock alone. -/
theorem ports_notify_congr {s t : State} (hp : t.ports = s.ports) (hc : t.clock = s.clock) (dest : PortUnit → Bool)
    (n : Notice) (tag : Tag) : (t.notify dest n tag).ports = (s.notify dest n tag).ports := by
  simp only [State.notify, State.notifyAt, State.mapPorts_ports, hp, hc]

theorem removeSub_eq {s : State} {h : Handle} {st : Station} (hst : s.station? h = some st) (x : StreamId) :
    s.removeSub h x =
      (s.setStation h { st with subs := st.subs.filter fun e => decide (e.stream ≠ x) }).subHeld x := by
  simp only [State.removeSub, hst]

theorem removeSub_rest (s : State) (h : Handle) (x : StreamId) :
    ∃ sa sr, s.removeSub h x = { s with stations := sa, streams := sr } := by
  cases hst : s.station? h with
  | none => exact ⟨s.stations, s.streams, by simp only [State.removeSub, hst]⟩
  | some st => exact ⟨_, _, removeSub_eq hst x⟩

theorem station?_removeSub_of_ne (s : State) {h g : Handle} (hg : g ≠ h) (x : StreamId) :
    (s.removeSub h x).station? g = s.station? g := by
  cases hst : s.station? h with
  | none => simp only [State.removeSub, hst]
  | some st =>
    rw [removeSub_eq hst]
    exact station?_setStation_of_ne s _ hg

theorem stream_removeSub {s : State} {h : Handle} {st : Station} (hst : s.station? h = some st) (x y : StreamId) :
    (s.removeSub h x).stream y =
      if y = x then { s.stream x with held := (s.stream x).held - 1 } else s.stream y := by
  rw [removeSub_eq hst]
  split
  · next hy => rw [hy, State.subHeld, stream_setStream_self]; rfl
  · next hy => exact stream_setStream_of_ne _ _ hy

/-- The emptying of a list changes the stations, the streams and the ports. -/
theorem removeAllSubs_rest (s : State) (h : Handle) (tag : Tag) (subs : List Subscription) :
    ∃ sa sr po, s.removeAllSubs h tag subs = { s with stations := sa, streams := sr, ports := po } := by
  unfold State.removeAllSubs
  induction subs generalizing s with
  | nil => exact ⟨_, _, _, rfl⟩
  | cons e subs ih =>
    obtain ⟨sa, sr, hr⟩ := removeSub_rest s h e.stream
    obtain ⟨sa', sr', po, ht⟩ := ih ((s.removeSub h e.stream).notify isReplayPort (.subRemoved h e.stream true) tag)
    exact ⟨sa', sr', po, by rw [List.foldl_cons, ht, hr]; rfl⟩

/-- The emptying of a list writes SUB_REMOVED for each entry, in list order, and nothing else. -/
theorem ports_removeAllSubs (s : State) (h : Handle) (tag : Tag) (subs : List Subscription) :
    (s.removeAllSubs h tag subs).ports =
      (subs.foldl (fun v e => v.notify isReplayPort (.subRemoved h e.stream true) tag) s).ports := by
  have same : ∀ s v : State, s.ports = v.ports → s.clock = v.clock → (s.removeAllSubs h tag subs).ports =
      (subs.foldl (fun v e => v.notify isReplayPort (.subRemoved h e.stream true) tag) v).ports := by
    unfold State.removeAllSubs
    induction subs with
    | nil => exact fun s v hp _ => hp
    | cons e subs ih =>
      intro s v hp hc
      obtain ⟨_, _, hr⟩ := removeSub_rest s h e.stream
      refine ih _ _ (ports_notify_congr ?_ ?_ _ _ _) ?_
      · rw [hr]
        exact hp
      · rw [hr]
        exact hc
      · rw [State.notify_clock, State.notify_clock, hr]
        exact hc
  exact same s s rfl rfl

theorem station?_removeAllSubs_of_ne (s : State) {h g : Handle} (hg : g ≠ h) (tag : Tag) (subs : List Subscription) :
    (s.removeAllSubs h tag subs).station? g = s.station? g := by
  unfold State.removeAllSubs
  induction subs generalizing s with
  | nil => rfl
  | cons e subs ih => exact (ih _).trans (station?_removeSub_of_ne s hg e.stream)

/-- The emptying of a list that holds no stream twice lowers each of its streams' held figures by one (R91). -/
theorem stream_removeAllSubs {s : State} {h : Handle} {st : Station} (hst : s.station? h = some st) (tag : Tag)
    {subs : List Subscription} (hn : (subs.map (·.stream)).Nodup) (x : StreamId) :
    (s.removeAllSubs h tag subs).stream x =
      if x ∈ subs.map (·.stream) then { s.stream x with held := (s.stream x).held - 1 } else s.stream x := by
  unfold State.removeAllSubs
  induction subs generalizing s st with
  | nil => rfl
  | cons e subs ih =>
    rw [List.map_cons, List.nodup_cons] at hn
    obtain ⟨hout, hn⟩ := hn
    have live : ((s.removeSub h e.stream).notify isReplayPort (.subRemoved h e.stream true) tag).station? h =
        some { st with subs := st.subs.filter fun d => decide (d.stream ≠ e.stream) } := by
      rw [removeSub_eq hst]
      exact station?_setStation_self s h _
    have step : ((s.removeSub h e.stream).notify isReplayPort (.subRemoved h e.stream true) tag).stream x =
        if x = e.stream then { s.stream e.stream with held := (s.stream e.stream).held - 1 } else s.stream x :=
      stream_removeSub hst e.stream x
    rw [List.foldl_cons, ih live hn, step, List.map_cons]
    by_cases hx : x = e.stream
    · subst hx
      simp [hout]
    · simp [hx]

section
variable (s : State) (h : Handle) (n : TicketHandle) (cause : UnbindCause) (tag : Tag)

/-- A binding cleared changes the stations, the tickets and the ports (R92). -/
theorem clearBinding_rest :
    ∃ sa ti po, s.clearBinding h n cause tag = { s with stations := sa, tickets := ti, ports := po } := by
  unfold State.clearBinding
  dsimp only
  split
  · split <;> exact ⟨_, _, _, rfl⟩
  · split <;> exact ⟨_, _, _, rfl⟩

/-- A binding cleared writes BINDING_CLEARED and nothing else. -/
theorem ports_clearBinding :
    (s.clearBinding h n cause tag).ports = (s.notify isGatePort (.bindingCleared n h cause) tag).ports := by
  unfold State.clearBinding
  dsimp only
  split
  · split <;> rfl
  · split <;> rfl

theorem station?_clearBinding_of_ne {g : Handle} (hg : g ≠ h) : (s.clearBinding h n cause tag).station? g = s.station? g := by
  have cleared : ∀ u : State, (match u.ticket? n with
      | none => u
      | some k => u.setTicket n { k with station := none }).station? g = u.station? g := fun u => by split <;> rfl
  refine (cleared _).trans ?_
  split
  · rfl
  · exact station?_setStation_of_ne s _ hg

/-- A binding cleared leaves the ticket without its station, and every other ticket as it was (R92). -/
theorem ticket?_clearBinding (m : TicketHandle) : (s.clearBinding h n cause tag).ticket? m =
    if m = n then (s.ticket? n).map fun k => { k with station := none } else s.ticket? m := by
  have cleared : ∀ u : State, u.tickets = s.tickets → (match u.ticket? n with
      | none => u
      | some k => u.setTicket n { k with station := none }).ticket? m =
        if m = n then (s.ticket? n).map fun k => { k with station := none } else s.ticket? m := by
    intro u hu
    have look : ∀ i, u.ticket? i = s.ticket? i := fun i => by rw [State.ticket?, hu, State.ticket?]
    rw [look n]
    cases hk : s.ticket? n with
    | none =>
      by_cases hm : m = n
      · simp [hm, look, hk]
      · simp [hm, look]
    | some k =>
      by_cases hm : m = n
      · simp [hm]
      · simp [hm, look]
  refine cleared (match s.station? h with
    | none => s
    | some st => s.setStation h { st with ticket := none }) ?_
  split <;> rfl

end

/-! ### The steps of one expiry -/

section
variable {s : State} {h : Handle} {st : Station} {tag : Tag}

/-- SUB_REMOVED for each entry of the list and BINDING_CLEARED for a bound ticket: what the emptying of a record writes. -/
def State.tellEmptied (s : State) (h : Handle) (st : Station) (tag : Tag) : State :=
  let removed := st.subs.foldl (fun v e => v.notify isReplayPort (.subRemoved h e.stream true) tag) s
  match st.ticket with
  | none => removed
  | some n => removed.notify isGatePort (.bindingCleared n h .expiry) tag

theorem emptyRecord_of_unbound (ht : st.ticket = none) : s.emptyRecord h st tag = s.removeAllSubs h tag st.subs := by
  simp only [State.emptyRecord, ht]

theorem emptyRecord_of_bound {n : TicketHandle} (ht : st.ticket = some n) :
    s.emptyRecord h st tag = (s.removeAllSubs h tag st.subs).clearBinding h n .expiry tag := by
  simp only [State.emptyRecord, ht]

theorem emptyRecord_rest : ∃ sa ti sr po,
    s.emptyRecord h st tag = { s with stations := sa, tickets := ti, streams := sr, ports := po } := by
  obtain ⟨sa, sr, po, hr⟩ := removeAllSubs_rest s h tag st.subs
  cases ht : st.ticket with
  | none => exact ⟨sa, s.tickets, sr, po, (emptyRecord_of_unbound ht).trans hr⟩
  | some n =>
    obtain ⟨sa', ti, po', hc⟩ := clearBinding_rest (s.removeAllSubs h tag st.subs) h n .expiry tag
    exact ⟨sa', ti, sr, po', by rw [emptyRecord_of_bound ht, hc, hr]⟩

theorem notify_foldl_clock {α : Type} (dest : PortUnit → Bool) (note : α → Notice) (tag : Tag) (l : List α) (s : State) :
    (l.foldl (fun v e => v.notify dest (note e) tag) s).clock = s.clock := by
  induction l generalizing s with
  | nil => rfl
  | cons e l ih => exact ih _

theorem ports_emptyRecord : (s.emptyRecord h st tag).ports = (s.tellEmptied h st tag).ports := by
  cases ht : st.ticket with
  | none =>
    rw [emptyRecord_of_unbound ht, ports_removeAllSubs]
    simp only [State.tellEmptied, ht]
  | some n =>
    rw [emptyRecord_of_bound ht, ports_clearBinding]
    simp only [State.tellEmptied, ht]
    obtain ⟨_, _, _, hr⟩ := removeAllSubs_rest s h tag st.subs
    refine ports_notify_congr (ports_removeAllSubs s h tag st.subs) ?_ _ _ _
    rw [notify_foldl_clock, hr]

theorem clock_tellEmptied : (s.tellEmptied h st tag).clock = s.clock := by
  unfold State.tellEmptied
  dsimp only
  split
  · exact notify_foldl_clock ..
  · rw [State.notify_clock, notify_foldl_clock]

theorem station?_emptyRecord_of_ne {g : Handle} (hg : g ≠ h) : (s.emptyRecord h st tag).station? g = s.station? g := by
  unfold State.emptyRecord
  split
  · exact station?_removeAllSubs_of_ne s hg tag st.subs
  · exact (station?_clearBinding_of_ne _ h _ .expiry tag hg).trans (station?_removeAllSubs_of_ne s hg tag st.subs)

theorem ticket?_emptyRecord (m : TicketHandle) : (s.emptyRecord h st tag).ticket? m =
    if st.ticket = some m then (s.ticket? m).map fun k => { k with station := none } else s.ticket? m := by
  obtain ⟨_, _, _, hr⟩ := removeAllSubs_rest s h tag st.subs
  have kept : ∀ i, (s.removeAllSubs h tag st.subs).ticket? i = s.ticket? i := fun i => by rw [hr]; rfl
  cases ht : st.ticket with
  | none => simp [emptyRecord_of_unbound ht, kept]
  | some n =>
    rw [emptyRecord_of_bound ht, ticket?_clearBinding, kept, kept]
    by_cases hm : m = n
    · simp [hm]
    · simp [hm, Ne.symm hm]

theorem stream_emptyRecord (hst : s.station? h = some st) (hn : (st.subs.map (·.stream)).Nodup) (x : StreamId) :
    (s.emptyRecord h st tag).stream x =
      if x ∈ st.subs.map (·.stream) then { s.stream x with held := (s.stream x).held - 1 } else s.stream x := by
  refine Eq.trans ?_ (stream_removeAllSubs hst tag hn x)
  cases ht : st.ticket with
  | none => rw [emptyRecord_of_unbound ht]
  | some n =>
    obtain ⟨_, _, _, hc⟩ := clearBinding_rest (s.removeAllSubs h tag st.subs) h n .expiry tag
    rw [emptyRecord_of_bound ht, hc]
    rfl

end

end Sys2Proof.Machine

open Sys2Proof Sys2Proof.Machine

/-- Settles O33: an expiry empties the record step by step and then frees it, and LINGER_EXPIRY does so for the records whose
deadline is the present frame. -/
theorem lingerExpiryFreesTheRecord : Obligations.LingerExpiryFreesTheRecord := by
  refine ⟨fun s hw => ⟨s.lingersDue, lingersDue_sorted hw, fun h => ?_, rfl⟩, ?_⟩
  · simp only [mem_lingersDue hw, lingerDue_iff, exists_and_left]
  · intro s h st deadline tag hok _ hn hst hs removed cleared t
    obtain ⟨sa, ti, sr, po, hr⟩ := emptyRecord_rest (s := s) (h := h) (st := st) (tag := tag)
    have ht : t = ((s.emptyRecord h st tag).freeStation h st.address).notify (fun u => ownsCell u st.serving)
        (.lingerExpired h st.serving) tag := expireLinger_eq hst hs
    have hports : t.ports = (cleared.notify (fun u => ownsCell u st.serving) (.lingerExpired h st.serving) tag).ports := by
      rw [ht]
      refine ports_notify_congr ports_emptyRecord ?_ _ _ _
      exact (congrArg State.clock hr).trans (clock_tellEmptied (s := s)).symm
    have hhandles : t.handles = pushHandle h s.handles := by rw [ht, hr]; rfl
    have haddress : t.addressMap = tableErase s.addressMap st.address.toNat := by rw [ht, hr]; rfl
    have hticket : ∀ n, t.ticket? n = (s.emptyRecord h st tag).ticket? n := fun n => by rw [ht]; rfl
    obtain ⟨_, _, hstack, hlive, _, _⟩ := (handlesOk_iff s).1 ((stationsOk_iff s).1 hok).2.1
    refine ⟨?_, hports, ?_, fun g hg => ?_, fun a => ?_, ?_, fun n k hk => ?_, fun n hk => ?_, fun x => ?_,
      fun p => ((RecordFrame.expireLinger (fresh := fun _ => True) s h).ports p).toPortFrame⟩
    · rw [ht, hr]
      rfl
    · rw [ht]
      exact tableFind_erase_self _ h
    · rw [ht]
      exact (tableFind_erase_of_ne _ hg).trans (station?_emptyRecord_of_ne hg)
    · rw [haddress]
      by_cases ha : a = st.address
      · rw [ha, tableFind_erase_self, if_pos rfl]
      · rw [tableFind_erase_of_ne _ (toNat_ne_of_ne ha), if_neg ha]
    · rw [hhandles]
      exact popHandle_pushHandle hstack ((hlive h).1 (by simp [hst]))
    · rw [hticket, ticket?_emptyRecord, hk]
      split <;> rfl
    · rw [hticket, ticket?_emptyRecord, hk]
      simp
    · rw [ht]
      exact stream_emptyRecord hst hn x

end

section
namespace Sys2Proof.Machine

open Sys2Proof

/-! ## The six queries -/

theorem asStream_of_val {w : Word} {x : StreamId} (h : w.toNat = x.val) : asStream w = some x := by
  rw [asStream, dif_pos (by omega), Option.some.injEq]
  exact Fin.ext h

theorem asStream_of_large {w : Word} (h : 15 < w.toNat) : asStream w = none := dif_neg (by omega)

theorem asZone_of_val {w : Word} {z : ZoneId} (h : w.toNat = z.val) : asZone w = some z := by
  rw [asZone, dif_pos (by omega), Option.some.injEq]
  exact Fin.ext h

theorem asZone_of_large {w : Word} (h : 15 < w.toNat) : asZone w = none := dif_neg (by omega)

theorem address?_of_low {cmd : Cmd} {j : Nat} (h : (cmd.op (j + 1)).toNat < 2 ^ 16) :
    ∃ a, cmd.address? j = some a ∧ a.toNat = (cmd.op j).toNat + 2 ^ 32 * (cmd.op (j + 1)).toNat := by
  have := (cmd.op j).isLt
  have fits : (cmd.op j).toNat + 2 ^ 32 * (cmd.op (j + 1)).toNat < 2 ^ 48 := by omega
  have ha : (BitVec.ofNat 48 ((cmd.op j).toNat + 2 ^ 32 * (cmd.op (j + 1)).toNat)).toNat =
      (cmd.op j).toNat + 2 ^ 32 * (cmd.op (j + 1)).toNat := Nat.mod_eq_of_lt fits
  exact ⟨_, address?_of_toNat ha, ha⟩

section
variable {s : State} {cmd : Cmd}

section
variable {h : Handle} {st : Station}

theorem readStationReply_of_handle (hf : cmd.flag 4 = false) (hh : (cmd.op 2).toNat = h) (hlt : h < 65536)
    (hst : s.station? h = some st) : readStationReply cmd s = ⟨.ok, stationItems h st, s⟩ := by
  simp [readStationReply, hf, asStation_of_lt hh hlt, hst, hh]

theorem readStationReply_of_address (hf : cmd.flag 4 = true) (hst : s.station? h = some st)
    (ha : (cmd.op 2).toNat + 2 ^ 32 * (cmd.op 3).toNat = st.address.toNat)
    (hm : tableFind s.addressMap st.address.toNat = some h) :
    readStationReply cmd s = ⟨.ok, stationItems h st, s⟩ := by
  simp [readStationReply, hf, address?_of_toNat (cmd := cmd) (j := 2) ha.symm, stationByAddress_eq_some.2 ⟨hm, hst⟩]

theorem readStationReply_of_freeHandle (hf : cmd.flag 4 = false)
    (hh : ∀ g, (cmd.op 2).toNat = g → g < 65536 → s.station? g = none) :
    readStationReply cmd s = refuse .unknownStation [] s := by
  simp [readStationReply, hf, asStation_eq_none hh]

theorem readStationReply_of_badAddress (hf : cmd.flag 4 = true) (hhigh : 2 ^ 16 ≤ (cmd.op 3).toNat) :
    readStationReply cmd s = refuse .badOperand [] s := by
  simp [readStationReply, hf, address?_of_high (cmd := cmd) (j := 2) hhigh]

theorem readStationReply_of_freeAddress (hf : cmd.flag 4 = true) (hlow : (cmd.op 3).toNat < 2 ^ 16)
    (hm : tableFind s.addressMap ((cmd.op 2).toNat + 2 ^ 32 * (cmd.op 3).toNat) = none) :
    readStationReply cmd s = refuse .unknownStation [] s := by
  obtain ⟨a, haddr, ha⟩ := address?_of_low (cmd := cmd) (j := 2) hlow
  rw [← ha] at hm
  simp [readStationReply, hf, haddr, State.stationByAddress, hm]

end

section
variable {t : TicketHandle} {k : Ticket}

theorem readTicketReply_of_handle (hf : cmd.flag 4 = false) (ht : (cmd.op 2).toNat = t) (hl : t < s.loaded)
    (hk : s.ticket? t = some k) : readTicketReply cmd s = ⟨.ok, ticketItems t k, s⟩ := by
  simp [readTicketReply, hf, ht, hl, hk]

theorem readTicketReply_of_number (hf : cmd.flag 4 = true) (hm : tableFind s.ticketMap (cmd.number 2).toNat = some t)
    (hk : s.ticket? t = some k) : readTicketReply cmd s = ⟨.ok, ticketItems t k, s⟩ := by
  simp [readTicketReply, hf, State.ticketByNumber, hm, hk]

theorem readTicketReply_of_freeHandle (hf : cmd.flag 4 = false) (hl : s.loaded ≤ (cmd.op 2).toNat) :
    readTicketReply cmd s = refuse .unknownTicket [] s := by
  simp [readTicketReply, hf, hl]

theorem readTicketReply_of_freeNumber (hf : cmd.flag 4 = true)
    (hm : tableFind s.ticketMap (cmd.number 2).toNat = none) :
    readTicketReply cmd s = refuse .unknownTicket [] s := by
  simp [readTicketReply, hf, State.ticketByNumber, hm]

end

theorem readCarriageReply_of_badCell (hc : s.asCell (cmd.op 2) = none) :
    readCarriageReply cmd s = refuse .badOperand [] s := by
  simp [readCarriageReply, hc]

theorem readCarriageReply_of_badStream (hx : asStream (cmd.op 3) = none) :
    readCarriageReply cmd s = refuse .badOperand [] s := by
  cases hc : s.asCell (cmd.op 2) <;> simp [readCarriageReply, hc, hx]

end

end Sys2Proof.Machine

open Sys2Proof Sys2Proof.Machine

/-- Settles O45, query by query: each reply hands back the state it reads. -/
theorem queriesReportTheRecords : Obligations.QueriesReportTheRecords := by
  intro s p cmd reports refused noCell
  have replied : ∀ {c : Command} {r : Reply}, s.passes p c cmd → bodyOf c p 0 cmd s = r →
      exec (rowOf c p 0) s = .next (finishCommand p cmd r) := fun hpass hr =>
    (exec_rowOf_of_passes hpass 0).trans (by rw [hr])
  refine ⟨fun hpass => ⟨fun hf hh => ?_, fun hf hhigh => ?_, fun hf hlow hm => ?_⟩, fun hpass hc => ?_,
    fun hpass => ⟨fun hf hl => ?_, fun hf hm => ?_⟩, fun hpass hz => ?_, fun hpass hx => ?_, fun hpass hbad => ?_,
    fun hpass h st hst hkey => ?_, fun hpass c hc hv => ?_, fun hpass t k hk hkey => ?_, fun hpass z hz => ?_,
    fun hpass x hx => ?_, fun hpass c x hc hv hx => ⟨fun hk => ?_, fun k hk => ?_⟩⟩
  · exact replied hpass (readStationReply_of_freeHandle hf hh)
  · exact replied hpass (readStationReply_of_badAddress hf hhigh)
  · exact replied hpass (readStationReply_of_freeAddress hf hlow hm)
  · exact replied hpass (by simp [bodyOf, readCellReply, asCell_eq_none hc, refuse])
  · exact replied hpass (readTicketReply_of_freeHandle hf hl)
  · exact replied hpass (readTicketReply_of_freeNumber hf hm)
  · exact replied hpass (by simp [bodyOf, readZoneReply, asZone_of_large hz, refuse])
  · exact replied hpass (by simp [bodyOf, readStreamReply, asStream_of_large hx, refuse])
  · rcases hbad with hc | hx
    · exact replied hpass (readCarriageReply_of_badCell (asCell_eq_none hc))
    · exact replied hpass (readCarriageReply_of_badStream (asStream_of_large hx))
  · have items := replied (r := ⟨.ok, stationItems h st, s⟩) hpass <| by
      rcases hkey with ⟨hf, hh, hlt⟩ | ⟨hf, ha, hm⟩
      · exact readStationReply_of_handle hf hh hlt hst
      · exact readStationReply_of_address hf hst ha hm
    exact items
  · exact replied hpass (by simp [bodyOf, readCellReply, asCell_of_val hc hv])
  · have items := replied (r := ⟨.ok, ticketItems t k, s⟩) hpass <| by
      rcases hkey with ⟨hf, ht, hl⟩ | ⟨hf, hm⟩
      · exact readTicketReply_of_handle hf ht hl hk
      · exact readTicketReply_of_number hf hm hk
    exact items
  · exact replied hpass (by simp [bodyOf, readZoneReply, asZone_of_val hz])
  · have items := replied (c := .readStream) hpass (r := ⟨.ok, .bytes 1 (streamStateCode (s.stream x).state) ::
        streamStateItems (s.stream x).state ++ [.bytes 3 (s.stream x).subscribers, .bytes 2 (s.stream x).carriages,
          .bytes 3 (s.stream x).held], s⟩) (by simp [bodyOf, readStreamReply, asStream_of_val hx])
    exact items
  · exact replied hpass (by simp [bodyOf, readCarriageReply, asCell_of_val hc hv, asStream_of_val hx, hk,
      State.freeCarriages])
  · exact replied hpass (by simp [bodyOf, readCarriageReply, asCell_of_val hc hv, asStream_of_val hx, hk,
      State.freeCarriages, histItems])

end

section
namespace Sys2Proof.Machine

open Sys2Proof

/-! ## A record written twice -/

section
variable {α : Type} (t : Table α) (k : Nat)

theorem tableErase_erase : tableErase (tableErase t k) k = tableErase t k := by
  induction t with
  | nil => rfl
  | cons e t ih =>
    obtain ⟨j, w⟩ := e
    by_cases hj : j = k <;> simp [tableErase, hj, ih]

theorem tableErase_place (v : α) : tableErase (tablePlace t k v) k = tableErase t k := by
  induction t with
  | nil => simp [tablePlace, tableErase]
  | cons e t ih =>
    obtain ⟨j, w⟩ := e
    by_cases hlt : k < j
    · simp [tablePlace, hlt, tableErase]
    · by_cases hj : j = k <;> simp [tablePlace, hlt, tableErase, hj, ih]

theorem tableErase_store (v : α) : tableErase (tableStore t k v) k = tableErase t k := by
  rw [tableStore, tableErase_place, tableErase_erase]

/-- The later of two records stored under one key stands. -/
theorem tableStore_store (v w : α) : tableStore (tableStore t k v) k w = tableStore t k w := by
  rw [tableStore, tableErase_store, ← tableStore]

/-- The later of two values written under one key stands. -/
theorem tableWrite_write [DecidableEq α] (d v w : α) :
    tableWrite d (tableWrite d t k v) k w = tableWrite d t k w := by
  have erased : tableErase (tableWrite d t k v) k = tableErase t k := by
    by_cases hv : v = d
    · rw [tableWrite, if_pos hv, tableErase_erase]
    · rw [tableWrite, if_neg hv, tableErase_store]
  by_cases hw : w = d
  · rw [tableWrite, if_pos hw, erased, tableWrite, if_pos hw]
  · rw [tableWrite, if_neg hw, tableStore, erased, ← tableStore, tableWrite, if_neg hw]

end

/-! ## Histograms (R112) -/

@[simp] theorem length_histUp (hist : List Nat) (l : Level) : (histUp hist l).length = hist.length :=
  List.length_set

@[simp] theorem length_histDown (hist : List Nat) (l : Level) : (histDown hist l).length = hist.length :=
  List.length_set

theorem getD_set_level {hist : List Nat} (h : hist.length = 8) (l i : Level) (n : Nat) :
    (hist.set l.val n).getD i.val 0 = if i = l then n else hist.getD i.val 0 := by
  have hl : l.val < hist.length := by omega
  by_cases hi : i = l
  · subst hi
    simp [List.getD_eq_getElem?_getD, List.getElem?_set_self hl]
  · have : l.val ≠ i.val := fun e => hi (Fin.ext e.symm)
    simp [List.getD_eq_getElem?_getD, List.getElem?_set_ne this, hi]

theorem getD_histUp {hist : List Nat} (h : hist.length = 8) (l i : Level) :
    (histUp hist l).getD i.val 0 = hist.getD i.val 0 + if i = l then 1 else 0 := by
  rw [histUp, getD_set_level h]
  by_cases hi : i = l <;> simp [hi]

theorem getD_histDown {hist : List Nat} (h : hist.length = 8) (l i : Level) :
    (histDown hist l).getD i.val 0 = hist.getD i.val 0 - if i = l then 1 else 0 := by
  rw [histDown, getD_set_level h]
  by_cases hi : i = l <;> simp [hi]

/-- A member that moves from one level to another is counted at the new one only. -/
theorem getD_histMove {hist : List Nat} (h : hist.length = 8) {old new : Level} (hne : new ≠ old) (i : Level) :
    (histUp (histDown hist old) new).getD i.val 0 =
      if i = new then hist.getD i.val 0 + 1
      else if i = old then hist.getD i.val 0 - 1 else hist.getD i.val 0 := by
  rw [getD_histUp (by simpa using h), getD_histDown h]
  by_cases hn : i = new
  · simp [hn, hne]
  · by_cases ho : i = old
    · simp [ho, Ne.symm hne]
    · simp [hn, ho]

/-- The lowest level of a histogram that counts anything: it is counted, and no level below it is. -/
theorem lowestLevel_spec {hist : List Nat} (h : hist.length = 8) (hsum : 1 ≤ hist.sum) :
    0 < hist.getD (lowestLevel hist).val 0 ∧ ∀ i : Level, i < lowestLevel hist → hist.getD i.val 0 = 0 := by
  have every : ∀ i : Level, i ∈ ([0, 1, 2, 3, 4, 5, 6, 7] : List Level) := by decide
  have rising : ([0, 1, 2, 3, 4, 5, 6, 7] : List Level).Pairwise (· < ·) := by decide
  unfold lowestLevel
  split
  · next l hl =>
    obtain ⟨hpos, below, above, hsplit, hbelow⟩ := List.find?_eq_some_iff_append.1 hl
    refine ⟨of_decide_eq_true hpos, fun i hi => ?_⟩
    have hmem := every i
    rw [hsplit] at hmem rising
    rcases List.mem_append.1 hmem with hin | hin
    · simpa using hbelow i hin
    · have habove := (List.pairwise_cons.1 (List.pairwise_append.1 rising).2.1).1
      rcases List.mem_cons.1 hin with rfl | hin
      · exact absurd hi (lt_irrefl _)
      · exact absurd hi (lt_asymm (habove i hin))
  · next hnone =>
    have empty : hist.sum = 0 := List.sum_eq_zero fun n hn => by
      obtain ⟨j, hj, rfl⟩ := List.mem_iff_getElem.1 hn
      have := List.find?_eq_none.1 hnone ⟨j, h ▸ hj⟩ (every _)
      simpa [hj] using this
    omega

/-- What a new histogram makes of a carriage besides the histogram (R112, R113). -/
theorem relevel_spec (k : Carriage) {hist : List Nat} (h : hist.length = 8) :
    let k' := relevel k hist
    (1 ≤ k'.hist.sum → 0 < k'.hist.getD k'.minLevel.val 0 ∧ ∀ i : Level, i < k'.minLevel → k'.hist.getD i.val 0 = 0) ∧
      k'.mode = k.mode ∧ k'.starved = k.starved ∧ k'.lastGrant = k.lastGrant ∧
      k'.balance = if k.mode = .multicast ∧ payload k'.minLevel ≠ payload k.minLevel then
        min k.balance ((payload k'.minLevel : Int) - 1) else k.balance := by
  refine ⟨lowestLevel_spec h, rfl, rfl, rfl, ?_⟩
  show (if k.mode = .multicast ∧ payload (lowestLevel hist) ≠ payload k.minLevel ∧
      (payload (lowestLevel hist) : Int) ≤ k.balance then (payload (lowestLevel hist) : Int) - 1 else k.balance) =
    if k.mode = .multicast ∧ payload (lowestLevel hist) ≠ payload k.minLevel then
      min k.balance ((payload (lowestLevel hist) : Int) - 1) else k.balance
  by_cases hm : k.mode = .multicast ∧ payload (lowestLevel hist) ≠ payload k.minLevel
  · obtain ⟨hmode, hp⟩ := hm
    simp only [hmode, hp, true_and, ne_eq, not_false_eq_true, if_true]
    split <;> omega
  · rw [if_neg hm, if_neg fun ⟨hmode, hp, _⟩ => hm ⟨hmode, hp⟩]

/-- The histogram of a carriage that has just been created, after its first join (R110). -/
theorem relevel_created (l : Level) :
    relevel ⟨0 + 1, List.replicate 8 0, l, .unicast, 0, false, 0⟩ (histUp (List.replicate 8 0) l) =
      ⟨1, (List.range 8).map fun i => if i = l.val then 1 else 0, l, .unicast, 0, false, 0⟩ := by
  revert l
  decide

/-! ## Joins, leaves and level moves -/

theorem placeInOrder_split (s : State) (x : StreamId) (l : List StreamId) :
    ∃ before after, l = before ++ after ∧ s.placeInOrder x l = before ++ x :: after ∧
      (∀ y ∈ before, s.grantsBefore x y = false) ∧ ∀ y rest, after = y :: rest → s.grantsBefore x y = true := by
  induction l with
  | nil => exact ⟨[], [], rfl, rfl, by simp, by simp⟩
  | cons z l ih =>
    by_cases hz : s.grantsBefore x z = true
    · exact ⟨[], z :: l, rfl, by simp [State.placeInOrder, hz], by simp, fun y rest hy => by cases hy; exact hz⟩
    · obtain ⟨before, after, hl, hp, hb, ha⟩ := ih
      refine ⟨z :: before, after, by rw [hl]; rfl, by simp [State.placeInOrder, hz, hp], fun y hy => ?_, ha⟩
      rcases List.mem_cons.1 hy with rfl | hy
      · simpa using hz
      · exact hb y hy

section
variable (s : State) (c : CellId) (x : StreamId)

theorem placeInOrder_setCarriage (k : Carriage) (l : List StreamId) :
    (s.setCarriage c x k).placeInOrder x l = s.placeInOrder x l := by
  induction l with
  | nil => rfl
  | cons z l ih =>
    rw [State.placeInOrder, State.placeInOrder, ih]
    rfl

theorem setCarriage_setCarriage (k k' : Carriage) : (s.setCarriage c x k).setCarriage c x k' = s.setCarriage c x k' := by
  simp only [State.setCarriage, tableStore_store]

theorem setTotals_setTotals (a b a' b' : Nat) : (s.setTotals x a b).setTotals x a' b' = s.setTotals x a' b' := by
  simp only [State.setTotals, stream_setStream_self]
  simp only [State.setStream, tableWrite_write]

theorem setCarriage_setTotals (k : Carriage) (a b : Nat) :
    (s.setTotals x a b).setCarriage c x k = (s.setCarriage c x k).setTotals x a b := rfl

theorem setCarriage_setRoster (k : Carriage) (e : RosterEntry) :
    (s.setRoster c e).setCarriage c x k = (s.setCarriage c x k).setRoster c e := rfl

end

section
variable {s : State} {c : CellId} {x : StreamId} {k : Carriage}

theorem joinExisting_eq (hk : s.carriage? c x = some k) (l : Level) (tag : Tag) :
    s.joinExisting c x l tag =
      ((s.setCarriage c x (relevel { k with count := k.count + 1 } (histUp k.hist l))).setTotals x
        ((s.stream x).subscribers + 1) (s.stream x).carriages).evalMode c x tag := by
  simp only [State.joinExisting, hk]
  rfl

theorem join_eq (hk : s.carriage? c x = some k) (l : Level) (tag : Tag) :
    s.join c x l tag =
      ((s.setCarriage c x (relevel { k with count := k.count + 1 } (histUp k.hist l))).setTotals x
        ((s.stream x).subscribers + 1) (s.stream x).carriages).evalMode c x tag := by
  rw [← joinExisting_eq hk]
  simp only [State.join, hk]

/-- A join to a carriage that is absent creates it with its first member (R110). -/
theorem join_absent (hk : s.carriage? c x = none) (l : Level) (tag : Tag) :
    s.join c x l tag =
      (((s.setCarriage c x
          ⟨1, (List.range 8).map fun i => if i = l.val then 1 else 0, l, .unicast, 0, false, 0⟩).setRoster c
        { s.rosterEntry c with carriages := s.placeInOrder x (s.rosterEntry c).carriages }).setTotals x
          ((s.stream x).subscribers + 1) ((s.stream x).carriages + 1)).evalMode c x tag := by
  have created : (s.createCarriage c x l).carriage? c x =
      some ⟨0, List.replicate 8 0, l, .unicast, 0, false, 0⟩ := carriage?_setCarriage_self ..
  have total : (s.createCarriage c x l).stream x = { s.stream x with carriages := (s.stream x).carriages + 1 } :=
    stream_setStream_self ..
  have create : s.createCarriage c x l =
      ((s.setCarriage c x ⟨0, List.replicate 8 0, l, .unicast, 0, false, 0⟩).setRoster c
        { s.rosterEntry c with carriages := s.placeInOrder x (s.rosterEntry c).carriages }).setTotals x
          (s.stream x).subscribers ((s.stream x).carriages + 1) := by
    rw [State.createCarriage, placeInOrder_setCarriage]
    rfl
  have joined : s.join c x l tag = (s.createCarriage c x l).joinExisting c x l tag := by simp only [State.join, hk]
  rw [joined, joinExisting_eq created, total, relevel_created, create, setCarriage_setTotals, setCarriage_setRoster,
    setCarriage_setCarriage, setTotals_setTotals]

theorem leave_eq_of_many (hk : s.carriage? c x = some k) (hc : 2 ≤ k.count) (l : Level) (tag : Tag) :
    s.leave c x l tag =
      ((s.setTotals x ((s.stream x).subscribers - 1) (s.stream x).carriages).setCarriage c x
        (relevel { k with count := k.count - 1 } (histDown k.hist l))).evalMode c x tag := by
  simp only [State.leave, hk]
  rw [if_neg (by omega)]

/-- A carriage left by its last member: the totals of its stream, its record and its place on the list (R111). -/
theorem leave_eq_of_last (hk : s.carriage? c x = some k) (hc : k.count ≤ 1) (l : Level) (tag : Tag) :
    let gone := (s.dropCarriage c x).setTotals x ((s.stream x).subscribers - 1) ((s.stream x).carriages - 1)
    s.leave c x l tag =
      if k.mode = .unicast then gone
      else gone.notify (toReplayAndOwner c) (.carriageMode c x 0 k.mode none k.starved none k.minLevel) tag := by
  have written : ∀ a b a' b', ((s.setTotals x a b).dropCarriage c x).setTotals x a' b' =
      (s.dropCarriage c x).setTotals x a' b' := fun a b a' b' => setTotals_setTotals (s.dropCarriage c x) x a b a' b'
  have read : ∀ a b, (s.setTotals x a b).stream x = { s.stream x with subscribers := a, carriages := b } :=
    fun _ _ => stream_setStream_self ..
  simp only [State.leave, hk, if_pos hc, written, read]

theorem moveLevel_eq (hk : s.carriage? c x = some k) (old new : Level) (tag : Tag) :
    s.moveLevel c x old new tag =
      (s.setCarriage c x (relevel k (histUp (histDown k.hist old) new))).evalMode c x tag := by
  simp only [State.moveLevel, hk]

/-- A mode evaluation leaves the members of its carriage as they are (R114). -/
theorem evalMode_members (hk : s.carriage? c x = some k) (tag : Tag) :
    ∃ k', (s.evalMode c x tag).carriage? c x = some k' ∧ k'.count = k.count ∧ k'.hist = k.hist ∧
      k'.minLevel = k.minLevel := by
  simp only [State.evalMode, hk]
  split
  · split
    · exact ⟨_, carriage?_setCarriage_self .., rfl, rfl, rfl⟩
    · split
      · exact ⟨_, carriage?_setCarriage_self .., rfl, rfl, rfl⟩
      · exact ⟨_, carriage?_setCarriage_self .., rfl, rfl, rfl⟩
  · split
    · exact ⟨_, carriage?_setCarriage_self .., rfl, rfl, rfl⟩
    · exact ⟨k, hk, rfl, rfl, rfl⟩

end

end Sys2Proof.Machine
end

section
namespace Sys2Proof.Machine

open Sys2Proof

/-! ## REPORT_LEVEL (R32, R33) -/

/-- The level moves of the ACTIVE entries of a list, in list order (R33). -/
def State.moveEntries (c : CellId) (old new : Level) (tag : Tag) (subs : List Subscription) (s : State) : State :=
  subs.foldl (fun v e => if e.state = .active then v.moveLevel c e.stream old new tag else v) s

section
variable {c : CellId} {old new : Level} {tag : Tag}

/-- One entry's move reaches only its own carriage, where it is ACTIVE, and notices. -/
theorem moveEntry_frame {hs : Handle → Prop} {cs : CellId → StreamId → Prop} (s : State) {e : Subscription}
    (he : cs c e.stream) :
    SubscriptionFrame hs cs s (if e.state = .active then s.moveLevel c e.stream old new tag else s) := by
  split
  · exact moveLevel_frame s he old new tag
  · exact .refl s

theorem moveEntries_frame {hs : Handle → Prop} {cs : CellId → StreamId → Prop} {subs : List Subscription}
    (hcs : ∀ e ∈ subs, cs c e.stream) (s : State) :
    SubscriptionFrame hs cs s (s.moveEntries c old new tag subs) := by
  unfold State.moveEntries
  induction subs generalizing s with
  | nil => exact .refl s
  | cons e subs ih =>
    rw [List.forall_mem_cons] at hcs
    exact (moveEntry_frame s hcs.1).trans (ih hcs.2 _)

theorem carriage?_moveEntries_of_not_mem {subs : List Subscription} {x : StreamId}
    (hx : x ∉ subs.map (·.stream)) (s : State) :
    (s.moveEntries c old new tag subs).carriage? c x = s.carriage? c x := by
  have frame : SubscriptionFrame (fun _ => False) (fun d y => d = c ∧ y ∈ subs.map (·.stream)) s
      (s.moveEntries c old new tag subs) :=
    moveEntries_frame (fun e he => ⟨rfl, List.mem_map_of_mem he⟩) s
  exact frame.carriages c x fun ⟨_, hmem⟩ => hx hmem

/-- The move of an ACTIVE entry: one member less at the old level, one more at the new one. -/
theorem moveLevel_members {s : State} {x : StreamId} {k : Carriage} (hk : s.carriage? c x = some k)
    (h : k.hist.length = 8) (hne : new ≠ old) :
    ∃ k', (s.moveLevel c x old new tag).carriage? c x = some k' ∧ k'.count = k.count ∧
      k'.minLevel = lowestLevel k'.hist ∧
      ∀ i : Level, k'.hist.getD i.val 0 =
        if i = new then k.hist.getD i.val 0 + 1
        else if i = old then k.hist.getD i.val 0 - 1 else k.hist.getD i.val 0 := by
  obtain ⟨k', hk', hcount, hhist, hmin⟩ := evalMode_members
    (carriage?_setCarriage_self s c x (relevel k (histUp (histDown k.hist old) new))) tag
  rw [moveLevel_eq hk]
  refine ⟨k', hk', hcount, ?_, fun i => ?_⟩
  · rw [hmin, hhist]
    rfl
  · rw [hhist]
    exact getD_histMove h hne i

/-- Each entry of a list that holds no stream twice moves its own carriage once, where it is ACTIVE. -/
theorem moveEntries_members {subs : List Subscription} (hn : (subs.map (·.stream)).Nodup) {e : Subscription}
    (he : e ∈ subs) {s : State} {k : Carriage} (hk : s.carriage? c e.stream = some k) (h : k.hist.length = 8)
    (hne : new ≠ old) :
    if e.state = .active then
      ∃ k', (s.moveEntries c old new tag subs).carriage? c e.stream = some k' ∧ k'.count = k.count ∧
        k'.minLevel = lowestLevel k'.hist ∧
        ∀ i : Level, k'.hist.getD i.val 0 =
          if i = new then k.hist.getD i.val 0 + 1
          else if i = old then k.hist.getD i.val 0 - 1 else k.hist.getD i.val 0
    else (s.moveEntries c old new tag subs).carriage? c e.stream = some k := by
  induction subs generalizing s with
  | nil => cases he
  | cons d subs ih =>
    rw [List.map_cons, List.nodup_cons] at hn
    obtain ⟨hout, hn⟩ := hn
    have cons : s.moveEntries c old new tag (d :: subs) =
        (if d.state = .active then s.moveLevel c d.stream old new tag else s).moveEntries c old new tag subs := rfl
    rcases List.mem_cons.1 he with rfl | he
    · rw [cons, carriage?_moveEntries_of_not_mem hout]
      split
      · exact moveLevel_members hk h hne
      · exact hk
    · have hother : e.stream ≠ d.stream := fun heq => hout (heq ▸ List.mem_map_of_mem he)
      have first : SubscriptionFrame (fun _ => False) (fun b y => b = c ∧ y = d.stream) s
          (if d.state = .active then s.moveLevel c d.stream old new tag else s) := moveEntry_frame s ⟨rfl, rfl⟩
      rw [cons]
      exact ih hn he ((first.carriages c e.stream fun ⟨_, heq⟩ => hother heq).trans hk)

end

theorem mayReport_iff (u : PortUnit) (st : Station) :
    mayReport u st = true ↔ ownsCell u st.serving = true ∨
      ∃ c deadline tag, st.state = .inHandover c deadline tag ∧ ownsCell u c = true := by
  unfold mayReport
  cases st.state <;> simp

section
variable {s : State} {p : PortId} {cmd : Cmd} {h : Handle} {st : Station}

theorem reportLevelReply_of_unknown (hh : ∀ g, (cmd.op 2).toNat = g → g < 65536 → s.station? g = none) :
    reportLevelReply p cmd s = refuse .unknownStation [] s := by
  simp only [reportLevelReply, asStation_eq_none hh]

theorem reportLevelReply_of_stranger (hh : (cmd.op 2).toNat = h) (hlt : h < 65536) (hst : s.station? h = some st)
    (hmay : ¬mayReport (s.port p) st = true) : reportLevelReply p cmd s = refuse .notServing [] s := by
  simp [reportLevelReply, asStation_of_lt hh hlt, hst, hmay]

theorem reportLevelReply_of_may (hh : (cmd.op 2).toNat = h) (hlt : h < 65536) (hst : s.station? h = some st)
    (hmay : mayReport (s.port p) st = true) {l : Level} (hl : l.val = min 7 ((cmd.op 3).toNat % 256)) :
    reportLevelReply p cmd s =
      ⟨.ok, [.bytes 1 st.level.val, .bytes 1 l.val, itemMarks [decide (7 < (cmd.op 3).toNat % 256)]],
        if l = st.level then s else s.replaceLevel h st l cmd.tag⟩ := by
  simp [reportLevelReply, asStation_of_lt hh hlt, hst, hmay, hh, asLevel_of_val hl, levelClamped_eq]

end

section
variable {s : State} {h : Handle} {st : Station} {l : Level} {tag : Tag}

theorem replaceLevel_of_lingering (hs : isLingering st.state = true) :
    s.replaceLevel h st l tag = s.setStation h { st with level := l } := by
  simp only [State.replaceLevel, hs, if_true]

theorem replaceLevel_of_served (hs : isLingering st.state = false) :
    s.replaceLevel h st l tag =
      (s.setStation h { st with level := l }).moveEntries st.serving st.level l tag st.subs := by
  simp only [State.replaceLevel, hs, Bool.false_eq_true, if_false]
  rfl

/-- A level replaced reaches, besides the level, only the carriages of the station's subscriptions and notices. -/
theorem replaceLevel_frame (s : State) (h : Handle) (st : Station) (l : Level) (tag : Tag) :
    SubscriptionFrame (fun _ => False) (carriagesOf st) (s.setStation h { st with level := l })
      (s.replaceLevel h st l tag) := by
  cases hs : isLingering st.state with
  | true =>
    rw [replaceLevel_of_lingering hs]
    exact .refl _
  | false =>
    rw [replaceLevel_of_served hs]
    exact moveEntries_frame (fun e he => ⟨rfl, List.mem_map_of_mem he⟩) _

end

end Sys2Proof.Machine

open Sys2Proof Sys2Proof.Machine

/-- Settles O29: the replies of REPORT_LEVEL with the moves of the list's entries, and then the equation of each of a join, a
leave and a level move. -/
theorem reportLevelMovesTheHistograms : Obligations.ReportLevelMovesTheHistograms := by
  refine ⟨?_, ?_⟩
  · intro s p cmd hpass refused
    have replied : ∀ {r : Reply}, reportLevelReply p cmd s = r →
        exec (.reportLevel p) s = .next (finishCommand p cmd r) := fun hr =>
      (exec_rowOf_of_passes hpass 0).trans (by rw [bodyOf, hr])
    refine ⟨fun hh => replied (reportLevelReply_of_unknown hh), ?_⟩
    intro h st l hh hlt hst hl may
    have hiff : mayReport (s.port p) st = true ↔ may := mayReport_iff (s.port p) st
    refine ⟨fun hno => replied (reportLevelReply_of_stranger hh hlt hst (mt hiff.1 hno)), fun hmay => ?_⟩
    have frame := replaceLevel_frame s h st l cmd.tag
    refine ⟨_, replied (reportLevelReply_of_may hh hlt hst (hiff.2 hmay) hl), fun he => if_pos he, fun hne hs => ?_,
      fun hne hs => ?_, fun hne => ?_, fun hne hs hn e he k hk hlen => ?_⟩
    · rw [if_neg hne, replaceLevel_of_lingering hs]
    · rw [if_neg hne, replaceLevel_of_served hs]
      rfl
    · rw [if_neg hne]
      exact ⟨(frame.stations h not_false).trans (station?_setStation_self s h _), frame⟩
    · rw [if_neg hne, replaceLevel_of_served hs]
      exact moveEntries_members hn he (s := s.setStation h { st with level := l }) hk hlen hne
  · intro s c x l tag totals leveled
    refine ⟨fun hk => ⟨⟨_, _, join_absent hk l tag, rfl, placeInOrder_split s x _⟩, ?_, fun l' => ?_⟩,
      fun k hk hlen => ⟨⟨_, join_eq hk l tag, rfl, ?_, ?_, getD_histUp hlen l⟩,
        fun hc => ⟨_, leave_eq_of_many hk hc l tag, rfl, ?_, ?_, getD_histDown hlen l⟩,
        fun hc => leave_eq_of_last hk hc l tag,
        fun l' hne => ⟨_, moveLevel_eq hk l l' tag, rfl, ?_, ?_, getD_histMove hlen hne⟩⟩⟩
    · simp only [State.leave, hk]
    · simp only [State.moveLevel, hk]
    · exact relevel_spec { k with count := k.count + 1 } (by simpa using hlen)
    · simpa [relevel] using hlen
    · exact relevel_spec { k with count := k.count - 1 } (by simpa using hlen)
    · simpa [relevel] using hlen
    · exact relevel_spec k (by simpa using hlen)
    · simpa [relevel] using hlen

end

section
namespace Sys2Proof.Machine

open Sys2Proof

/-! ## Claims made and abandoned (R38 to R40, R45 to R47) -/

/-- A station's record and the counts of one cell written anew: every other record stands. -/
theorem setStation_setRoster_records (s : State) (h : Handle) (st : Station) (c : CellId) (e : RosterEntry) :
    let t := (s.setStation h st).setRoster c e
    t = { s with stations := t.stations, roster := t.roster } ∧
      t.station? h = some st ∧ (∀ g, g ≠ h → t.station? g = s.station? g) ∧
      t.rosterEntry c = e ∧ ∀ d, d ≠ c → t.rosterEntry d = s.rosterEntry d :=
  ⟨rfl, station?_setStation_self s h st, fun _ hg => station?_setStation_of_ne s st hg,
    rosterEntry_setRoster_self _ c e, fun _ hd => rosterEntry_setRoster_of_ne (s.setStation h st) e hd⟩

/-! ### CLAIM -/

section
variable {s : State} {p : PortId} {cmd : Cmd} {c : CellId}

theorem claimReply_of_badCell (hc : s.asCell (cmd.op 3) = none) : claimReply p cmd s = refuse .badOperand [] s := by
  simp only [claimReply, hc]

section
variable (hc : s.asCell (cmd.op 3) = some c)
include hc

theorem claimReply_of_stranger (ho : ownsCell (s.port p) c = false) : claimReply p cmd s = refuse .notOwner [] s := by
  simp [claimReply, hc, ho]

theorem claimReply_of_unknown (ho : ownsCell (s.port p) c = true) (hst : s.asStation (cmd.op 2) = none) :
    claimReply p cmd s = refuse .unknownStation [] s := by
  simp [claimReply, hc, ho, hst]

/-- A CLAIM of an owned cell that names a live station comes to the checks on the station (R38). -/
theorem claimReply_of_operands (ho : ownsCell (s.port p) c = true) {st : Station}
    (hst : s.asStation (cmd.op 2) = some st) :
    claimReply p cmd s = claimStation cmd c (cmd.op 2).toNat st s := by
  simp [claimReply, hc, ho, hst]

end

variable {h : Handle} {st : Station}

theorem claimStation_of_stale (hq : (cmd.op 5).getLsbD 0 = true ∧ (cmd.op 4).toNat ≠ st.sequence.toNat) :
    claimStation cmd c h st s = refuse .stale [.bytes 1 st.sequence.toNat] s :=
  if_pos hq

section
variable (hq : ¬((cmd.op 5).getLsbD 0 = true ∧ (cmd.op 4).toNat ≠ st.sequence.toNat))
include hq

theorem claimStation_of_serving (hc : c = st.serving) : claimStation cmd c h st s = refuse .sameCell [] s :=
  (if_neg hq).trans (if_pos hc)

variable (hc : c ≠ st.serving)
include hc

theorem claimStation_of_lingering {deadline : FrameNo} {tag : Tag} (hs : st.state = .lingering deadline tag) :
    claimStation cmd c h st s = refuse .notAssociated [] s :=
  (if_neg hq).trans ((if_neg hc).trans (by rw [hs]))

section
variable {claimant : CellId} {deadline : FrameNo} {tag : Tag} (hs : st.state = .inHandover claimant deadline tag)
include hs

theorem claimStation_of_standing (hsame : claimant = c) :
    claimStation cmd c h st s = ⟨.accepted, claimItems true st c deadline, s⟩ :=
  (if_neg hq).trans ((if_neg hc).trans (by rw [hs]; exact if_pos hsame))

theorem claimStation_of_contested (hother : claimant ≠ c) : claimStation cmd c h st s =
    refuse .contested [.bytes 2 claimant.val, itemWord deadline, .bytes 1 st.sequence.toNat] s :=
  (if_neg hq).trans ((if_neg hc).trans (by rw [hs]; exact if_neg hother))

end

variable (hs : st.state = .associated)
include hs

theorem claimStation_of_room (hroom : s.hasRoom c = true) : claimStation cmd c h st s =
    ⟨.accepted, claimItems false st c (s.clock.frame + BitVec.ofNat 32 s.venue.handoverWindow),
      s.acceptClaim h st c cmd.tag⟩ :=
  (if_neg hq).trans ((if_neg hc).trans (by rw [hs]; exact if_pos hroom))

theorem claimStation_of_full (hroom : s.hasRoom c = false) : claimStation cmd c h st s = refuse .cellFull [] s :=
  (if_neg hq).trans ((if_neg hc).trans (by rw [hs]; exact if_neg (by simp [hroom])))

end

end

/-! ### WITHDRAW and the lapse -/

section
variable {s : State} {p : PortId} {cmd : Cmd} {h : Handle} {st : Station}

theorem withdrawReply_of_unknown (hh : ∀ g, (cmd.op 2).toNat = g → g < 65536 → s.station? g = none) :
    withdrawReply p cmd s = refuse .unknownStation [] s := by
  simp only [withdrawReply, asStation_eq_none hh]

section
variable (hh : (cmd.op 2).toNat = h) (hlt : h < 65536) (hst : s.station? h = some st)
include hh hlt hst

theorem withdrawReply_of_stale (hq : (cmd.op 3).toNat ≠ st.sequence.toNat) :
    withdrawReply p cmd s = refuse .stale (staleItems st) s := by
  simp [withdrawReply, asStation_of_lt hh hlt, hst, hq]

variable (hq : (cmd.op 3).toNat = st.sequence.toNat)
include hq

theorem withdrawReply_of_associated (hs : st.state = .associated) : withdrawReply p cmd s = refuse .noClaim [] s := by
  simp [withdrawReply, asStation_of_lt hh hlt, hst, hq, hs]

variable {c : CellId} {deadline : FrameNo} {tag : Tag}

theorem withdrawReply_of_lingering (hs : st.state = .lingering deadline tag) :
    withdrawReply p cmd s = refuse .noClaim [] s := by
  simp [withdrawReply, asStation_of_lt hh hlt, hst, hq, hs]

variable (hs : st.state = .inHandover c deadline tag)
include hs

theorem withdrawReply_of_stranger (ho : ownsCell (s.port p) c = false) :
    withdrawReply p cmd s = refuse .notClaimant [] s := by
  simp [withdrawReply, asStation_of_lt hh hlt, hst, hq, hs, ho]

theorem withdrawReply_of_claimant (ho : ownsCell (s.port p) c = true) : withdrawReply p cmd s =
    ⟨.ok, [.bytes 2 st.serving.val, .bytes 1 st.sequence.toNat], s.abandonClaim h false⟩ := by
  simp [withdrawReply, asStation_of_lt hh hlt, hst, hh, hq, hs, ho]

end

variable {c : CellId} {deadline : FrameNo} {tag : Tag}

/-- An abandoned claim: the record and the pending-in back where they were, and the serving cell's port told (R45, R47). -/
theorem abandonClaim_eq (hst : s.station? h = some st) (hs : st.state = .inHandover c deadline tag) (lapsed : Bool) :
    s.abandonClaim h lapsed = ((s.setStation h { st with state := .associated }).subPending c).notify
      (fun u => ownsCell u st.serving)
      (if lapsed then .claimLapsed h st.sequence st.serving c else .claimWithdrawn h st.sequence st.serving c) tag := by
  simp only [State.abandonClaim, hst, hs]

theorem ownerQuarantined_of_quarantined {q : PortId} (hown : s.ownerOf (sectorOf c) = some q)
    (hq : (s.port q).state = .quarantined) : s.ownerQuarantined c = true := by
  simp [State.ownerQuarantined, hown, hq]

theorem expireClaim_lapses (hst : s.station? h = some st) (hs : st.state = .inHandover c deadline tag)
    (hq : s.ownerQuarantined c = true) : s.expireClaim h = s.abandonClaim h true := by
  simp [State.expireClaim, hst, hs, hq]

end

end Sys2Proof.Machine

open Sys2Proof Sys2Proof.Machine

/-- Settles O30, by the checks of CLAIM in their order. -/
theorem claimStartsOneHandover : Obligations.ClaimStartsOneHandover := by
  intro s p cmd hpass replies
  have replied : ∀ {st items t}, claimReply p cmd s = ⟨st, items, t⟩ → replies st items t := fun hr =>
    (exec_rowOf_of_passes hpass 0).trans (by rw [bodyOf, hr])
  refine ⟨fun hcell => replied (claimReply_of_badCell (asCell_eq_none hcell)), fun c hval hv => ?_⟩
  have hc : s.asCell (cmd.op 3) = some c := asCell_of_val hval hv
  split
  · next ho => exact replied (claimReply_of_stranger hc ho)
  · next ho =>
    have ho : ownsCell (s.port p) c = true := by simpa using ho
    refine ⟨fun hnone => replied (claimReply_of_unknown hc ho (asStation_eq_none hnone)), fun h st hh hlt hst => ?_⟩
    have claimed : claimReply p cmd s = claimStation cmd c h st s := by
      rw [claimReply_of_operands hc ho ((asStation_of_lt hh hlt).trans hst), hh]
    dsimp only
    split
    · next hq => exact replied (claimed.trans (claimStation_of_stale hq))
    · next hq =>
      split
      · next hsame => exact replied (claimed.trans (claimStation_of_serving hq hsame))
      · next hne =>
        split
        · next hs => exact replied (claimed.trans (claimStation_of_lingering hq hne hs))
        · next hs =>
          split
          · next hsame => exact replied (claimed.trans (claimStation_of_standing hq hne hs hsame))
          · next hother => exact replied (claimed.trans (claimStation_of_contested hq hne hs hother))
        · next hs =>
          split
          · next hroom =>
            exact ⟨_, replied (claimed.trans (claimStation_of_room hq hne hs ((hasRoom_iff s c).2 hroom))),
              setStation_setRoster_records s h _ c _⟩
          · next hroom =>
            have full : s.hasRoom c = false := by simpa using mt (hasRoom_iff s c).1 hroom
            exact replied (claimed.trans (claimStation_of_full hq hne hs full))

/-- Settles O32: the checks of WITHDRAW in their order, and one abandonment for the two events that ask for it. -/
theorem abandonedClaimsLeaveTheStation : Obligations.AbandonedClaimsLeaveTheStation := by
  refine ⟨?_, ?_⟩
  · intro s p cmd hpass refused
    have replied : ∀ {st items}, withdrawReply p cmd s = refuse st items s → refused st items := fun hr =>
      (exec_rowOf_of_passes hpass 0).trans (by rw [bodyOf, hr]; rfl)
    refine ⟨fun hnone => replied (withdrawReply_of_unknown hnone), fun h st hh hlt hst => ?_⟩
    split
    · next hq => exact replied (withdrawReply_of_stale hh hlt hst hq)
    · next hq =>
      have hq : (cmd.op 3).toNat = st.sequence.toNat := not_not.1 hq
      split
      · next hs => exact replied (withdrawReply_of_associated hh hlt hst hq hs)
      · next hs => exact replied (withdrawReply_of_lingering hh hlt hst hq hs)
      · next hs => exact fun ho => replied (withdrawReply_of_stranger hh hlt hst hq hs ho)
  · intro s h st c deadline tag hst hs back told
    have hback : back ((s.setStation h { st with state := .associated }).subPending c) :=
      setStation_setRoster_records s h _ c _
    refine ⟨fun p cmd hpass hh hlt hq ho => ⟨_, hback, (exec_rowOf_of_passes hpass 0).trans ?_⟩,
      fun ⟨q, hown, hquarantined⟩ => ⟨_, hback, ?_⟩⟩
    · rw [bodyOf, withdrawReply_of_claimant hh hlt hst hq hs ho, abandonClaim_eq hst hs]
      rfl
    · rw [expireClaim_lapses hst hs (ownerQuarantined_of_quarantined hown hquarantined), abandonClaim_eq hst hs]
      rfl
end

section
namespace Sys2Proof.Machine

open Sys2Proof

/-! ## LOAD_TICKETS (R57 to R59) -/

/-! ### The elements of the chain -/

section
variable (cmd : Cmd)

/-- An element gives a zone, class, re-entry count or seat out of range (R57). -/
def Cmd.badFields (i : Nat) : Prop :=
  let seat := (cmd.word i 4).toNat
  let rest := (cmd.word i 5).toNat
  15 < rest / 2 ^ 24 ∨ rest / 2 ^ 16 % 256 = 0 ∨ 2 < rest / 2 ^ 16 % 256 ∨ 3 < rest / 2 ^ 8 % 256 ∨
    (rest % 2 = 1 ∧ (31 < seat / 2 ^ 24 ∨ 127 < seat / 2 ^ 16 % 256 ∨ 255 < seat % 2 ^ 16))

theorem asZone_eq_none {w : Word} : asZone w = none ↔ 15 < w.toNat := by
  unfold asZone
  split <;> simp <;> omega

theorem asTicketClass_eq_none {n : Nat} : asTicketClass n = none ↔ n = 0 ∨ 2 < n := by
  unfold asTicketClass
  split
  · simp
  · simp
  · next h1 h2 =>
    have h1 : n ≠ 1 := h1
    have h2 : n ≠ 2 := h2
    simp only [true_iff]
    omega

theorem asTicketClass_code (c : TicketClass) : asTicketClass (ticketClassCode c) = some c := by
  cases c <;> rfl

theorem asSeat_eq_none {w : Word} :
    asSeat w = none ↔ 31 < w.toNat / 2 ^ 24 ∨ 127 < w.toNat / 2 ^ 16 % 256 ∨ 255 < w.toNat % 2 ^ 16 := by
  unfold asSeat
  split <;> simp <;> omega

theorem asSeat_of_fields {w : Word} {q : Seat}
    (h : w = BitVec.ofNat 32 (q.sector.val * 2 ^ 24 + q.row.val * 2 ^ 16 + q.seat.val)) : asSeat w = some q := by
  obtain ⟨sector, row, seat⟩ := q
  have hw : w.toNat = sector.val * 2 ^ 24 + row.val * 2 ^ 16 + seat.val := by
    rw [h, BitVec.toNat_ofNat]
    exact Nat.mod_eq_of_lt (by omega)
  unfold asSeat
  rw [dif_pos (by omega)]
  simp only [Option.some.injEq, Seat.mk.injEq]
  exact ⟨Fin.ext (by simp only; omega), Fin.ext (by simp only; omega), Fin.ext (by simp only; omega)⟩

theorem getLsbD_zero_iff (w : Word) : w.getLsbD 0 = true ↔ w.toNat % 2 = 1 := by
  simp [BitVec.getLsbD, Nat.testBit_zero]

theorem getLsbD_one_iff (w : Word) : w.getLsbD 1 = true ↔ w.toNat / 2 % 2 = 1 := by
  simp [BitVec.getLsbD, Nat.testBit_succ, Nat.testBit_zero]

theorem bit_le_one (b : Bool) : bit b ≤ 1 := by
  cases b <;> decide

theorem bit_eq_one (b : Bool) : bit b = 1 ↔ b = true := by
  cases b <;> decide

/-- An element has no ticket exactly when one of its fields is out of range. -/
theorem asTicket_eq_none_iff (i : Nat) : asTicket cmd i = none ↔ cmd.badFields i := by
  have zone : (cmd.word i 5 >>> 24).toNat = (cmd.word i 5).toNat / 2 ^ 24 := by
    rw [BitVec.toNat_ushiftRight, Nat.shiftRight_eq_div_pow]
  have zoneBad := asZone_eq_none (w := cmd.word i 5 >>> 24)
  have classBad := asTicketClass_eq_none (n := (cmd.word i 5).toNat / 2 ^ 16 % 256)
  have seatBad := asSeat_eq_none (w := cmd.word i 4)
  rw [zone] at zoneBad
  unfold Cmd.badFields
  dsimp only
  rw [← zoneBad, ← getLsbD_zero_iff, ← seatBad, ← or_assoc (b := 2 < _), ← classBad]
  unfold asTicket
  dsimp only
  cases asZone (cmd.word i 5 >>> 24) with
  | none => simp
  | some z =>
    cases asTicketClass ((cmd.word i 5).toNat / 2 ^ 16 % 256) with
    | none => simp
    | some c =>
      dsimp only
      split
      · next hbad => simpa using hbad
      · next hgood => simpa using hgood

/-- The ticket of an element is ISSUED and unbound, under the number of its words 2 and 3 (R57, R59). -/
theorem asTicket_new {i : Nat} {k : Ticket} (h : asTicket cmd i = some k) :
    k.number = cmd.word i 3 ++ cmd.word i 2 ∧ k.entry = .issued ∧ k.admission = none ∧ k.station = none := by
  unfold asTicket at h
  dsimp only at h
  split at h
  · split at h
    · cases h
    · cases h
      exact ⟨rfl, rfl, rfl, rfl⟩
  · cases h
  · cases h

/-- The ticket whose fields an element's words carry is the element's (R57, R167). -/
theorem asTicket_of_fields {i : Nat} {k : Ticket} (hentry : k.entry = .issued) (hadm : k.admission = none)
    (hstation : k.station = none) (hre : k.reentries ≤ 3) (hlow : cmd.word i 2 = BitVec.ofNat 32 k.number.toNat)
    (hhigh : cmd.word i 3 = BitVec.ofNat 32 (k.number.toNat / 2 ^ 32))
    (hseat : ∀ q, k.seat = some q →
      cmd.word i 4 = BitVec.ofNat 32 (q.sector.val * 2 ^ 24 + q.row.val * 2 ^ 16 + q.seat.val))
    (hrest : cmd.word i 5 = BitVec.ofNat 32 (k.zone.val * 2 ^ 24 + ticketClassCode k.cls * 2 ^ 16 +
      k.reentries * 2 ^ 8 + 2 * bit k.anyZone + bit k.seat.isSome)) : asTicket cmd i = some k := by
  obtain ⟨number, seat, zone, anyZone, cls, entry, reentries, admission, station⟩ := k
  dsimp only at hentry hadm hstation hre hlow hhigh hseat hrest
  subst hentry hadm hstation
  have hcls : ticketClassCode cls ≤ 2 := by cases cls <;> decide
  have hany := bit_le_one anyZone
  have hsome := bit_le_one seat.isSome
  have rest : (cmd.word i 5).toNat = zone.val * 2 ^ 24 + ticketClassCode cls * 2 ^ 16 + reentries * 2 ^ 8 +
      2 * bit anyZone + bit seat.isSome := by
    rw [hrest, BitVec.toNat_ofNat]
    exact Nat.mod_eq_of_lt (by omega)
  have hz : asZone (cmd.word i 5 >>> 24) = some zone :=
    asZone_of_val (by rw [BitVec.toNat_ushiftRight, Nat.shiftRight_eq_div_pow]; omega)
  have hc : asTicketClass ((cmd.word i 5).toNat / 2 ^ 16 % 256) = some cls := by
    rw [← asTicketClass_code cls]
    exact congrArg _ (by omega)
  have hn : twoWords (cmd.word i 2) (cmd.word i 3) = number := by
    refine BitVec.eq_of_toNat_eq ?_
    have := number.isLt
    rw [twoWords, BitVec.toNat_append, ← Nat.shiftLeft_add_eq_or_of_lt (cmd.word i 2).isLt, Nat.shiftLeft_eq, hlow, hhigh,
      BitVec.toNat_ofNat, BitVec.toNat_ofNat]
    omega
  have hr : (cmd.word i 5).toNat / 2 ^ 8 % 256 = reentries := by omega
  have flag : (cmd.word i 5).getLsbD 0 = seat.isSome := by
    rw [Bool.eq_iff_iff, getLsbD_zero_iff, ← bit_eq_one]
    omega
  have anyFlag : (cmd.word i 5).getLsbD 1 = anyZone := by
    rw [Bool.eq_iff_iff, getLsbD_one_iff, ← bit_eq_one]
    omega
  unfold asTicket
  dsimp only
  rw [hz, hc, hn, hr, flag, anyFlag]
  cases seat with
  | none => simp [Nat.not_lt.2 hre]
  | some q => simp [Nat.not_lt.2 hre, asSeat_of_fields (hseat q rfl)]

/-- All that the reading of the elements from `k` on can come to: the first with bad fields, or a ticket for each (R58). -/
theorem readTickets_cases (k n : Nat) :
    (∃ i, k ≤ i ∧ i < k + n ∧ cmd.badFields i ∧ (∀ j, k ≤ j → j < i → ¬cmd.badFields j) ∧
      readTickets cmd k n = .error i) ∨
    ∃ ts, readTickets cmd k n = .ok ts ∧ ts.length = n ∧ ∀ i < n, asTicket cmd (k + i) = ts[i]? := by
  induction n generalizing k with
  | zero => exact .inr ⟨[], rfl, rfl, by simp⟩
  | succ n ih =>
    unfold readTickets
    cases hk : asTicket cmd k with
    | none => exact .inl ⟨k, le_rfl, by omega, (asTicket_eq_none_iff cmd k).1 hk, by omega, rfl⟩
    | some a =>
      have good : ¬cmd.badFields k := by simp [← asTicket_eq_none_iff, hk]
      rcases ih (k + 1) with ⟨i, hki, hin, hbad, hfirst, hr⟩ | ⟨ts, hr, hlen, hts⟩
      · refine .inl ⟨i, by omega, by omega, hbad, fun j hkj hji => ?_, by simp only [hr]⟩
        rcases Nat.eq_or_lt_of_le hkj with rfl | hlt
        · exact good
        · exact hfirst j hlt hji
      · refine .inr ⟨a :: ts, by simp only [hr], by simp [hlen], fun i hi => ?_⟩
        cases i with
        | zero => exact hk
        | succ i => rw [← Nat.add_assoc, Nat.add_right_comm, hts i (by omega), List.getElem?_cons_succ]

/-- The first element with bad fields is the one that the reading reports. -/
theorem readTickets_of_bad {n i : Nat} (hi : i < n) (hbad : cmd.badFields i) (hfirst : ∀ j < i, ¬cmd.badFields j) :
    readTickets cmd 0 n = .error i := by
  rcases readTickets_cases cmd 0 n with ⟨j, _, _, hj, hbefore, hr⟩ | ⟨ts, _, hlen, hts⟩
  · rcases Nat.lt_trichotomy i j with hlt | rfl | hgt
    · exact absurd hbad (hbefore i (Nat.zero_le i) hlt)
    · exact hr
    · exact absurd hj (hfirst j hgt)
  · have none := (asTicket_eq_none_iff cmd i).2 hbad
    rw [← Nat.zero_add i, hts i hi, List.getElem?_eq_none_iff] at none
    omega

theorem readTickets_of_good {n : Nat} (hgood : ∀ i < n, ¬cmd.badFields i) :
    ∃ ts, readTickets cmd 0 n = .ok ts ∧ ts.length = n ∧ ∀ i < n, asTicket cmd i = ts[i]? := by
  rcases readTickets_cases cmd 0 n with ⟨i, _, hi, hbad, _⟩ | ⟨ts, hr, hlen, hts⟩
  · exact absurd hbad (hgood i (by omega))
  · exact ⟨ts, hr, hlen, fun i hi => by rw [← hts i hi, Nat.zero_add]⟩

/-- A chain whose elements carry these tickets is read as them. -/
theorem readTickets_of_fields {n : Nat} {ts : List Ticket} (hlen : ts.length = n)
    (hts : ∀ i k, ts[i]? = some k → asTicket cmd i = some k) : readTickets cmd 0 n = .ok ts := by
  have found : ∀ i < n, asTicket cmd i = ts[i]? := fun i hi => by
    have hi : i < ts.length := by omega
    rw [hts i _ (List.getElem?_eq_getElem hi), List.getElem?_eq_getElem hi]
  obtain ⟨us, hr, hlen', hus⟩ := readTickets_of_good cmd (n := n) fun i hi => by
    have hi' : i < ts.length := by omega
    rw [← asTicket_eq_none_iff, found i hi, List.getElem?_eq_getElem hi']
    simp
  rw [hr]
  refine congrArg _ (List.ext_getElem? fun i => ?_)
  by_cases hi : i < n
  · rw [← hus i hi, found i hi]
  · rw [List.getElem?_eq_none (by omega), List.getElem?_eq_none (by omega)]

/-- Every ticket that the chain is read as is an element's. -/
theorem readTickets_ok {n : Nat} {ts : List Ticket} (hr : readTickets cmd 0 n = .ok ts) :
    ∀ k ∈ ts, ∃ i, asTicket cmd i = some k := by
  rcases readTickets_cases cmd 0 n with ⟨i, _, _, _, _, herror⟩ | ⟨us, hok, hlen, hus⟩
  · rw [herror] at hr
    cases hr
  · rw [hok] at hr
    cases hr
    intro k hk
    obtain ⟨i, hi, rfl⟩ := List.mem_iff_getElem.1 hk
    exact ⟨0 + i, by rw [hus i (by omega), List.getElem?_eq_getElem hi]⟩

end

/-! ### The check of the numbers -/

/-- The check passes over tickets whose numbers are not loaded and differ from each other. -/
theorem findDuplicate_append {s : State} {earlier pre : List Ticket}
    (hnew : ∀ k ∈ pre, tableFind s.ticketMap k.number.toNat = none) (hn : ((earlier ++ pre).map (·.number)).Nodup)
    (ts : List Ticket) : findDuplicate s earlier.length earlier (pre ++ ts) =
      findDuplicate s (earlier ++ pre).length (earlier ++ pre) ts := by
  induction pre generalizing earlier with
  | nil => simp
  | cons a pre ih =>
    have hother : (earlier.any fun e => decide (e.number = a.number)) = false := by
      rw [List.map_append, List.nodup_append] at hn
      obtain ⟨_, _, hdiffer⟩ := hn
      simpa using fun (e : Ticket) he => hdiffer e.number (List.mem_map_of_mem he) a.number (by simp)
    have step := ih (earlier := earlier ++ [a]) (fun k hk => hnew k (by simp [hk])) (by simpa using hn)
    rw [List.append_assoc, List.singleton_append] at step
    rw [← step, List.cons_append, findDuplicate, hnew a (by simp)]
    simp [hother]

/-- New and different numbers pass the check (R58). -/
theorem findDuplicate_of_new {s : State} {ts : List Ticket}
    (hnew : ∀ k ∈ ts, tableFind s.ticketMap k.number.toNat = none) (hn : (ts.map (·.number)).Nodup) :
    findDuplicate s 0 [] ts = none := by
  have := findDuplicate_append (earlier := []) hnew hn []
  rwa [List.append_nil] at this

/-- Numbers that pass the check are new, and differ from each other and from the earlier ones. -/
theorem new_of_findDuplicate {s : State} {ts : List Ticket} {k : Nat} {earlier : List Ticket}
    (h : findDuplicate s k earlier ts = none) (hn : (earlier.map (·.number)).Nodup) :
    (∀ a ∈ ts, tableFind s.ticketMap a.number.toNat = none) ∧ ((earlier ++ ts).map (·.number)).Nodup := by
  induction ts generalizing k earlier with
  | nil => exact ⟨by simp, by simpa using hn⟩
  | cons a ts ih =>
    unfold findDuplicate at h
    split at h
    · cases h
    · next hnew =>
      split at h
      · cases h
      · next hother =>
        have appended : ((earlier ++ [a]).map (·.number)).Nodup := by
          rw [List.map_append, List.nodup_append]
          refine ⟨hn, by simp, fun x hx y hy => ?_⟩
          obtain ⟨e, he, rfl⟩ := List.mem_map.1 hx
          simp only [List.map_cons, List.map_nil, List.mem_singleton] at hy
          subst hy
          simp only [List.any_eq_true, decide_eq_true_eq, not_exists, not_and] at hother
          exact hother e he
        obtain ⟨hall, hnodup⟩ := ih h appended
        exact ⟨by simpa [hnew] using hall, by simpa using hnodup⟩

/-- In a list of different numbers the tickets before the one with a number are as many as its place. -/
theorem length_takeWhile_number {ts : List Ticket} (hn : (ts.map (·.number)).Nodup) {j : Nat} {e : Ticket}
    (hj : ts[j]? = some e) : (ts.takeWhile fun a => decide (a.number ≠ e.number)).length = j := by
  induction ts generalizing j with
  | nil => simp at hj
  | cons a ts ih =>
    rw [List.map_cons, List.nodup_cons] at hn
    obtain ⟨hout, hn⟩ := hn
    cases j with
    | zero =>
      simp only [List.getElem?_cons_zero, Option.some.injEq] at hj
      simp [hj]
    | succ j =>
      rw [List.getElem?_cons_succ] at hj
      have hne : a.number ≠ e.number := fun h => hout (h ▸ List.mem_map_of_mem (List.mem_of_getElem? hj))
      rw [List.takeWhile_cons_of_pos (by simpa using hne), List.length_cons, ih hn hj]

section
variable {s : State} {pre ts : List Ticket} {k : Ticket}
  (hnew : ∀ a ∈ pre, tableFind s.ticketMap a.number.toNat = none) (hn : (pre.map (·.number)).Nodup)
include hnew hn

/-- The first number that is loaded already is reported with its handle (R58). -/
theorem findDuplicate_of_loaded {h : TicketHandle} (hk : tableFind s.ticketMap k.number.toNat = some h) :
    findDuplicate s 0 [] (pre ++ k :: ts) = some [.bytes 1 pre.length, .bytes 3 h] := by
  have passed := findDuplicate_append (earlier := []) hnew hn (k :: ts)
  rw [List.length_nil, List.nil_append] at passed
  rw [passed, findDuplicate, hk]

/-- The first number that repeats an earlier element's is reported with that element (R58). -/
theorem findDuplicate_of_repeated {j : Nat} {e : Ticket} (hk : tableFind s.ticketMap k.number.toNat = none)
    (hj : pre[j]? = some e) (he : e.number = k.number) :
    findDuplicate s 0 [] (pre ++ k :: ts) = some [.bytes 1 pre.length, .bytes 1 j] := by
  have passed := findDuplicate_append (earlier := []) hnew hn (k :: ts)
  have found : (pre.any fun a => decide (a.number = k.number)) = true :=
    List.any_eq_true.2 ⟨e, List.mem_of_getElem? hj, by simpa using he⟩
  have place := length_takeWhile_number hn hj
  rw [he] at place
  rw [List.length_nil, List.nil_append] at passed
  rw [passed, findDuplicate, hk]
  simp only [found, if_true, place]

end

/-! ### The tickets loaded -/

/-- The tickets of a chain loaded one after another (R59). -/
def State.loadAll (s : State) (ts : List Ticket) : State := ts.foldl State.loadTicket s

theorem loadAll_cons (s : State) (a : Ticket) (ts : List Ticket) : s.loadAll (a :: ts) = (s.loadTicket a).loadAll ts := rfl

theorem loadAll_rest (s : State) (ts : List Ticket) :
    s.loadAll ts = { s with
      tickets := (s.loadAll ts).tickets, ticketMap := (s.loadAll ts).ticketMap, loaded := s.loaded + ts.length } := by
  induction ts generalizing s with
  | nil => rfl
  | cons a ts ih =>
    rw [loadAll_cons, ih (s.loadTicket a), List.length_cons, State.loadTicket_loaded, Nat.add_right_comm, Nat.add_assoc]
    rfl

/-- The tickets of a chain stand under consecutive handles from the loaded count, and no other ticket changes. -/
theorem ticket?_loadAll (s : State) (ts : List Ticket) (n : Nat) :
    (s.loadAll ts).ticket? n =
      if s.loaded ≤ n ∧ n < s.loaded + ts.length then ts[n - s.loaded]? else s.ticket? n := by
  induction ts generalizing s with
  | nil => rw [if_neg (by simp only [List.length_nil]; omega)]; rfl
  | cons a ts ih =>
    have loaded : (s.loadTicket a).ticket? n = if n = s.loaded then some a else s.ticket? n := by
      rw [State.ticket?, State.loadTicket_tickets]
      split
      · next h => rw [h, tableFind_store_self]
      · next h => exact tableFind_store_of_ne _ _ h
    rw [loadAll_cons, ih, loaded, State.loadTicket_loaded, List.length_cons]
    by_cases hn : n = s.loaded
    · subst hn
      rw [if_neg (by omega), if_pos rfl, if_pos (by omega), Nat.sub_self, List.getElem?_cons_zero]
    · by_cases hin : s.loaded ≤ n ∧ n < s.loaded + (ts.length + 1)
      · rw [if_pos (by omega), if_pos hin, show n - s.loaded = n - (s.loaded + 1) + 1 by omega, List.getElem?_cons_succ]
      · rw [if_neg (by omega), if_neg hn, if_neg hin]

theorem ticketMap_loadTicket (s : State) (a : Ticket) (n : BitVec 64) :
    tableFind (s.loadTicket a).ticketMap n.toNat =
      if n = a.number then some s.loaded else tableFind s.ticketMap n.toNat := by
  rw [State.loadTicket_ticketMap]
  split
  · next h => rw [h, tableFind_store_self]
  · next h => exact tableFind_store_of_ne _ _ (toNat_ne_of_ne h)

/-- The Ticket Map after a chain is loaded: a number that is not the chain's stands where it stood. -/
theorem ticketMap_loadAll_of_other (s : State) {ts : List Ticket} {n : BitVec 64} (h : n ∉ ts.map (·.number)) :
    tableFind (s.loadAll ts).ticketMap n.toNat = tableFind s.ticketMap n.toNat := by
  induction ts generalizing s with
  | nil => rfl
  | cons a ts ih =>
    rw [List.map_cons, List.mem_cons, not_or] at h
    obtain ⟨hne, hout⟩ := h
    rw [loadAll_cons, ih _ hout, ticketMap_loadTicket, if_neg hne]

/-- The Ticket Map after a chain of different numbers is loaded: each of them names its ticket's handle. -/
theorem ticketMap_loadAll (s : State) {ts : List Ticket} (hn : (ts.map (·.number)).Nodup) {i : Nat} {k : Ticket}
    (hi : ts[i]? = some k) : tableFind (s.loadAll ts).ticketMap k.number.toNat = some (s.loaded + i) := by
  induction ts generalizing s i with
  | nil => simp at hi
  | cons a ts ih =>
    rw [List.map_cons, List.nodup_cons] at hn
    obtain ⟨hout, hn⟩ := hn
    rw [loadAll_cons]
    cases i with
    | zero =>
      simp only [List.getElem?_cons_zero, Option.some.injEq] at hi
      subst hi
      rw [ticketMap_loadAll_of_other _ hout, ticketMap_loadTicket, if_pos rfl, Nat.add_zero]
    | succ i =>
      rw [List.getElem?_cons_succ] at hi
      rw [ih _ hn hi, State.loadTicket_loaded, Nat.add_right_comm, Nat.add_assoc]

/-! ### The replies -/

section
variable {s : State} {cmd : Cmd}

theorem loadTicketsReply_of_bad {i : Nat} (hr : readTickets cmd 0 cmd.elements.length = .error i) :
    loadTicketsReply cmd s = refuse .badOperand [.bytes 1 i] s := by
  simp only [loadTicketsReply, hr]

variable {ts : List Ticket} (hr : readTickets cmd 0 cmd.elements.length = .ok ts)
include hr

theorem loadTicketsReply_of_duplicate {items : List Item} (hd : findDuplicate s 0 [] ts = some items) :
    loadTicketsReply cmd s = refuse .duplicate items s := by
  simp only [loadTicketsReply, hr, hd]

theorem loadTicketsReply_of_full (hd : findDuplicate s 0 [] ts = none) (hfull : 98304 < s.loaded + ts.length) :
    loadTicketsReply cmd s = refuse .tableFull [.bytes 1 (98304 - s.loaded), .bytes 3 (98304 - s.loaded)] s := by
  simp only [loadTicketsReply, hr, hd, if_pos hfull]

theorem loadTicketsReply_of_room (hd : findDuplicate s 0 [] ts = none) (hroom : s.loaded + ts.length ≤ 98304) :
    loadTicketsReply cmd s = ⟨.ok, [.bytes 3 s.loaded, .bytes 1 ts.length], s.loadAll ts⟩ := by
  simp only [loadTicketsReply, hr, hd, if_neg (Nat.not_lt.2 hroom), State.loadAll]

end

end Sys2Proof.Machine

open Sys2Proof Sys2Proof.Machine

/-- Settles O34: the reading of the chain, the check of its numbers and the room for it, in this order. -/
theorem loadTicketsLoadsTheChain : Obligations.LoadTicketsLoadsTheChain := by
  intro s p cmd hpass refused n bad number repeats
  have replied : ∀ {r}, loadTicketsReply cmd s = r → exec (.loadTickets p) s = .next (finishCommand p cmd r) := fun hr =>
    (exec_rowOf_of_passes hpass 0).trans (by rw [bodyOf, hr])
  refine ⟨fun i hi hbad hfirst => replied (loadTicketsReply_of_bad (readTickets_of_bad cmd hi hbad hfirst)),
    fun hgood i hi hfirst => ?_, fun ts hlen hfields hn hnew => ?_⟩
  · obtain ⟨ts, hr, hlen, hts⟩ := readTickets_of_good cmd hgood
    have hi : i < ts.length := by omega
    have numbered : ∀ j (hj : j < ts.length), ts[j].number = number j := fun j hj =>
      (asTicket_new cmd ((hts j (by omega)).trans (List.getElem?_eq_getElem hj))).1
    have parts : ts = ts.take i ++ ts[i] :: ts.drop (i + 1) := by simp
    have before : (ts.take i).length = i := by simp; omega
    have hpre : ∀ a ∈ ts.take i, tableFind s.ticketMap a.number.toNat = none := by
      intro a ha
      obtain ⟨j, hj, rfl⟩ := List.mem_iff_getElem.1 ha
      rw [List.getElem_take, numbered]
      exact not_not.1 fun h => hfirst j (by omega) (.inl h)
    have hnodup : ((ts.take i).map (·.number)).Nodup := by
      rw [List.Nodup, List.pairwise_iff_getElem]
      intro a b ha hb hab
      rw [List.length_map] at ha hb
      rw [List.getElem_map, List.getElem_map, List.getElem_take, List.getElem_take, numbered, numbered]
      exact fun h => hfirst b (by omega) (.inr ⟨a, hab, h⟩)
    rw [parts] at hr
    refine ⟨fun h hh => replied (loadTicketsReply_of_duplicate hr ?_), fun j hj hh hsame =>
      replied (loadTicketsReply_of_duplicate hr ?_)⟩
    · rw [findDuplicate_of_loaded hpre hnodup (by rwa [numbered]), before]
    · have hj' : (ts.take i)[j]? = some ts[j] := by
        rw [List.getElem?_take_of_lt hj, List.getElem?_eq_getElem]
      rw [findDuplicate_of_repeated hpre hnodup (by rwa [numbered]) hj' (by rw [numbered, numbered, hsame]), before]
  · have hr : readTickets cmd 0 cmd.elements.length = .ok ts := by
      refine readTickets_of_fields cmd hlen fun i k hi => ?_
      obtain ⟨hentry, hadm, hstation, hre, hlow, hhigh, hseat, hrest⟩ := hfields i k hi
      exact asTicket_of_fields cmd hentry hadm hstation hre hlow hhigh hseat hrest
    have hd := findDuplicate_of_new hnew hn
    refine ⟨fun hroom => ⟨s.loadAll ts, replied (loadTicketsReply_of_room hr hd hroom), loadAll_rest s ts,
      fun i k hi => ⟨?_, ticketMap_loadAll s hn hi⟩, fun m hm => ?_, fun m hm => ticketMap_loadAll_of_other s hm⟩,
      fun hfull => replied (loadTicketsReply_of_full hr hd hfull)⟩
    · have hlt : i < ts.length := (List.getElem?_eq_some_iff.1 hi).1
      rw [ticket?_loadAll, if_pos (by omega), Nat.add_sub_cancel_left, hi]
    · rw [ticket?_loadAll, if_neg (by omega)]
end

section
namespace Sys2Proof.Machine

open Sys2Proof

/-! ## The agreement of tickets, bindings and zones under a change -/

/-! ### Bindings -/

/-- The ticket that a handle's station is bound to, if the handle is live and its station bound. -/
def State.ticketOf (s : State) (h : Handle) : Option TicketHandle := (s.station? h).bind (·.ticket)

/-- The station that a ticket is bound to. -/
def State.stationOf (s : State) (t : TicketHandle) : Option Handle := (s.ticket? t).bind (·.station)

theorem ticketOf_eq_some {s : State} {h : Handle} {t : TicketHandle} :
    s.ticketOf h = some t ↔ ∃ st, s.station? h = some st ∧ st.ticket = some t := Option.bind_eq_some_iff

theorem stationOf_eq_some {s : State} {t : TicketHandle} {h : Handle} :
    s.stationOf t = some h ↔ ∃ k, s.ticket? t = some k ∧ k.station = some h := Option.bind_eq_some_iff

theorem ticketOf_of_live {s : State} {h : Handle} {st : Station} (hst : s.station? h = some st) :
    s.ticketOf h = st.ticket := by
  rw [State.ticketOf, hst, Option.bind_some]

theorem stationOf_of_known {s : State} {t : TicketHandle} {k : Ticket} (hk : s.ticket? t = some k) :
    s.stationOf t = k.station := by
  rw [State.stationOf, hk, Option.bind_some]

theorem ticketOf_setStation (s : State) (h g : Handle) (st : Station) :
    (s.setStation h st).ticketOf g = if g = h then st.ticket else s.ticketOf g := by
  split
  · next hg => rw [hg, ticketOf_of_live (station?_setStation_self s h st)]
  · next hg => rw [State.ticketOf, station?_setStation_of_ne s st hg, State.ticketOf]

theorem stationOf_setTicket (s : State) (t n : TicketHandle) (k : Ticket) :
    (s.setTicket t k).stationOf n = if n = t then k.station else s.stationOf n := by
  split
  · next hn => rw [hn, stationOf_of_known (ticket?_setTicket_self s t k)]
  · next hn => rw [State.stationOf, ticket?_setTicket_of_ne s k hn, State.stationOf]

/-- A ticket that may be bound: it is known, and ADMITTED or EXITED (R92). -/
def State.bindable (s : State) (t : TicketHandle) : Prop :=
  ∃ k, s.ticket? t = some k ∧ (k.entry = .admitted ∨ k.entry = .exited)

/-- Bindings are two-sided, and a bound ticket may be bound (R92). -/
theorem bindingsOk_iff (s : State) : s.bindingsOk ↔
    (∀ h t, s.ticketOf h = some t ↔ s.stationOf t = some h) ∧ ∀ t h, s.stationOf t = some h → s.bindable t := by
  simp only [State.bindingsOk, ticketOf_eq_some, stationOf_eq_some, State.bindable]
  constructor
  · rintro ⟨hstations, htickets⟩
    refine ⟨fun h t => ⟨fun ⟨st, hst, ht⟩ => hstations h st t hst ht, fun ⟨k, hk, hh⟩ => (htickets t k h hk hh).2⟩, ?_⟩
    rintro t h ⟨k, hk, hh⟩
    exact ⟨k, hk, (htickets t k h hk hh).1⟩
  · rintro ⟨hboth, hbindable⟩
    refine ⟨fun h st t hst ht => (hboth h t).1 ⟨st, hst, ht⟩, fun t k h hk hh => ⟨?_, (hboth h t).2 ⟨k, hk, hh⟩⟩⟩
    obtain ⟨k', hk', hentry⟩ := hbindable t h ⟨k, hk, hh⟩
    cases hk.symm.trans hk'
    exact hentry

/-! ### The whole -/

/-- The Ticket Table, the bindings and the occupancies are consistent, and a part in SETUP holds only ISSUED tickets
(R56, R61, R92). -/
def State.gatesAgree (s : State) : Prop :=
  s.ticketTableOk ∧ s.bindingsOk ∧ s.zonesOk ∧ (s.device = .setup → ∀ t k, s.ticket? t = some k → k.entry = .issued)

theorem ticketsOk_iff (s : State) : s.ticketsOk ↔ s.stationsOk ∧ s.gatesAgree := .rfl

/-- What the Ticket Map and the zones need to know of a ticket: its number, its entry state and its entry zone. -/
def Ticket.standing (k : Ticket) : BitVec 64 × EntryState × ZoneId := (k.number, k.entry, entryZone k)

/-- `t` has the Ticket Map, the loaded count and the occupancies of `s`, and its tickets stand where they stand in `s`; a
part in SETUP has been in it before. -/
structure GateFrame (s t : State) : Prop where
  setup : t.device = .setup → s.device = .setup
  standings : tableWf s.tickets = true → tableMap Ticket.standing t.tickets = tableMap Ticket.standing s.tickets
  ticketMap : t.ticketMap = s.ticketMap
  loaded : t.loaded = s.loaded
  zones : tableWfDefault {} s.zones = true → tableWfDefault {} t.zones = true
  occupancies : ∀ z, (t.zone z).occupancy = (s.zone z).occupancy

/-- `t` has the tickets of `s` besides, and every handle has the bound ticket that it has in `s`. -/
structure TicketsFrame (s t : State) : Prop extends GateFrame s t where
  tickets : t.tickets = s.tickets
  bound : ∀ h, t.ticketOf h = s.ticketOf h

/-- A change of a ticket that leaves it where it stands. -/
theorem GateFrame.setTicket {s : State} {t : TicketHandle} {k k' : Ticket} (hk : s.ticket? t = some k)
    (hk' : k'.standing = k.standing) : GateFrame s (s.setTicket t k') :=
  ⟨id, fun hw => tableMap_store hw hk hk', rfl, rfl, id, fun _ => rfl⟩

/-- A change beside the tickets, the zones and the stations. -/
theorem TicketsFrame.beside {s t : State} (hd : t.device = .setup → s.device = .setup) (hst : t.stations = s.stations)
    (ht : t.tickets = s.tickets) (hm : t.ticketMap = s.ticketMap) (hl : t.loaded = s.loaded) (hz : t.zones = s.zones) :
    TicketsFrame s t where
  setup := hd
  standings _ := by rw [ht]
  ticketMap := hm
  loaded := hl
  zones := by rw [hz]; exact id
  occupancies z := by rw [State.zone, hz, State.zone]
  tickets := ht
  bound h := by rw [State.ticketOf, State.station?, hst, State.ticketOf, State.station?]

theorem TicketsFrame.refl (s : State) : TicketsFrame s s := .beside id rfl rfl rfl rfl rfl

theorem GateFrame.wf {s t : State} (f : GateFrame s t) (hw : tableWf s.tickets = true) : tableWf t.tickets = true := by
  rwa [← tableWf_map Ticket.standing, f.standings hw, tableWf_map]

theorem GateFrame.trans {s t u : State} (f : GateFrame s t) (f' : GateFrame t u) : GateFrame s u where
  setup h := f.setup (f'.setup h)
  standings hw := (f'.standings (f.wf hw)).trans (f.standings hw)
  ticketMap := f'.ticketMap.trans f.ticketMap
  loaded := f'.loaded.trans f.loaded
  zones h := f'.zones (f.zones h)
  occupancies z := (f'.occupancies z).trans (f.occupancies z)

theorem TicketsFrame.trans {s t u : State} (f : TicketsFrame s t) (f' : TicketsFrame t u) : TicketsFrame s u :=
  ⟨f.toGateFrame.trans f'.toGateFrame, f'.tickets.trans f.tickets, fun h => (f'.bound h).trans (f.bound h)⟩

theorem TicketsFrame.foldl {α : Type} {act : State → α → State} (h : ∀ s a, TicketsFrame s (act s a)) (l : List α)
    (s : State) : TicketsFrame s (l.foldl act s) := by
  induction l generalizing s with
  | nil => exact .refl s
  | cons a l ih => exact (h s a).trans (ih _)

section
variable {s t : State}

/-- A ticket found in either of two tables of the same standings is found in the other. -/
theorem GateFrame.standing (f : GateFrame s t) (hw : tableWf s.tickets = true) (n : TicketHandle) :
    (t.ticket? n).map Ticket.standing = (s.ticket? n).map Ticket.standing := by
  simp only [State.ticket?, ← tableFind_map, f.standings hw]

theorem GateFrame.ticket? (f : GateFrame s t) (hw : tableWf s.tickets = true) {n : TicketHandle} {k : Ticket}
    (hk : t.ticket? n = some k) : ∃ k', s.ticket? n = some k' ∧ k'.standing = k.standing := by
  have := f.standing hw n
  rw [hk] at this
  exact Option.map_eq_some_iff.1 this.symm

/-- Tickets of the same numbers under the same map and count agree with them. -/
theorem ticketTableOk_congr (hw : tableWf t.tickets = true)
    (hn : ∀ n, (t.ticket? n).map Ticket.number = (s.ticket? n).map Ticket.number) (hm : t.ticketMap = s.ticketMap)
    (hl : t.loaded = s.loaded) (h : s.ticketTableOk) : t.ticketTableOk := by
  obtain ⟨_, hmap, hlimit, hlive, hnumber⟩ := h
  refine ⟨hw, by rwa [hm], by rwa [hl], fun n => ?_, fun a n => ?_⟩
  · rw [hl, ← hlive, ← Option.isSome_map (f := Ticket.number), hn, Option.isSome_map]
  · rw [hm, hnumber, ← Option.map_eq_some_iff, ← hn, Option.map_eq_some_iff]

theorem GateFrame.ticketTableOk (f : GateFrame s t) (h : s.ticketTableOk) : t.ticketTableOk := by
  have hw : tableWf s.tickets = true := h.1
  refine ticketTableOk_congr (f.wf hw) (fun n => ?_) f.ticketMap f.loaded h
  have := congrArg (Option.map Prod.fst) (f.standing hw n)
  rwa [Option.map_map, Option.map_map] at this

theorem GateFrame.zonesOk (f : GateFrame s t) (hw : tableWf s.tickets = true) (h : s.zonesOk) : t.zonesOk := by
  obtain ⟨hzones, hcount⟩ := h
  refine ⟨f.zones hzones, fun z => ?_⟩
  have counted := congrArg
    (List.countP fun e : Nat × (BitVec 64 × EntryState × ZoneId) => decide (e.2.2.1 = .admitted) && decide (e.2.2.2 = z))
    (f.standings hw)
  rw [countP_map Ticket.standing _ fun v => decide (v.2.1 = .admitted) && decide (v.2.2 = z),
    countP_map Ticket.standing _ fun v => decide (v.2.1 = .admitted) && decide (v.2.2 = z)] at counted
  rw [f.occupancies, hcount]
  exact counted.symm

/-- Tickets that stand where they stood agree again where their bindings do. -/
theorem GateFrame.gatesAgree (f : GateFrame s t) (h : s.gatesAgree) (hb : t.bindingsOk) : t.gatesAgree := by
  obtain ⟨htable, _, hzones, hsetup⟩ := h
  have hw : tableWf s.tickets = true := htable.1
  refine ⟨f.ticketTableOk htable, hb, f.zonesOk hw hzones, fun hd n k hk => ?_⟩
  obtain ⟨k', hk', hstanding⟩ := f.ticket? hw hk
  simp only [Ticket.standing, Prod.mk.injEq] at hstanding
  obtain ⟨_, hentry, _⟩ := hstanding
  rw [← hentry]
  exact hsetup (f.setup hd) n k' hk'

theorem GateFrame.bindable (f : GateFrame s t) (hw : tableWf s.tickets = true) {n : TicketHandle} (h : s.bindable n) :
    t.bindable n := by
  obtain ⟨k, hk, hentry⟩ := h
  have := f.standing hw n
  rw [hk] at this
  obtain ⟨k', hk', hstanding⟩ := Option.map_eq_some_iff.1 this
  simp only [Ticket.standing, Prod.mk.injEq] at hstanding
  obtain ⟨_, hsame, _⟩ := hstanding
  exact ⟨k', hk', by rwa [hsame]⟩

theorem TicketsFrame.gatesAgree (f : TicketsFrame s t) (h : s.gatesAgree) : t.gatesAgree := by
  have stationOf : ∀ n, t.stationOf n = s.stationOf n := fun n => by
    rw [State.stationOf, State.ticket?, f.tickets, State.stationOf, State.ticket?]
  refine f.toGateFrame.gatesAgree h ((bindingsOk_iff t).2 ?_)
  obtain ⟨htable, hbindings, _⟩ := h
  obtain ⟨hboth, hbindable⟩ := (bindingsOk_iff s).1 hbindings
  exact ⟨fun g n => by rw [f.bound, stationOf, hboth], fun n g hn =>
    f.toGateFrame.bindable htable.1 (hbindable n g (by rwa [← stationOf]))⟩

end

/-- A part with no ticket and empty zones, whose stations are bound to none, agrees. -/
theorem gatesAgree_of_noTickets {s : State} (ht : s.tickets = []) (hm : s.ticketMap = []) (hl : s.loaded = 0)
    (hz : s.zones = []) (hst : s.stations = []) : s.gatesAgree := by
  refine ⟨⟨by rw [ht]; rfl, by rw [hm]; rfl, by rw [hl]; decide, ?_, ?_⟩, ⟨?_, ?_⟩, ⟨by rw [hz]; rfl, ?_⟩, ?_⟩
  · simp [State.ticket?, ht, hl]
  · simp [State.ticket?, ht, hm]
  · simp [State.station?, hst]
  · simp [State.ticket?, ht]
  · simp [State.zone, hz, ht]
  · simp [State.ticket?, ht]

end Sys2Proof.Machine
end

section
namespace Sys2Proof.Machine

open Sys2Proof

/-! ### What leaves tickets, bindings and zones as they were -/

theorem SubscriptionFrame.toTickets {hs : Handle → Prop} {cs : CellId → StreamId → Prop} {s t : State}
    (f : SubscriptionFrame hs cs s t) : TicketsFrame s t :=
  { TicketsFrame.beside (s := { s with stations := t.stations }) (t := t) (fun h => f.device ▸ h) rfl f.tickets f.ticketMap
      f.loaded f.zones with
    bound := fun h => by
      cases hst : s.station? h with
      | none => simp only [State.ticketOf, hst, f.free h hst]
      | some a =>
        obtain ⟨b, hb, hab⟩ := f.own h a hst
        simp only [State.ticketOf, hst, hb, Option.bind_some, hab.ticket] }

theorem TicketsFrame.notify (s : State) (dest : PortUnit → Bool) (n : Notice) (tag : Tag) :
    TicketsFrame s (s.notify dest n tag) := .beside id rfl rfl rfl rfl rfl

theorem TicketsFrame.setRoster (s : State) (c : CellId) (e : RosterEntry) : TicketsFrame s (s.setRoster c e) :=
  .beside id rfl rfl rfl rfl rfl

theorem TicketsFrame.setStream (s : State) (x : StreamId) (v : Stream) : TicketsFrame s (s.setStream x v) :=
  .beside id rfl rfl rfl rfl rfl

theorem TicketsFrame.dropCarriage (s : State) (c : CellId) (x : StreamId) : TicketsFrame s (s.dropCarriage c x) :=
  .beside id rfl rfl rfl rfl rfl

/-- A station given another state, cell, sequence, level or list keeps its bound ticket. -/
theorem TicketsFrame.setStation {s : State} {h : Handle} {a b : Station} (ha : s.station? h = some a)
    (hb : b.ticket = a.ticket) : TicketsFrame s (s.setStation h b) :=
  { TicketsFrame.refl s with
    bound := fun g => by
      rw [ticketOf_setStation]
      split
      · next hg => rw [hg, ticketOf_of_live ha, hb]
      · rfl }

/-- A zone given another state or limit keeps its occupancy. -/
theorem TicketsFrame.setZone {s : State} {z : ZoneId} {v : Zone} (hv : v.occupancy = (s.zone z).occupancy) :
    TicketsFrame s (s.setZone z v) :=
  { TicketsFrame.refl s with
    zones := fun h => tableWfDefault_write h z.val v
    occupancies := fun y => by
      by_cases hy : y = z
      · rw [hy, zone_setZone_self, hv]
      · rw [zone_setZone_of_ne s v hy] }

/-- An evaluation binds no station and unbinds none (R100). -/
theorem TicketsFrame.evaluateWith (s : State) (h : Handle) (tag : Tag) (joined : Bool) (new : Option StreamId) :
    TicketsFrame s (s.evaluateWith h tag joined new) :=
  (evaluateWith_frame (hs := fun _ => True) (cs := fun _ _ => True) s trivial tag joined new
    fun _ _ _ _ _ => trivial).toTickets

theorem TicketsFrame.evaluate (s : State) (h : Handle) (tag : Tag) : TicketsFrame s (s.evaluate h tag) :=
  .evaluateWith s h tag true none

theorem TicketsFrame.evaluateBound (s : State) (k : Ticket) (tag : Tag) : TicketsFrame s (s.evaluateBound k tag) := by
  unfold State.evaluateBound
  split
  · exact .refl s
  · exact .evaluate s _ tag

theorem TicketsFrame.leave (s : State) (c : CellId) (x : StreamId) (l : Level) (tag : Tag) :
    TicketsFrame s (s.leave c x l tag) :=
  (leave_frame (hs := fun _ => False) (cs := fun _ _ => True) s trivial l tag).toTickets

theorem TicketsFrame.leaveOld (s : State) (old : CellId) (l : Level) (tag : Tag) (subs : List Subscription) :
    TicketsFrame s (s.leaveOld old l tag subs) :=
  (leaveOld_frame (hs := fun _ => False) (cs := fun _ _ => True) s l tag fun _ _ => trivial).toTickets

theorem TicketsFrame.removeSub (s : State) (h : Handle) (x : StreamId) : TicketsFrame s (s.removeSub h x) := by
  cases hst : s.station? h with
  | none => simpa only [State.removeSub, hst] using TicketsFrame.refl s
  | some st =>
    rw [removeSub_eq hst]
    refine TicketsFrame.trans (.setStation hst ?_) (.setStream _ x _)
    rfl

theorem TicketsFrame.removeAllSubs (s : State) (h : Handle) (tag : Tag) (subs : List Subscription) :
    TicketsFrame s (s.removeAllSubs h tag subs) :=
  .foldl (fun s (e : Subscription) => (TicketsFrame.removeSub s h e.stream).trans (.notify _ _ _ _)) subs s

theorem TicketsFrame.leaveAndRemove (s : State) (h : Handle) (x : StreamId) (tag : Tag) :
    TicketsFrame s (s.leaveAndRemove h x tag) := by
  unfold State.leaveAndRemove
  split
  · exact .refl s
  · split
    · exact .refl s
    · dsimp only
      refine TicketsFrame.trans ?_ (.removeSub _ h x)
      split
      · exact .leave s _ x _ tag
      · exact .refl s

/-! ### The acts of a boundary -/

theorem TicketsFrame.completeHandover (s : State) (h : Handle) (by_ : Completion) :
    TicketsFrame s (s.completeHandover h by_) := by
  unfold State.completeHandover
  split
  · exact .refl s
  · next st hst =>
    split
    · exact .refl s
    · exact .refl s
    · next claimant _ tag _ =>
      have moved : TicketsFrame s (s.moveStation h st claimant) := by
        refine ((TicketsFrame.setStation hst ?_).trans (.setRoster _ _ _)).trans
          ((TicketsFrame.setRoster _ _ _).trans (.setRoster _ _ _))
        rfl
      exact ((moved.trans (.leaveOld _ _ _ _ _)).trans (.evaluateWith _ h tag false none)).trans (.notify _ _ _ _)

theorem TicketsFrame.abandonClaim (s : State) (h : Handle) (lapsed : Bool) : TicketsFrame s (s.abandonClaim h lapsed) := by
  unfold State.abandonClaim
  split
  · exact .refl s
  · next st hst =>
    split
    · exact .refl s
    · exact .refl s
    · refine ((TicketsFrame.setStation hst ?_).trans (.setRoster _ _ _)).trans (.notify _ _ _ _)
      rfl

theorem TicketsFrame.expireClaim (s : State) (h : Handle) : TicketsFrame s (s.expireClaim h) := by
  rcases expireClaim_cases s h with he | ⟨st, claimant, deadline, tag, _, _, he⟩
  · rw [he]
    exact .refl s
  · rw [he]
    split
    · exact .abandonClaim s h true
    · exact .completeHandover s h .deadline

theorem TicketsFrame.completeDrain (s : State) (x : StreamId) : TicketsFrame s (s.completeDrain x) := by
  rcases completeDrain_cases s x with he | ⟨info, tag, f, _, he⟩
  · rw [he]
    exact .refl s
  · rw [he]
    have removed := TicketsFrame.foldl (fun s h => .removeSub s h x) (s.holders x) s
    exact ((removed.trans (.foldl (fun s c => .dropCarriage s c x) _ _)).trans (.setStream _ x _)).trans (.notify _ _ _ _)

theorem TicketsFrame.actSurgeEnd (s : State) : TicketsFrame s s.actSurgeEnd := by
  unfold State.actSurgeEnd
  split
  · exact .refl s
  · split
    · exact .beside id rfl rfl rfl rfl rfl
    · exact .refl s

/-! ### The commands that leave tickets, bindings and zones as they were -/

theorem EngineFrame.toTickets {cells : CellId → Prop} {s t : State} (f : EngineFrame cells s t) : TicketsFrame s t := by
  obtain ⟨⟨ca, pl, se, pa, st, po, rfl⟩, _⟩ := f
  exact .beside id rfl rfl rfl rfl rfl

theorem BusFrame.toTickets {s t : State} (f : BusFrame s t) : TicketsFrame s t := by
  obtain ⟨⟨po, ar, an, rfl⟩, _⟩ := f
  exact .beside id rfl rfl rfl rfl rfl

theorem TicketsFrame.momentPulse (s : State) (now : Instant) : TicketsFrame s (s.momentPulse now) := by
  unfold State.momentPulse
  split
  · exact .refl s
  · exact .refl s
  · next value mask _ =>
    dsimp only
    refine TicketsFrame.trans ?_ (.notify _ _ _ _)
    unfold State.openSurge
    split
    · exact .beside id rfl rfl rfl rfl rfl
    · exact .beside id rfl rfl rfl rfl rfl

theorem declarePortReply_tickets (p : PortId) (cmd : Cmd) (s : State) :
    TicketsFrame s (declarePortReply p cmd s).state := by
  have declared : ∀ r, TicketsFrame s (s.declare p r) := fun r => .beside id rfl rfl rfl rfl rfl
  unfold declarePortReply
  split
  · exact declared _
  · unfold declareCell
    split
    · split
      · exact .refl s
      · split
        · exact .refl s
        · exact declared _
    · exact .refl s
    · exact .refl s
  · exact declared _
  · exact declared _
  · exact .refl s

theorem setVenueReply_tickets (cmd : Cmd) (s : State) : TicketsFrame s (setVenueReply cmd s).state := by
  unfold setVenueReply
  split
  · exact .refl s
  · split
    · exact .refl s
    · split
      · exact .refl s
      · exact .beside id rfl rfl rfl rfl rfl

theorem openMatchReply_tickets (now : Instant) (cmd : Cmd) (s : State) :
    TicketsFrame s (openMatchReply now cmd s).state := by
  unfold openMatchReply
  split
  · exact .refl s
  · refine TicketsFrame.trans (TicketsFrame.trans ?_ (EngineFrame.startBuild (cells := fun _ => False) _ _ _).toTickets)
      (.notify _ _ _ _)
    exact .beside (by simp) rfl rfl rfl rfl rfl

theorem detachReply_tickets (p : PortId) (cmd : Cmd) (s : State) : TicketsFrame s (detachReply p cmd s).state := by
  unfold detachReply
  split
  · exact .refl s
  · next st hst =>
    split
    · exact .refl s
    · split
      · exact .refl s
      · split
        · exact .refl s
        · split
          · exact .refl s
          · refine ((TicketsFrame.setStation (station?_of_asStation hst) ?_).trans (.setRoster _ _ _)).trans
              (.evaluate _ _ cmd.tag)
            rfl
          · exact .completeHandover s _ .detach

theorem reportLevelReply_tickets (p : PortId) (cmd : Cmd) (s : State) :
    TicketsFrame s (reportLevelReply p cmd s).state := by
  unfold reportLevelReply
  split
  · exact .refl s
  · next st hst =>
    split
    · exact .refl s
    · dsimp only
      split
      · exact .refl s
      · refine TicketsFrame.trans (.setStation (station?_of_asStation hst) ?_) (replaceLevel_frame s _ st _ _).toTickets
        rfl

theorem claimReply_tickets (p : PortId) (cmd : Cmd) (s : State) : TicketsFrame s (claimReply p cmd s).state := by
  unfold claimReply
  split
  · exact .refl s
  · split
    · exact .refl s
    · split
      · exact .refl s
      · next st hst =>
        unfold claimStation
        split
        · exact .refl s
        · split
          · exact .refl s
          · split
            · exact .refl s
            · split
              · exact .refl s
              · exact .refl s
            · split
              · refine ((TicketsFrame.setStation (station?_of_asStation hst) ?_).trans (.setRoster _ _ _)).trans
                  (.notify _ _ _ _)
                rfl
              · exact .refl s

theorem releaseReply_tickets (p : PortId) (cmd : Cmd) (s : State) : TicketsFrame s (releaseReply p cmd s).state := by
  unfold releaseReply
  split
  · exact .refl s
  · split
    · exact .refl s
    · split
      · exact .refl s
      · split
        · exact .refl s
        · split
          · exact .refl s
          · exact .refl s
          · exact .completeHandover s _ .release

theorem withdrawReply_tickets (p : PortId) (cmd : Cmd) (s : State) : TicketsFrame s (withdrawReply p cmd s).state := by
  unfold withdrawReply
  split
  · exact .refl s
  · split
    · exact .refl s
    · split
      · exact .refl s
      · exact .refl s
      · split
        · exact .refl s
        · exact .abandonClaim s _ false

theorem setSectorPolicyReply_tickets (p : PortId) (cmd : Cmd) (s : State) :
    TicketsFrame s (setSectorPolicyReply p cmd s).state := by
  unfold setSectorPolicyReply
  split
  · split
    · exact .refl s
    · exact .foldl (act := fun s sec => s.setSector sec { s.sector sec with reservation := _, priority := _ })
        (fun _ _ => .beside id rfl rfl rfl rfl rfl) _ s
  · exact .refl s
  · exact .refl s
  · exact .refl s

theorem setZoneReply_tickets (cmd : Cmd) (s : State) : TicketsFrame s (setZoneReply cmd s).state := by
  unfold setZoneReply
  split
  · split
    · exact .refl s
    · exact .setZone rfl
  · exact .refl s
  · exact .refl s

theorem openStreamReply_tickets (p : PortId) (cmd : Cmd) (s : State) :
    TicketsFrame s (openStreamReply p cmd s).state := by
  unfold openStreamReply
  split
  · split
    · exact .setStream s _ _
    · exact .refl s
    · exact .refl s
  · exact .refl s
  · exact .refl s
  · exact .refl s

theorem TicketsFrame.adjustCarriages (s : State) (x : StreamId) (tag : Tag) :
    TicketsFrame s (s.adjustCarriages x tag).state := by
  have one : ∀ (r : RateChange) (c : CellId), SubscriptionFrame (fun _ => False) (fun _ _ => True) r.state
      (adjustCarriage x tag r c).state := by
    intro r c
    unfold adjustCarriage
    split
    · exact .refl _
    · exact (SubscriptionFrame.setCarriage r.state trivial _).trans (evalMode_frame _ trivial tag)
  have all : ∀ (cs : List CellId) (r : RateChange), TicketsFrame r.state (cs.foldl (adjustCarriage x tag) r).state := by
    intro cs
    induction cs with
    | nil => exact fun r => .refl _
    | cons c cs ih => exact fun r => (one r c).toTickets.trans (ih _)
  exact all (s.cellsWith x) ⟨s, 0, 0⟩

theorem setStreamRateReply_tickets (cmd : Cmd) (s : State) : TicketsFrame s (setStreamRateReply cmd s).state := by
  unfold setStreamRateReply
  split
  · exact .refl s
  · split
    · exact .refl s
    · exact .refl s
    · exact (TicketsFrame.setStream s _ _).trans (.adjustCarriages _ _ cmd.tag)

theorem closeStreamReply_tickets (cmd : Cmd) (s : State) : TicketsFrame s (closeStreamReply cmd s).state := by
  unfold closeStreamReply
  split
  · exact .refl s
  · split
    · exact .refl s
    · exact .refl s
    · exact .setStream s _ _

theorem subscribeReply_tickets (cmd : Cmd) (s : State) : TicketsFrame s (subscribeReply cmd s).state := by
  unfold subscribeReply
  split
  · exact .refl s
  · next x _ =>
    split
    · exact .refl s
    · next st hst =>
      split
      · exact .refl s
      · exact .refl s
      · unfold subscribeStation
        split
        · exact .refl s
        · split
          · exact .refl s
          · refine ((TicketsFrame.setStation (station?_of_asStation hst) ?_).trans (.setStream _ x _)).trans
              (.evaluateWith _ _ cmd.tag true (some x))
            rfl

theorem unsubscribeReply_tickets (cmd : Cmd) (s : State) : TicketsFrame s (unsubscribeReply cmd s).state := by
  unfold unsubscribeReply
  split
  · exact .refl s
  · split
    · exact .refl s
    · split
      · exact .refl s
      · exact .leaveAndRemove s _ _ cmd.tag

theorem armMomentReply_tickets (cmd : Cmd) (s : State) : TicketsFrame s (armMomentReply cmd s).state := by
  unfold armMomentReply
  split
  · exact .beside id rfl rfl rfl rfl rfl
  · exact .refl s
  · exact .refl s

end Sys2Proof.Machine
end

section
namespace Sys2Proof.Machine

open Sys2Proof

/-! ### Bindings made and cleared (R92) -/

/-- A binding cleared on both sides (R92). -/
theorem clearBinding_eq {s : State} {h : Handle} {st : Station} {t : TicketHandle} {k : Ticket}
    (hst : s.station? h = some st) (hk : s.ticket? t = some k) (cause : UnbindCause) (tag : Tag) :
    s.clearBinding h t cause tag = ((s.setStation h { st with ticket := none }).setTicket t
      { k with station := none }).notify isGatePort (.bindingCleared t h cause) tag := by
  have hk' : (s.setStation h { st with ticket := none }).ticket? t = some k := hk
  simp only [State.clearBinding, hst, hk']

/-- A binding made on both sides (R94). -/
theorem makeBinding_eq {s : State} {h : Handle} {st : Station} {t : TicketHandle} {k : Ticket}
    (hst : s.station? h = some st) (hk : s.ticket? t = some k) (tag : Tag) :
    s.makeBinding h t tag = ((s.setStation h { st with ticket := some t }).setTicket t
      { k with station := some h }).evaluate h tag := by
  have hk' : (s.setStation h { st with ticket := some t }).ticket? t = some k := hk
  simp only [State.makeBinding, hst, hk']

theorem GateFrame.setStation (s : State) (h : Handle) (st : Station) : GateFrame s (s.setStation h st) :=
  { (TicketsFrame.refl s).toGateFrame with }

section
variable {s : State} {h : Handle} {st : Station} {t : TicketHandle} {k : Ticket}

/-- The two sides of a binding written: no ticket moves. -/
theorem GateFrame.bindingSides (hk : s.ticket? t = some k) (n : Option Handle) :
    GateFrame s ((s.setStation h st).setTicket t { k with station := n }) := by
  refine (GateFrame.setStation s h st).trans (.setTicket hk ?_)
  rfl

/-- A binding cleared leaves the tickets, the other bindings and the zones consistent (R92). -/
theorem gatesAgree_clearBinding (hs : s.gatesAgree) (hk : s.ticket? t = some k) (hh : k.station = some h)
    (cause : UnbindCause) (tag : Tag) : (s.clearBinding h t cause tag).gatesAgree := by
  obtain ⟨hboth, hbindable⟩ := (bindingsOk_iff s).1 hs.2.1
  have bound := (hboth h t).2 ((stationOf_of_known hk).trans hh)
  obtain ⟨st, hst, _⟩ := ticketOf_eq_some.1 bound
  rw [clearBinding_eq hst hk]
  refine (TicketsFrame.notify _ _ _ _).gatesAgree ?_
  have sides := GateFrame.bindingSides (h := h) (st := { st with ticket := none }) hk none
  have stationOf : ∀ n g, ((s.setStation h { st with ticket := none }).setTicket t { k with station := none }).stationOf n =
      some g ↔ n ≠ t ∧ s.stationOf n = some g := fun n g => by
    rw [stationOf_setTicket]
    by_cases hn : n = t
    · simp [hn]
    · simp only [hn, if_false, ne_eq, not_false_eq_true, true_and]
      rfl
  refine sides.gatesAgree hs ((bindingsOk_iff _).2 ⟨fun g n => ?_, fun n g hn =>
    sides.bindable hs.1.1 (hbindable n g ((stationOf n g).1 hn).2)⟩)
  have ticketOf : ((s.setStation h { st with ticket := none }).setTicket t { k with station := none }).ticketOf g =
      if g = h then none else s.ticketOf g := ticketOf_setStation s h g _
  rw [stationOf, ← hboth, ticketOf]
  by_cases hg : g = h
  · subst hg
    simp only [if_true, reduceCtorEq, false_iff, not_and]
    intro hn hsome
    exact hn (Option.some.inj (hsome.symm.trans bound))
  · rw [if_neg hg]
    refine ⟨fun hsome => ⟨fun hn => hg ?_, hsome⟩, And.right⟩
    rw [hn, hboth, stationOf_of_known hk, hh] at hsome
    exact (Option.some.inj hsome).symm

/-- A binding of an unbound station and an unbound ADMITTED ticket leaves the rest consistent (R93, R94). -/
theorem gatesAgree_makeBinding (hs : s.gatesAgree) (hst : s.station? h = some st) (hfree : st.ticket = none)
    (hk : s.ticket? t = some k) (hunbound : k.station = none) (hentry : k.entry = .admitted) (tag : Tag) :
    (s.makeBinding h t tag).gatesAgree := by
  obtain ⟨hboth, hbindable⟩ := (bindingsOk_iff s).1 hs.2.1
  have noTicket : s.ticketOf h = none := (ticketOf_of_live hst).trans hfree
  have noStation : s.stationOf t = none := (stationOf_of_known hk).trans hunbound
  rw [makeBinding_eq hst hk]
  refine (TicketsFrame.evaluate _ h tag).gatesAgree ?_
  have sides := GateFrame.bindingSides (h := h) (st := { st with ticket := some t }) hk (some h)
  have stationOf : ∀ n, ((s.setStation h { st with ticket := some t }).setTicket t { k with station := some h }).stationOf n =
      if n = t then some h else s.stationOf n := (stationOf_setTicket _ t · _)
  have ticketOf : ∀ g, ((s.setStation h { st with ticket := some t }).setTicket t { k with station := some h }).ticketOf g =
      if g = h then some t else s.ticketOf g := (ticketOf_setStation s h · _)
  refine sides.gatesAgree hs ((bindingsOk_iff _).2 ⟨fun g n => ?_, fun n g hn => sides.bindable hs.1.1 ?_⟩)
  · rw [stationOf, ticketOf]
    by_cases hg : g = h
    · subst hg
      by_cases hn : n = t
      · simp [hn]
      · simp only [if_true, Option.some.injEq, Ne.symm hn, hn, if_false, ← hboth, noTicket, reduceCtorEq]
    · by_cases hn : n = t
      · simp only [hn, hg, Ne.symm hg, if_true, if_false, Option.some.injEq, hboth, noStation, reduceCtorEq]
      · simp only [hg, hn, if_false, hboth]
  · rw [stationOf] at hn
    split at hn
    · next hnt => exact ⟨k, by rw [hnt, hk], .inl hentry⟩
    · exact hbindable n g hn

/-- A binding moved from another station leaves the rest consistent (R95). -/
theorem gatesAgree_moveBinding (hs : s.gatesAgree) (hst : s.station? h = some st) (hfree : st.ticket = none)
    (hk : s.ticket? t = some k) {earlier : Handle} (hearlier : k.station = some earlier) (hne : h ≠ earlier)
    (hentry : k.entry = .admitted) (tag : Tag) : (s.moveBinding earlier h t tag).gatesAgree := by
  have cleared := gatesAgree_clearBinding hs hk hearlier .move tag
  have hk' : (s.clearBinding earlier t .move tag).ticket? t = some { k with station := none } := by
    rw [ticket?_clearBinding, if_pos rfl, hk, Option.map_some]
  have hst' := (station?_clearBinding_of_ne s earlier t .move tag hne).trans hst
  have evaluated := evaluate_frame (hs := (· = earlier)) (cs := fun _ _ => True) (s.clearBinding earlier t .move tag) rfl tag
    fun _ _ _ _ _ => trivial
  obtain ⟨st', hst'', frame⟩ := evaluated.own h st hst'
  have hk'' : ((s.clearBinding earlier t .move tag).evaluate earlier tag).ticket? t = some { k with station := none } := by
    rwa [State.ticket?, evaluated.tickets]
  exact gatesAgree_makeBinding (evaluated.toTickets.gatesAgree cleared) hst'' (frame.ticket.trans hfree) hk'' rfl hentry tag

end

/-! ### Stations that come and go -/

/-- A record under a free handle is bound to no ticket (R24). -/
theorem TicketsFrame.createStation {s : State} {h : Handle} (hnone : s.station? h = none) (rest : HandleStack)
    (a : BitVec 48) (c : CellId) (l : Level) : TicketsFrame s (s.createStation h rest a c l) :=
  { TicketsFrame.beside (s := { s with stations := (s.createStation h rest a c l).stations })
      (t := s.createStation h rest a c l) id rfl rfl rfl rfl rfl with
    bound := fun g => by
      refine (ticketOf_setStation s h g _).trans ?_
      split
      · next hg => rw [hg, State.ticketOf, hnone, Option.bind_none]
      · rfl }

/-- A freed record that is bound to no ticket leaves the bindings (R30). -/
theorem TicketsFrame.freeStation {s : State} {h : Handle} (hnone : s.ticketOf h = none) (a : BitVec 48) :
    TicketsFrame s (s.freeStation h a) :=
  { TicketsFrame.beside (s := { s with stations := (s.freeStation h a).stations }) (t := s.freeStation h a) id rfl rfl rfl
      rfl rfl with
    bound := fun g => by
      by_cases hg : g = h
      · rw [hg, hnone, State.ticketOf, State.station?, State.freeStation_stations, tableFind_erase_self, Option.bind_none]
      · rw [State.ticketOf, State.station?, State.freeStation_stations, tableFind_erase_of_ne _ hg]
        rfl }

theorem ticketOf_clearBinding_self (s : State) (h : Handle) (t : TicketHandle) (cause : UnbindCause) (tag : Tag) :
    (s.clearBinding h t cause tag).ticketOf h = none := by
  have cleared : ∀ u : State, u.ticketOf h = none → (match u.ticket? t with
      | none => u
      | some k => u.setTicket t { k with station := none }).ticketOf h = none := fun u hu => by split <;> exact hu
  refine cleared (match s.station? h with
    | none => s
    | some st => s.setStation h { st with ticket := none }) ?_
  split
  · next hnone => rw [State.ticketOf, hnone, Option.bind_none]
  · rw [ticketOf_setStation, if_pos rfl]

theorem gatesAgree_expireLinger (s : State) (g : Handle) (h : s.gatesAgree) : (s.expireLinger g).gatesAgree := by
  cases hst : s.station? g with
  | none => simpa only [State.expireLinger, hst] using h
  | some st =>
    cases hs : st.state with
    | associated => simpa only [State.expireLinger, hst, hs] using h
    | inHandover c deadline tag => simpa only [State.expireLinger, hst, hs] using h
    | lingering deadline tag =>
      rw [expireLinger_eq hst hs]
      refine (TicketsFrame.notify _ _ _ _).gatesAgree ?_
      have listed := TicketsFrame.removeAllSubs s g tag st.subs
      cases ht : st.ticket with
      | none =>
        rw [emptyRecord_of_unbound ht]
        exact (listed.trans (.freeStation (by rw [listed.bound, ticketOf_of_live hst, ht]) _)).gatesAgree h
      | some n =>
        obtain ⟨hboth, _⟩ := (bindingsOk_iff s).1 h.2.1
        obtain ⟨k, hk, hkg⟩ := stationOf_eq_some.1 ((hboth g n).1 ((ticketOf_of_live hst).trans ht))
        have hk' : (s.removeAllSubs g tag st.subs).ticket? n = some k := by rwa [State.ticket?, listed.tickets]
        rw [emptyRecord_of_bound ht]
        exact (TicketsFrame.freeStation (ticketOf_clearBinding_self _ g n _ tag) _).gatesAgree
          (gatesAgree_clearBinding (listed.gatesAgree h) hk' hkg .expiry tag)

/-! ### A ticket that moves -/

theorem bit_insideZone (z : ZoneId) (k : Ticket) :
    bit (insideZone z k) = if k.entry = .admitted ∧ entryZone k = z then 1 else 0 := by
  by_cases he : k.entry = .admitted <;> by_cases hz : entryZone k = z <;> simp [insideZone, bit, he, hz]

/-- A ticket is counted in the zone it is inside (R61). -/
theorem bit_insideZone_le {s : State} (h : s.gatesAgree) {t : TicketHandle} {k : Ticket} (hk : s.ticket? t = some k)
    (z : ZoneId) : bit (insideZone z k) ≤ (s.zone z).occupancy := by
  obtain ⟨⟨hw, _⟩, _, ⟨_, hcount⟩, _⟩ := h
  have := tally_le_countP hw t (insideZone z)
  rwa [← hcount, show tableFind s.tickets t = some k from hk, tally_some] at this

section
variable {s u : State} {t : TicketHandle} {k k' : Ticket}

/-- One ticket replaced in SERVICE under its number, with its binding kept and the occupancies that go with it. -/
theorem gatesAgree_of_change (h : s.gatesAgree) (hd : s.device = .service) (hk : s.ticket? t = some k)
    (hnumber : k'.number = k.number) (hstation : k'.station = k.station)
    (hentry : ∀ g, k'.station = some g → k'.entry = .admitted ∨ k'.entry = .exited)
    (hu : u = { s.setTicket t k' with zones := u.zones })
    (hw : tableWfDefault {} s.zones = true → tableWfDefault {} u.zones = true)
    (hz : ∀ z, bit (insideZone z k) ≤ (s.zone z).occupancy →
      (u.zone z).occupancy + bit (insideZone z k) = (s.zone z).occupancy + bit (insideZone z k')) : u.gatesAgree := by
  have inside := bit_insideZone_le h hk
  obtain ⟨htable, hbindings, ⟨hzones, hcount⟩, _⟩ := h
  obtain ⟨hboth, hbindable⟩ := (bindingsOk_iff s).1 hbindings
  have ticket : ∀ n, u.ticket? n = if n = t then some k' else s.ticket? n := fun n => by
    rw [hu]
    split
    · next hn => exact hn ▸ ticket?_setTicket_self s t k'
    · next hn => exact ticket?_setTicket_of_ne s k' hn
  have stationOf : ∀ n, u.stationOf n = s.stationOf n := fun n => by
    rw [State.stationOf, ticket]
    split
    · next hn => rw [hn, Option.bind_some, hstation, stationOf_of_known hk]
    · rfl
  have ticketOf : ∀ g, u.ticketOf g = s.ticketOf g := fun g => by rw [hu]; rfl
  refine ⟨ticketTableOk_congr (s := s) ?_ (fun n => ?_) ?_ ?_ htable, (bindingsOk_iff u).2 ⟨fun g n => ?_, fun n g hn => ?_⟩,
    ⟨hw hzones, fun z => ?_⟩, fun hsetup => ?_⟩
  · rw [hu]
    exact tableWf_store htable.1 t k'
  · rw [ticket]
    split
    · next hn => rw [hn, hk, Option.map_some, Option.map_some, hnumber]
    · rfl
  · rw [hu]
    rfl
  · rw [hu]
    rfl
  · rw [ticketOf, stationOf, hboth]
  · obtain ⟨k₁, hk₁, hstation₁⟩ := stationOf_eq_some.1 hn
    rw [ticket] at hk₁
    split at hk₁
    · next hnt =>
      cases hk₁
      exact ⟨k', by rw [ticket, if_pos hnt], hentry g hstation₁⟩
    · next hnt =>
      obtain ⟨k₂, hk₂, hok⟩ := hbindable n g (stationOf n ▸ hn)
      exact ⟨k₂, by rw [ticket, if_neg hnt, hk₂], hok⟩
  · have stored := countP_store htable.1 t k' (insideZone z)
    have change := hz z (inside z)
    rw [show tableFind s.tickets t = some k from hk, tally_some, ← hcount] at stored
    rw [hu] at change ⊢
    exact Nat.add_right_cancel (change.trans stored.symm)
  · rw [hu] at hsetup
    exact absurd (hd.symm.trans hsetup) (by decide)

theorem occupancy_leaveZone (s : State) (z y : ZoneId) :
    ((s.leaveZone z).zone y).occupancy = (s.zone y).occupancy - if z = y then 1 else 0 := by
  rw [State.leaveZone]
  split
  · next h => rw [h, zone_setZone_self]
  · next h => rw [zone_setZone_of_ne s _ (Ne.symm h), Nat.sub_zero]

theorem occupancy_enterZone (s : State) (z y : ZoneId) :
    ((s.enterZone z).zone y).occupancy = (s.zone y).occupancy + if z = y then 1 else 0 := by
  rw [State.enterZone]
  split
  · next h => rw [h, zone_setZone_self]
  · next h => rw [zone_setZone_of_ne s _ (Ne.symm h), Nat.add_zero]

section
variable (h : s.gatesAgree) (hd : s.device = .service) (hk : s.ticket? t = some k)
include h hd hk

/-- An admission counts its ticket in the gate's zone (R65). -/
theorem gatesAgree_admitAt (hentry : k.entry ≠ .admitted) (g : GateId) (tag : Tag) :
    (s.admitAt t k g tag).gatesAgree := by
  refine (TicketsFrame.evaluateBound _ k tag).gatesAgree ?_
  refine gatesAgree_of_change (k' := admittedTicket k g s.clock.frame) h hd hk rfl rfl (fun _ _ => .inl rfl) rfl
    (fun hw => tableWfDefault_write hw _ _) fun z _ => ?_
  have outside : bit (insideZone z k) = 0 := by simp [bit_insideZone, hentry]
  have inside : bit (insideZone z (admittedTicket k g s.clock.frame)) = if zoneOf g = z then 1 else 0 := by
    simp [bit_insideZone, admittedTicket, entryZone]
  rw [outside, inside]
  exact occupancy_enterZone _ _ z

/-- An exit takes its ticket out of its entry zone (R68). -/
theorem gatesAgree_exitFrom (hentry : k.entry = .admitted) (tag : Tag) : (s.exitFrom t k tag).gatesAgree := by
  refine (TicketsFrame.evaluateBound _ k tag).gatesAgree ?_
  refine gatesAgree_of_change (k' := { k with entry := .exited }) h hd hk rfl rfl (fun _ _ => .inr rfl) rfl
    (fun hw => tableWfDefault_write hw _ _) fun z hin => ?_
  rw [bit_insideZone] at hin
  rw [occupancy_leaveZone, bit_insideZone, bit_insideZone]
  simp only [hentry, true_and, reduceCtorEq, false_and, if_false] at hin ⊢
  exact Nat.sub_add_cancel hin

/-- An unbound ticket made VOID leaves its entry zone, if it was inside (R70). -/
theorem gatesAgree_markVoid (hunbound : k.station = none) : (s.markVoid t k).gatesAgree := by
  unfold State.markVoid
  dsimp only
  split
  · next hentry =>
    refine gatesAgree_of_change (k' := { k with entry := .voided }) h hd hk rfl rfl (by simp [hunbound]) rfl
      (fun hw => tableWfDefault_write hw _ _) fun z hin => ?_
    rw [bit_insideZone] at hin
    rw [occupancy_leaveZone, bit_insideZone, bit_insideZone]
    simp only [hentry, true_and, reduceCtorEq, false_and, if_false] at hin ⊢
    exact Nat.sub_add_cancel hin
  · next hentry =>
    refine gatesAgree_of_change (k' := { k with entry := .voided }) h hd hk rfl rfl (by simp [hunbound]) rfl
      id fun z _ => ?_
    rw [bit_insideZone, bit_insideZone]
    simp only [hentry, reduceCtorEq, false_and, if_false]
    rfl

end

end

theorem setTicket_setTicket (s : State) (t : TicketHandle) (a b : Ticket) :
    (s.setTicket t a).setTicket t b = s.setTicket t b := by
  rw [State.setTicket, State.setTicket_tickets, tableStore_store]
  rfl

/-- An ADMITTED ticket's entry zone lowered by one (R70). -/
def State.vacate (s : State) (k : Ticket) : State :=
  if k.entry = .admitted then s.leaveZone (entryZone k) else s

theorem markVoid_eq (s : State) (t : TicketHandle) (k : Ticket) :
    s.markVoid t k = (s.vacate k).setTicket t { k with entry := .voided } := by
  unfold State.markVoid State.vacate
  dsimp only
  split <;> rfl

section
variable {s : State} {h : Handle} {st : Station} {t : TicketHandle} {k : Ticket} (hst : s.station? h = some st)
  (hk : s.ticket? t = some k) (cause : UnbindCause) (tag : Tag)
include hst

/-- A ticket made VOID and unbound: its zone, the station's record, the ticket's, and the notice (R70). -/
theorem clearBinding_markVoid_eq : (s.markVoid t k).clearBinding h t cause tag =
    (((s.vacate k).setStation h { st with ticket := none }).setTicket t
      { k with entry := .voided, station := none }).notify isGatePort (.bindingCleared t h cause) tag := by
  have hst' : ((s.vacate k).setTicket t { k with entry := .voided }).station? h = some st := by
    unfold State.vacate
    split <;> exact hst
  rw [markVoid_eq, clearBinding_eq hst' (ticket?_setTicket_self _ t _)]
  exact congrArg (fun u : State => u.notify isGatePort (.bindingCleared t h cause) tag)
    (setTicket_setTicket ((s.vacate k).setStation h { st with ticket := none }) t _ _)

include hk

/-- A ticket made VOID and then unbound has been unbound and then made VOID. -/
theorem clearBinding_markVoid : (s.markVoid t k).clearBinding h t cause tag =
    (s.clearBinding h t cause tag).markVoid t { k with station := none } := by
  have vacated : (s.clearBinding h t cause tag).vacate { k with station := none } =
      (((s.vacate k).setStation h { st with ticket := none }).setTicket t { k with station := none }).notify isGatePort
        (.bindingCleared t h cause) tag := by
    rw [clearBinding_eq hst hk]
    unfold State.vacate
    dsimp only
    split <;> rfl
  rw [clearBinding_markVoid_eq hst, markVoid_eq, vacated]
  exact congrArg (fun u : State => u.notify isGatePort (.bindingCleared t h cause) tag)
    (setTicket_setTicket ((s.vacate k).setStation h { st with ticket := none }) t _ _).symm

end

/-! ### A ticket loaded -/

/-- A new ticket takes the next handle, and is in no zone and bound to no station (R59). -/
theorem gatesAgree_loadTicket {s : State} (h : s.gatesAgree) {k : Ticket} (hroom : s.loaded < 98304)
    (hnew : tableFind s.ticketMap k.number.toNat = none) (hentry : k.entry = .issued) (hunbound : k.station = none) :
    (s.loadTicket k).gatesAgree := by
  obtain ⟨⟨hw, hmap, _, hlive, hnumber⟩, hbindings, ⟨hzones, hcount⟩, hsetup⟩ := h
  obtain ⟨hboth, hbindable⟩ := (bindingsOk_iff s).1 hbindings
  have hnone : s.ticket? s.loaded = none := by
    rw [← Option.not_isSome_iff_eq_none, hlive]
    exact Nat.lt_irrefl _
  have ticket : ∀ n, (s.loadTicket k).ticket? n = if n = s.loaded then some k else s.ticket? n := fun n => by
    rw [State.ticket?, State.loadTicket_tickets]
    split
    · next hn => rw [hn, tableFind_store_self]
    · next hn => exact tableFind_store_of_ne _ _ hn
  have stationOf : ∀ n, (s.loadTicket k).stationOf n = s.stationOf n := fun n => by
    rw [State.stationOf, ticket]
    split
    · next hn => rw [hn, Option.bind_some, hunbound, State.stationOf, hnone, Option.bind_none]
    · rfl
  refine ⟨⟨tableWf_store hw _ _, tableWf_store hmap _ _, hroom, fun n => ?_, fun a n => ?_⟩,
    (bindingsOk_iff _).2 ⟨fun g n => ?_, fun n g hn => ?_⟩, ⟨hzones, fun z => ?_⟩, fun hd n k' hk' => ?_⟩
  · rw [ticket, State.loadTicket_loaded]
    split
    · next hn => simp [hn]
    · next hn =>
      rw [hlive]
      exact ⟨Nat.lt_succ_of_lt, fun hlt => Nat.lt_of_le_of_ne (Nat.le_of_lt_succ hlt) hn⟩
  · rw [ticketMap_loadTicket, ticket]
    by_cases ha : a = k.number
    · subst ha
      rw [if_pos rfl, Option.some.injEq]
      split
      · next hn => simp [hn]
      · next hn =>
        rw [← hnumber, hnew]
        simp [Ne.symm hn]
    · rw [if_neg ha, hnumber]
      split
      · next hn => simp [hn, hnone, Ne.symm ha]
      · rfl
  · rw [stationOf, ← hboth]
    rfl
  · obtain ⟨k', hk', hok⟩ := hbindable n g (stationOf n ▸ hn)
    refine ⟨k', ?_, hok⟩
    rw [ticket, if_neg fun hns => by simp [hns, hnone] at hk', hk']
  · have stored := countP_store hw s.loaded k (insideZone z)
    rw [show tableFind s.tickets s.loaded = none from hnone, tally_none, bit_insideZone, if_neg (by simp [hentry])] at stored
    exact (hcount z).trans stored.symm
  · rw [ticket] at hk'
    split at hk'
    · cases hk'
      exact hentry
    · exact hsetup hd n k' hk'

/-- A chain of new tickets under new and different numbers, with room for all of them. -/
theorem gatesAgree_loadAll {s : State} (h : s.gatesAgree) {ts : List Ticket} (hroom : s.loaded + ts.length ≤ 98304)
    (hnew : ∀ k ∈ ts, tableFind s.ticketMap k.number.toNat = none) (hn : (ts.map (·.number)).Nodup)
    (hissued : ∀ k ∈ ts, k.entry = .issued ∧ k.station = none) : (s.loadAll ts).gatesAgree := by
  induction ts generalizing s with
  | nil => exact h
  | cons a ts ih =>
    rw [List.map_cons, List.nodup_cons] at hn
    obtain ⟨hout, hn⟩ := hn
    obtain ⟨hentry, hunbound⟩ := hissued a (by simp)
    rw [List.length_cons] at hroom
    have first := gatesAgree_loadTicket h (k := a) (by omega) (hnew a (by simp)) hentry hunbound
    refine ih first (by rw [State.loadTicket_loaded]; omega) (fun k hk => ?_) hn fun k hk => hissued k (by simp [hk])
    have hother : k.number ≠ a.number := fun heq => hout (heq ▸ List.mem_map_of_mem hk)
    rw [ticketMap_loadTicket, if_neg hother]
    exact hnew k (by simp [hk])

/-! ### The commands -/

/-- The ticket that a number names is known under its handle. -/
theorem ticket?_of_number {s : State} {a : BitVec 64} {t : TicketHandle} {k : Ticket}
    (h : s.ticketByNumber a = some (t, k)) : s.ticket? t = some k := by
  unfold State.ticketByNumber at h
  split at h
  · cases h
  · obtain ⟨k', hk', heq⟩ := Option.map_eq_some_iff.1 h
    cases heq
    exact hk'

section
variable {s : State} (h : s.gatesAgree) (cmd : Cmd)
include h

theorem gatesAgree_loadTicketsReply : (loadTicketsReply cmd s).state.gatesAgree := by
  cases hr : readTickets cmd 0 cmd.elements.length with
  | error i => rwa [loadTicketsReply_of_bad hr]
  | ok ts =>
    cases hd : findDuplicate s 0 [] ts with
    | some items => rwa [loadTicketsReply_of_duplicate hr hd]
    | none =>
      by_cases hroom : s.loaded + ts.length ≤ 98304
      · obtain ⟨hnew, hn⟩ := new_of_findDuplicate hd (by simp)
        rw [loadTicketsReply_of_room hr hd hroom]
        refine gatesAgree_loadAll h hroom hnew hn fun k hk => ?_
        obtain ⟨i, hi⟩ := readTickets_ok cmd hr k hk
        obtain ⟨_, hentry, _, hunbound⟩ := asTicket_new cmd hi
        exact ⟨hentry, hunbound⟩
      · rwa [loadTicketsReply_of_full hr hd (Nat.lt_of_not_le hroom)]

theorem gatesAgree_bindTicketReply : (bindTicketReply cmd s).state.gatesAgree := by
  unfold bindTicketReply
  split
  · exact h
  · next st hst =>
    have hst := station?_of_asStation hst
    split
    · exact h
    · next t k hnumber =>
      have hk := ticket?_of_number hnumber
      unfold bindTicketTo
      split
      · exact h
      · next hentry =>
        have hentry : k.entry = .admitted := not_not.1 hentry
        split
        · exact (TicketsFrame.evaluate s _ cmd.tag).gatesAgree h
        · next hother =>
          split
          · exact h
          · next hfree =>
            split
            · next hunbound => exact gatesAgree_makeBinding h hst hfree hk hunbound hentry cmd.tag
            · next earlier hearlier =>
              split
              · have hne : (cmd.op 2).toNat ≠ earlier := fun heq => hother (by rw [heq, hearlier])
                exact gatesAgree_moveBinding h hst hfree hk hearlier hne hentry cmd.tag
              · exact h

theorem gatesAgree_unbindTicketReply : (unbindTicketReply cmd s).state.gatesAgree := by
  unfold unbindTicketReply
  split
  · exact h
  · next t k hnumber =>
    split
    · exact h
    · next g hg =>
      exact (TicketsFrame.evaluate _ g cmd.tag).gatesAgree
        (gatesAgree_clearBinding h (ticket?_of_number hnumber) hg .unbind cmd.tag)

variable (hd : s.device = .service)
include hd

theorem gatesAgree_admitTicketReply : (admitTicketReply cmd s).state.gatesAgree := by
  unfold admitTicketReply
  split
  · exact h
  · exact h
  · exact h
  · next g t k _ hnumber =>
    unfold admitTicketAt
    dsimp only
    split
    · exact h
    · split
      · exact h
      · split
        · exact h
        · split
          · exact h
          · next hentry =>
            split
            · exact h
            · split
              · exact h
              · exact gatesAgree_admitAt h hd (ticket?_of_number hnumber) hentry g cmd.tag

theorem gatesAgree_exitTicketReply : (exitTicketReply cmd s).state.gatesAgree := by
  unfold exitTicketReply
  split
  · exact h
  · split
    · exact h
    · next t k hnumber =>
      split
      · exact h
      · split
        · exact h
        · next hentry => exact gatesAgree_exitFrom h hd (ticket?_of_number hnumber) (not_not.1 hentry) cmd.tag

theorem gatesAgree_voidTicketReply : (voidTicketReply cmd s).state.gatesAgree := by
  unfold voidTicketReply
  split
  · exact h
  · next t k hnumber =>
    have hk := ticket?_of_number hnumber
    split
    · exact h
    · dsimp only
      unfold State.voidRecord
      dsimp only
      split
      · next hunbound => exact gatesAgree_markVoid h hd hk hunbound
      · next g hg =>
        obtain ⟨hboth, _⟩ := (bindingsOk_iff s).1 h.2.1
        obtain ⟨st, hst, _⟩ := ticketOf_eq_some.1 ((hboth g t).2 ((stationOf_of_known hk).trans hg))
        have removed : ∀ u : State, TicketsFrame u (u.removeTicketed g cmd.tag (s.ticketedSubs (s.boundSubs k))) := fun u =>
          .foldl (fun s (e : Subscription) => (TicketsFrame.leaveAndRemove s g e.stream cmd.tag).trans (.notify _ _ _ _)) _ u
        refine ((removed _).trans (.evaluate _ g cmd.tag)).gatesAgree ?_
        rw [clearBinding_markVoid hst hk]
        refine gatesAgree_markVoid (gatesAgree_clearBinding h hk hg .voiding cmd.tag) ?_ ?_ rfl
        · rwa [clearBinding_eq hst hk]
        · rw [ticket?_clearBinding, if_pos rfl, hk, Option.map_some]

end

theorem associateReply_tickets {s : State} (hs : s.handlesOk) (p : PortId) (cmd : Cmd) :
    TicketsFrame s (associateReply p cmd s).state := by
  unfold associateReply
  split
  · exact .refl s
  · split
    · exact .refl s
    · split
      · exact .refl s
      · unfold associateAt
        dsimp only
        split
        · next g st hfound =>
          obtain ⟨_, hst⟩ := stationByAddress_eq_some.1 hfound
          split
          · exact .refl s
          · split
            · exact .refl s
            · refine ((TicketsFrame.setStation hst ?_).trans (.setRoster _ _ _)).trans (.evaluate _ g cmd.tag)
              rfl
        · split
          · exact .refl s
          · split
            · exact .refl s
            · next g rest hpop =>
              obtain ⟨_, _, hstack, hlive, _, _⟩ := (handlesOk_iff s).1 hs
              obtain ⟨_, hfresh, _, _⟩ := popHandle_taken hstack hpop
              refine .createStation ?_ rest _ _ _
              rw [← Option.not_isSome_iff_eq_none, hlive]
              exact hfresh

/-- Every command that passes the device state check keeps tickets, bindings and zones consistent. -/
theorem gatesAgree_bodyOf {c : Command} {s : State} (hr : s.recordsAgree) (h : s.gatesAgree)
    (hd : stateRefusal s.device c = none) (p : PortId) (now : Instant) (cmd : Cmd) :
    (bodyOf c p now cmd s).state.gatesAgree := by
  have query : ∀ {t : State}, t = s → t.gatesAgree := by
    rintro t rfl
    exact h
  have service : stateRefusal s.device c = stateRefusal s.device .admitTicket → s.device = .service := by
    intro heq
    rw [hd] at heq
    cases hs : s.device with
    | service => rfl
    | setup => rw [hs] at heq; cases heq
  cases c with
  | declarePort => exact (declarePortReply_tickets p cmd s).gatesAgree h
  | setVenue => exact (setVenueReply_tickets cmd s).gatesAgree h
  | openMatch => exact (openMatchReply_tickets now cmd s).gatesAgree h
  | closeMatch => exact gatesAgree_of_noTickets rfl rfl rfl rfl rfl
  | readStation => exact query (readStationReply_state cmd s)
  | readTicket => exact query (readTicketReply_state cmd s)
  | readStream => exact query (readStreamReply_state cmd s)
  | readCarriage => exact query (readCarriageReply_state cmd s)
  | readZone => exact query (readZoneReply_state cmd s)
  | readCell => exact query (readCellReply_state cmd s)
  | associate => exact (associateReply_tickets hr.1 p cmd).gatesAgree h
  | detach => exact (detachReply_tickets p cmd s).gatesAgree h
  | reportLevel => exact (reportLevelReply_tickets p cmd s).gatesAgree h
  | claim => exact (claimReply_tickets p cmd s).gatesAgree h
  | release => exact (releaseReply_tickets p cmd s).gatesAgree h
  | withdraw => exact (withdrawReply_tickets p cmd s).gatesAgree h
  | setSectorPolicy => exact (setSectorPolicyReply_tickets p cmd s).gatesAgree h
  | loadTickets => exact gatesAgree_loadTicketsReply h cmd
  | admitTicket => exact gatesAgree_admitTicketReply h cmd (service rfl)
  | exitTicket => exact gatesAgree_exitTicketReply h cmd (service (by cases s.device <;> rfl))
  | voidTicket => exact gatesAgree_voidTicketReply h cmd (service (by cases s.device <;> rfl))
  | setZone => exact (setZoneReply_tickets cmd s).gatesAgree h
  | bindTicket => exact gatesAgree_bindTicketReply h cmd
  | unbindTicket => exact gatesAgree_unbindTicketReply h cmd
  | openStream => exact (openStreamReply_tickets p cmd s).gatesAgree h
  | setStreamRate => exact (setStreamRateReply_tickets cmd s).gatesAgree h
  | closeStream => exact (closeStreamReply_tickets cmd s).gatesAgree h
  | subscribe => exact (subscribeReply_tickets cmd s).gatesAgree h
  | unsubscribe => exact (unsubscribeReply_tickets cmd s).gatesAgree h
  | armMoment => exact (armMomentReply_tickets cmd s).gatesAgree h

/-! ### All rows -/

theorem gatesAgree_foldl {α : Type} {act : State → α → State} (hact : ∀ s a, s.gatesAgree → (act s a).gatesAgree)
    (l : List α) (s : State) (h : s.gatesAgree) : (l.foldl act s).gatesAgree := by
  induction l generalizing s with
  | nil => exact h
  | cons a l ih => exact ih _ (hact s a h)

/-- Every act of a boundary keeps tickets, bindings and zones consistent. -/
theorem gatesAgree_act (s : State) (a : BoundaryAct) (h : s.gatesAgree) : (s.act a).gatesAgree := by
  cases a with
  | claimDeadline => exact (TicketsFrame.foldl .expireClaim _ s).gatesAgree h
  | lingerExpiry => exact gatesAgree_foldl gatesAgree_expireLinger _ s h
  | drainCompletion => exact (TicketsFrame.foldl .completeDrain _ s).gatesAgree h
  | surgeEnd => exact (TicketsFrame.actSurgeEnd s).gatesAgree h

theorem gatesAgree_settle {s : State} (h : s.gatesAgree) : s.settle.gatesAgree :=
  gatesAgree_act _ .surgeEnd
    (gatesAgree_act _ .drainCompletion (gatesAgree_act _ .lingerExpiry (gatesAgree_act s .claimDeadline h)))

/-- A boundary keeps tickets, bindings and zones consistent, and so does a change of the clock after it. -/
theorem gatesAgree_boundary {s : State} (h : s.gatesAgree) (now : Instant) (early : List BoundaryAct) :
    (s.boundary now early).gatesAgree ∧ ∀ c strobe, ((s.boundary now early).setClock c strobe).gatesAgree := by
  have raised : TicketsFrame s (s.advanceFrame now).raiseFrame := .beside id rfl rfl rfl rfl rfl
  have bounded := (EngineFrame.planBoundary _).toTickets.gatesAgree
    (gatesAgree_foldl gatesAgree_act early _ (raised.gatesAgree h))
  exact ⟨bounded, fun c strobe => TicketsFrame.gatesAgree (.beside id rfl rfl rfl rfl rfl) bounded⟩

theorem gatesAgree_frameStrobe {s : State} (h : s.gatesAgree) (now : Instant) (early : List BoundaryAct) :
    (s.frameStrobe now early).gatesAgree := by
  obtain ⟨_, clocked⟩ := gatesAgree_boundary h now early
  unfold State.frameStrobe
  split
  · exact h
  · split
    · exact clocked _ _
    · exact h
  · split
    · exact (TicketsFrame.notify _ _ _ _).gatesAgree (clocked _ _)
    · exact h

theorem gatesAgree_strobeLossExpiry {s : State} (h : s.gatesAgree) (early : List BoundaryAct) :
    (s.strobeLossExpiry early).gatesAgree := by
  unfold State.strobeLossExpiry
  split
  · exact h
  · exact h
  · exact (TicketsFrame.notify _ _ _ _).gatesAgree ((gatesAgree_boundary h _ early).2 _ _)

theorem gatesAgree_dividerExpiry {s : State} (h : s.gatesAgree) (early : List BoundaryAct) :
    (s.dividerExpiry early).gatesAgree := by
  unfold State.dividerExpiry
  split
  · exact h
  · exact h
  · exact (gatesAgree_boundary h _ early).1

/-- Every row keeps tickets, bindings and zones consistent (R56, R61, R92). -/
theorem Effect.gatesAgree {i : Instr} {s t : State} (he : Effect s i t) (hr : s.recordsAgree) (h : s.gatesAgree) :
    t.gatesAgree := by
  have settled := gatesAgree_settle h
  cases he with
  | reset => exact gatesAgree_of_noTickets rfl rfl rfl rfl rfl
  | act a => exact gatesAgree_act s a h
  | command c p now =>
    rcases serve_effect p c (bodyOf c p now) s.settle with hb | ⟨cmd, hd, hserved⟩
    · exact hb.toTickets.gatesAgree settled
    · rw [hserved]
      have completed : TicketsFrame (bodyOf c p now cmd s.settle).state
          (finishCommand p cmd (bodyOf c p now cmd s.settle)) := .beside id rfl rfl rfl rfl rfl
      exact completed.gatesAgree (gatesAgree_bodyOf (recordsAgree_settle s hr) settled hd p now cmd)
  | strobe now early => exact gatesAgree_frameStrobe settled now early
  | loss early => exact gatesAgree_strobeLossExpiry settled early
  | divider early => exact gatesAgree_dividerExpiry settled early
  | pulse now => exact (TicketsFrame.momentPulse _ now).gatesAgree settled
  | build => exact (EngineFrame.finishBuild _).toTickets.gatesAgree settled
  | bus i t hb => exact hb.toTickets.gatesAgree settled

end Sys2Proof.Machine

open Sys2Proof Sys2Proof.Machine

/-- Settles O55, by the kinds of effect that a row can have: a ticket that moves takes its place in the occupancies with it, a
binding is written on both sides, and every other change leaves the tickets, the bindings and the zones. -/
theorem stepKeepsTicketsOk : Obligations.StepKeepsTicketsOk := by
  intro s t hs ht
  have stations := stepKeepsStationsOk s t ((ticketsOk_iff s).1 hs).1 ht
  obtain ⟨hstations, hgates⟩ := (ticketsOk_iff s).1 hs
  obtain ⟨_, hrecords⟩ := (stationsOk_iff s).1 hstations
  unfold step at ht
  split at ht
  · cases ht
    exact hs
  · next c rest _ =>
    have waiting : TicketsFrame s { s with pending := rest } := .beside id rfl rfl rfl rfl rfl
    have places : StationsFrame s { s with pending := rest } := .beside rfl rfl rfl rfl rfl
    exact (ticketsOk_iff t).2
      ⟨stations, (effect_of_exec ht).gatesAgree (places.recordsAgree hrecords) (waiting.gatesAgree hgates)⟩
end

section
namespace Sys2Proof.Machine

open Sys2Proof

/-! ## Gates and zones (R62 to R68) -/

theorem asGate_of_val {w : Word} {g : GateId} (h : w.toNat = g.val) : asGate w = some g := by
  rw [asGate, dif_pos (by omega), Option.some.injEq]
  exact Fin.ext h

theorem asGate_of_large {w : Word} (h : 255 < w.toNat) : asGate w = none := dif_neg (by omega)

theorem zoneOf_eq {g : GateId} {z : ZoneId} (h : z.val = g.val / 16) : zoneOf g = z := Fin.ext h.symm

theorem asZoneState_of_code {w : Word} {st : ZoneState} (h : w.toNat = zoneStateCode st) : asZoneState w = some st := by
  unfold asZoneState
  cases st <;> simp only [h, zoneStateCode]

theorem asZoneState_of_large {w : Word} (h : 2 < w.toNat) : asZoneState w = none := by
  unfold asZoneState
  split
  · next h0 => omega
  · next h1 => omega
  · next h2 => omega
  · rfl

/-! ### SET_ZONE -/

section
variable {s : State} {cmd : Cmd}

theorem setZoneReply_of_operands {z : ZoneId} {st : ZoneState} (hz : (cmd.op 2).toNat = z.val)
    (hst : (cmd.op 3).toNat = zoneStateCode st) (hl : (cmd.op 4).toNat ≤ 65535) :
    setZoneReply cmd s = ⟨.ok, [.bytes 1 (zoneStateCode (s.zone z).state), .bytes 2 (s.zone z).limit,
      .bytes 3 (s.zone z).occupancy, .bytes 3 (s.zone z).admitted],
      s.setZone z { s.zone z with state := st, limit := (cmd.op 4).toNat }⟩ := by
  simp only [setZoneReply, asZone_of_val hz, asZoneState_of_code hst, if_neg (Nat.not_lt.2 hl)]

theorem setZoneReply_of_bad (h : 15 < (cmd.op 2).toNat ∨ 2 < (cmd.op 3).toNat ∨ 65535 < (cmd.op 4).toNat) :
    setZoneReply cmd s = refuse .badOperand [] s := by
  unfold setZoneReply
  split
  · next z st hz hst =>
    rcases h with hbad | hbad | hbad
    · rw [asZone_of_large hbad] at hz
      cases hz
    · rw [asZoneState_of_large hbad] at hst
      cases hst
    · exact if_pos hbad
  · rfl
  · rfl

end

/-! ### The evaluation of a bound station -/

/-- The ticket's change and its zone's leave the stations, and then the list of the bound station is evaluated (R65, R68). -/
theorem evaluateBound_spec {s u : State} {k : Ticket} (tag : Tag) (hst : u.stations = s.stations) :
    SubscriptionFrame (fun h => k.station = some h)
      (fun c x => ∃ h st, k.station = some h ∧ s.station? h = some st ∧ carriagesOf st c x) u (u.evaluateBound k tag) ∧
    ∀ h, k.station = some h → s.listsOk → (u.evaluateBound k tag).evaluatedAt h := by
  have station : ∀ h, u.station? h = s.station? h := fun h => by rw [State.station?, hst, State.station?]
  unfold State.evaluateBound
  cases hk : k.station with
  | none => exact ⟨.refl u, by simp⟩
  | some g =>
    refine ⟨evaluate_frame (hs := fun h => some g = some h) u rfl tag fun st hg c x hx => ⟨g, st, rfl, station g ▸ hg, hx⟩,
      fun h hh hl => ?_⟩
    cases hh
    exact evaluate_decides u g tag fun st hg => (hl g st (station g ▸ hg)).2.1

/-! ### ADMIT -/

section
variable {s : State} {cmd : Cmd} {g : GateId} {t : TicketHandle} {k : Ticket}

theorem admitTicketReply_of_badGate (hg : 255 < (cmd.op 4).toNat) (hk : s.ticketByNumber (cmd.number 2) = some (t, k)) :
    admitTicketReply cmd s = refuse .badOperand [.bytes 3 t, .bytes 1 (entryStateCode k.entry)] s := by
  simp only [admitTicketReply, asGate_of_large hg, hk]
  rfl

theorem admitTicketReply_of_unknown (hk : s.ticketByNumber (cmd.number 2) = none) :
    admitTicketReply cmd s = refuse (if 255 < (cmd.op 4).toNat then .badOperand else .unknownTicket) [] s := by
  split
  · next hg => simp only [admitTicketReply, asGate_of_large hg, hk]
  · next hg =>
    have hlt : (cmd.op 4).toNat < 256 := by omega
    simp only [admitTicketReply, asGate_of_val (g := ⟨_, hlt⟩) rfl, hk]

theorem admitTicketReply_of_known (hg : (cmd.op 4).toNat = g.val)
    (hk : s.ticketByNumber (cmd.number 2) = some (t, k)) : admitTicketReply cmd s = admitTicketAt cmd g t k s := by
  simp only [admitTicketReply, asGate_of_val hg, hk]

theorem admitTicketAt_of_closed (hz : (s.zone (zoneOf g)).state ≠ .opened) : admitTicketAt cmd g t k s =
    refuse .gatesClosed [.bytes 1 (zoneStateCode (s.zone (zoneOf g)).state), .bytes 3 t,
      .bytes 1 (entryStateCode k.entry)] s := if_pos hz

/-- A ticket may pass a gate of its own zone, or of any zone (R64, check 4). -/
theorem passesZone_iff : ¬(!(k.anyZone || decide (k.zone = zoneOf g))) = true ↔
    k.anyZone = true ∨ k.zone = zoneOf g := by
  cases k.anyZone <;> simp

section
variable (hz : ¬(s.zone (zoneOf g)).state ≠ .opened)
include hz

theorem admitTicketAt_of_otherZone (hzone : ¬(k.anyZone = true ∨ k.zone = zoneOf g)) : admitTicketAt cmd g t k s =
    refuse .wrongZone [.bytes 1 k.zone.val, .bytes 3 t, .bytes 1 (entryStateCode k.entry)] s :=
  (if_neg hz).trans (if_pos (not_not.1 (mt passesZone_iff.1 hzone)))

variable (hzone : k.anyZone = true ∨ k.zone = zoneOf g)
include hzone

theorem admitTicketAt_of_voided (hentry : k.entry = .voided) : admitTicketAt cmd g t k s =
    refuse .voided [.bytes 3 t, .bytes 1 (entryStateCode k.entry)] s :=
  (if_neg hz).trans ((if_neg (passesZone_iff.2 hzone)).trans (if_pos hentry))

section
variable (hvoid : ¬k.entry = .voided)
include hvoid

theorem admitTicketAt_of_admitted {a : Admission} (hentry : k.entry = .admitted) (ha : k.admission = some a) :
    admitTicketAt cmd g t k s = refuse .alreadyIn [.bytes 1 a.gate.val, .bytes 4 a.frame.toNat, .bytes 3 t,
      .bytes 1 (entryStateCode k.entry)] s := by
  refine (if_neg hz).trans ((if_neg (passesZone_iff.2 hzone)).trans ((if_neg hvoid).trans ((if_pos hentry).trans ?_)))
  rw [ha]
  rfl

variable (hin : ¬k.entry = .admitted)
include hin

theorem admitTicketAt_of_noReentry (hre : k.entry = .exited ∧ k.reentries = 0) : admitTicketAt cmd g t k s =
    refuse .noReentry [.bytes 3 t, .bytes 1 (entryStateCode k.entry)] s :=
  (if_neg hz).trans ((if_neg (passesZone_iff.2 hzone)).trans ((if_neg hvoid).trans ((if_neg hin).trans (if_pos hre))))

variable (hre : ¬(k.entry = .exited ∧ k.reentries = 0))
include hre

theorem admitTicketAt_of_full
    (hfull : (s.zone (zoneOf g)).limit ≠ 0 ∧ (s.zone (zoneOf g)).limit ≤ (s.zone (zoneOf g)).occupancy) :
    admitTicketAt cmd g t k s = refuse .zoneFull [.bytes 3 (s.zone (zoneOf g)).occupancy,
      .bytes 2 (s.zone (zoneOf g)).limit, .bytes 3 t, .bytes 1 (entryStateCode k.entry)] s :=
  (if_neg hz).trans ((if_neg (passesZone_iff.2 hzone)).trans ((if_neg hvoid).trans ((if_neg hin).trans
    ((if_neg hre).trans (if_pos hfull)))))

theorem admitTicketAt_of_room
    (hroom : ¬((s.zone (zoneOf g)).limit ≠ 0 ∧ (s.zone (zoneOf g)).limit ≤ (s.zone (zoneOf g)).occupancy)) :
    admitTicketAt cmd g t k s = ⟨.ok, [.bytes 3 t, .bytes 1 (ticketClassCode k.cls)] ++ seatItems k.seat ++
      [itemMarks [k.anyZone], .bytes 1 (admittedTicket k g s.clock.frame).reentries, .bytes 1 (zoneOf g).val,
        .bytes 3 ((s.zone (zoneOf g)).occupancy + 1), itemOrNone 2 k.station], s.admitAt t k g cmd.tag⟩ :=
  (if_neg hz).trans ((if_neg (passesZone_iff.2 hzone)).trans ((if_neg hvoid).trans ((if_neg hin).trans
    ((if_neg hre).trans (if_neg hroom)))))

end

end

end

/-! ### EXIT -/

section
variable {s : State} {cmd : Cmd} {g : GateId} {t : TicketHandle} {k : Ticket}

theorem exitTicketReply_of_badGate (hg : 255 < (cmd.op 4).toNat) : exitTicketReply cmd s = refuse .badOperand [] s := by
  simp only [exitTicketReply, asGate_of_large hg]

variable (hg : (cmd.op 4).toNat = g.val)
include hg

theorem exitTicketReply_of_unknown (hk : s.ticketByNumber (cmd.number 2) = none) :
    exitTicketReply cmd s = refuse .unknownTicket [] s := by
  simp only [exitTicketReply, asGate_of_val hg, hk]

variable (hk : s.ticketByNumber (cmd.number 2) = some (t, k))
include hk

theorem exitTicketReply_of_closed (hz : (s.zone (zoneOf g)).state = .closed) : exitTicketReply cmd s =
    refuse .gatesClosed [.bytes 1 (zoneStateCode (s.zone (zoneOf g)).state)] s := by
  simp only [exitTicketReply, asGate_of_val hg, hk, if_pos hz]

theorem exitTicketReply_of_outside (hz : (s.zone (zoneOf g)).state ≠ .closed) (hentry : k.entry ≠ .admitted) :
    exitTicketReply cmd s = refuse .notAdmitted [.bytes 1 (entryStateCode k.entry)] s := by
  simp only [exitTicketReply, asGate_of_val hg, hk, if_neg hz, if_pos hentry]

theorem exitTicketReply_of_inside (hz : (s.zone (zoneOf g)).state ≠ .closed) (hentry : k.entry = .admitted) :
    exitTicketReply cmd s = ⟨.ok, [.bytes 3 t, .bytes 1 (entryZone k).val,
      .bytes 3 ((s.zone (entryZone k)).occupancy - 1), .bytes 1 k.reentries], s.exitFrom t k cmd.tag⟩ := by
  simp only [exitTicketReply, asGate_of_val hg, hk, if_neg hz, if_neg (not_not.2 hentry)]

end

theorem entryZone_of_admission {k : Ticket} {a : Admission} (h : k.admission = some a) : entryZone k = a.zone := by
  rw [entryZone, h]

end Sys2Proof.Machine

open Sys2Proof Sys2Proof.Machine

/-- Settles O39: SET_ZONE writes one zone anew, or refuses. -/
theorem setZoneReplacesStateAndLimit : Obligations.SetZoneReplacesStateAndLimit := by
  intro s p cmd hpass
  have replied : ∀ {r}, setZoneReply cmd s = r → exec (.setZone p) s = .next (finishCommand p cmd r) := fun hr =>
    (exec_rowOf_of_passes hpass 0).trans (by rw [bodyOf, hr])
  refine ⟨fun z st hz hst hl => ⟨_, replied (setZoneReply_of_operands hz hst hl), rfl, zone_setZone_self s z _,
    fun y hy => zone_setZone_of_ne s _ hy⟩, fun hbad => replied (setZoneReply_of_bad hbad)⟩

/-- Settles O35: an admission passes every check, and then evaluates the list of a bound station. -/
theorem admitLetsTheTicketIn : Obligations.AdmitLetsTheTicketIn := by
  intro s p cmd g z t k hpass hg hzg hk hz hzone hentry hroom k' u
  obtain rfl := zoneOf_eq hzg
  have hvoid : k.entry ≠ .voided := by rcases hentry with h | ⟨h, _⟩ <;> simp [h]
  have hin : k.entry ≠ .admitted := by rcases hentry with h | ⟨h, _⟩ <;> simp [h]
  have hre : ¬(k.entry = .exited ∧ k.reentries = 0) := by
    rcases hentry with h | ⟨_, h⟩
    · simp [h]
    · omega
  have reply := (admitTicketReply_of_known (cmd := cmd) hg hk).trans
    (admitTicketAt_of_room (t := t) (not_not.2 hz) hzone hvoid hin hre (by omega))
  obtain ⟨frame, decides⟩ := evaluateBound_spec (s := s) (u := u) (k := k) cmd.tag rfl
  refine ⟨u.evaluateBound k cmd.tag, (exec_rowOf_of_passes hpass 0).trans ?_, rfl, frame, decides⟩
  rw [bodyOf, reply]
  rfl

/-- Settles O36, by the checks of ADMIT in their order. -/
theorem admitRefusesInOrder : Obligations.AdmitRefusesInOrder := by
  intro s p cmd hpass refused
  have replied : ∀ {st items}, admitTicketReply cmd s = refuse st items s → refused st items := fun hr =>
    (exec_rowOf_of_passes hpass 0).trans (by rw [bodyOf, hr]; rfl)
  split
  · next hk => exact replied (admitTicketReply_of_unknown hk)
  · next t k hk =>
    refine ⟨fun hg => replied (admitTicketReply_of_badGate hg hk), fun g z hg hzg => ?_⟩
    obtain rfl := zoneOf_eq hzg
    have checked := admitTicketReply_of_known (cmd := cmd) hg hk
    split
    · next hz => exact replied (checked.trans (admitTicketAt_of_closed hz))
    · next hz =>
      split
      · next hzone =>
        obtain ⟨hany, hother⟩ := hzone
        exact replied (checked.trans (admitTicketAt_of_otherZone hz (by simp [hany, hother])))
      · next hzone =>
        have hzone : k.anyZone = true ∨ k.zone = zoneOf g := by
          by_contra hnot
          rw [not_or, Bool.not_eq_true] at hnot
          exact hzone hnot
        split
        · next hvoid => exact replied (checked.trans (admitTicketAt_of_voided hz hzone hvoid))
        · next hvoid =>
          split
          · next hin => exact fun a ha => replied (checked.trans (admitTicketAt_of_admitted hz hzone hvoid hin ha))
          · next hin =>
            split
            · next hre => exact replied (checked.trans (admitTicketAt_of_noReentry hz hzone hvoid hin hre))
            · next hre =>
              exact fun hl hfull => replied (checked.trans (admitTicketAt_of_full hz hzone hvoid hin hre ⟨hl, hfull⟩))

/-- Settles O37, by the checks of EXIT in their order. -/
theorem exitLeavesTheEntryZone : Obligations.ExitLeavesTheEntryZone := by
  intro s p cmd hpass refused
  have replied : ∀ {r}, exitTicketReply cmd s = r → exec (.exitTicket p) s = .next (finishCommand p cmd r) := fun hr =>
    (exec_rowOf_of_passes hpass 0).trans (by rw [bodyOf, hr])
  refine ⟨fun hg => replied (exitTicketReply_of_badGate hg), fun g z hg hzg => ?_⟩
  obtain rfl := zoneOf_eq hzg
  split
  · next hk => exact replied (exitTicketReply_of_unknown hg hk)
  · next t k hk =>
    split
    · next hz => exact replied (exitTicketReply_of_closed hg hk hz)
    · next hz =>
      split
      · next hentry => exact replied (exitTicketReply_of_outside hg hk hz hentry)
      · next hentry =>
        intro a ha u
        have reply := exitTicketReply_of_inside (cmd := cmd) hg hk hz (not_not.1 hentry)
        rw [State.exitFrom, entryZone_of_admission ha] at reply
        obtain ⟨frame, decides⟩ := evaluateBound_spec (s := s) (u := u) (k := k) cmd.tag rfl
        exact ⟨u.evaluateBound k cmd.tag, replied reply, rfl, frame, decides⟩
end

section
namespace Sys2Proof.Machine

open Sys2Proof

/-! ## VOID (R70) -/

/-! ### The frame of a list that loses entries -/

/-- `t` is `s` but for the record of station `h`, the carriages `cs` with their places on their cells' lists, their streams'
totals and held figures, and notices. -/
structure ListFrame (h : Handle) (cs : CellId → StreamId → Prop) (s t : State) : Prop where
  rest : t = { s with
    stations := t.stations, roster := t.roster, streams := t.streams, carriages := t.carriages, ports := t.ports }
  others : ∀ g, g ≠ h → t.station? g = s.station? g
  carriages : ∀ c x, ¬cs c x → t.carriage? c x = s.carriage? c x
  lists : ∀ c x, ¬cs c x → (x ∈ (t.rosterEntry c).carriages ↔ x ∈ (s.rosterEntry c).carriages)
  counts : ∀ c, (t.rosterEntry c).count = (s.rosterEntry c).count ∧
    (t.rosterEntry c).pendingIn = (s.rosterEntry c).pendingIn
  states : ∀ x, (t.stream x).state = (s.stream x).state
  totals : ∀ x, (∀ c, ¬cs c x) → t.stream x = s.stream x
  ports : ∀ p, PortFrame (s.port p) (t.port p)

section
variable {h : Handle} {cs : CellId → StreamId → Prop}

theorem ListFrame.refl (s : State) : ListFrame h cs s s :=
  ⟨rfl, fun _ _ => rfl, fun _ _ _ => rfl, fun _ _ _ => .rfl, fun _ => ⟨rfl, rfl⟩, fun _ => rfl, fun _ _ => rfl,
    fun _ => .refl _⟩

theorem ListFrame.trans {s t u : State} (f : ListFrame h cs s t) (f' : ListFrame h cs t u) : ListFrame h cs s u where
  rest := by rw [f'.rest, f.rest]
  others g hg := (f'.others g hg).trans (f.others g hg)
  carriages c x hc := (f'.carriages c x hc).trans (f.carriages c x hc)
  lists c x hc := (f'.lists c x hc).trans (f.lists c x hc)
  counts c := ⟨(f'.counts c).1.trans (f.counts c).1, (f'.counts c).2.trans (f.counts c).2⟩
  states x := (f'.states x).trans (f.states x)
  totals x hx := (f'.totals x hx).trans (f.totals x hx)
  ports p := (f.ports p).trans (f'.ports p)

theorem SubscriptionFrame.rest {hs : Handle → Prop} {s t : State} (f : SubscriptionFrame hs cs s t) : t = { s with
    stations := t.stations, roster := t.roster, streams := t.streams, carriages := t.carriages, ports := t.ports } := by
  rw [← f.device, ← f.venue, ← f.clock, ← f.latch, ← f.surge, ← f.addressMap, ← f.handles, ← f.tickets, ← f.ticketMap,
    ← f.loaded, ← f.zones, ← f.sectors, ← f.plans, ← f.pass, ← f.startSector, ← f.arbiter, ← f.answer, ← f.pending]

theorem SubscriptionFrame.toList {s t : State} (f : SubscriptionFrame (· = h) cs s t) : ListFrame h cs s t :=
  ⟨f.rest, f.stations, f.carriages, f.lists, f.counts, fun x => (f.streams x).1, f.totals, f.ports⟩

theorem ListFrame.setStation (s : State) (st : Station) : ListFrame h cs s (s.setStation h st) :=
  { ListFrame.refl (h := h) s with
    rest := rfl
    others := fun _ hg => station?_setStation_of_ne s st hg }

theorem ListFrame.notify (s : State) (dest : PortUnit → Bool) (n : Notice) (tag : Tag) :
    ListFrame h cs s (s.notify dest n tag) :=
  { ListFrame.refl (h := h) s with
    rest := rfl
    ports := fun p => ((RecordFrame.notify (fresh := fun _ => False) s dest n tag).ports p).toPortFrame }

theorem ListFrame.subHeld (s : State) {c : CellId} {x : StreamId} (hc : cs c x) : ListFrame h cs s (s.subHeld x) :=
  { ListFrame.refl (h := h) s with
    rest := rfl
    states := fun y => by
      by_cases hy : y = x
      · rw [hy, State.subHeld, stream_setStream_self]
      · rw [State.subHeld, stream_setStream_of_ne s _ hy]
    totals := fun y hy => by
      have hne : y ≠ x := fun heq => hy c (heq ▸ hc)
      rw [State.subHeld, stream_setStream_of_ne s _ hne] }

/-! ### Entries removed -/

/-- An entry that leaves its carriage and its list: the rest of the list stands, and its stream's held figure falls (R89). -/
theorem leaveAndRemove_spec {s : State} {st : Station} (hst : s.station? h = some st) {e : Subscription}
    (he : e ∈ st.subs) (hc : cs st.serving e.stream) (tag : Tag) :
    let t := s.leaveAndRemove h e.stream tag
    t.station? h = some { st with subs := st.subs.filter fun d => decide (d.stream ≠ e.stream) } ∧
      (∀ x, (t.stream x).held = if x = e.stream then (s.stream x).held - 1 else (s.stream x).held) ∧
      ListFrame h cs s t := by
  obtain ⟨d, hd⟩ : ∃ d, findSub st.subs e.stream = some d := Option.isSome_iff_exists.1 (by
    rw [findSub, List.find?_isSome]
    exact ⟨e, he, by simp⟩)
  have left : SubscriptionFrame (fun _ => False) cs s
      (if d.state = .active then s.leave st.serving e.stream st.level tag else s) := by
    split
    · exact leave_frame s hc st.level tag
    · exact .refl s
  have live := (left.stations h id).trans hst
  have removed : s.leaveAndRemove h e.stream tag =
      (if d.state = .active then s.leave st.serving e.stream st.level tag else s).removeSub h e.stream := by
    simp only [State.leaveAndRemove, hst, hd]
  refine ⟨?_, fun x => ?_, ?_⟩
  · rw [removed, removeSub_eq live]
    exact station?_setStation_self _ h _
  · rw [removed, stream_removeSub live]
    split
    · next hx => rw [hx, (left.streams e.stream).2]
    · exact (left.streams x).2
  · rw [removed, removeSub_eq live]
    exact ((left.mono (hs' := (· = h)) (fun _ => False.elim) fun _ _ => id).toList.trans (.setStation _ _)).trans
      (.subHeld _ hc)

/-- The removal of some entries of a list that holds no stream twice: the others stand, and the held figures of the streams
removed fall (R70, R91). -/
theorem removeTicketed_spec {s : State} {st : Station} (hst : s.station? h = some st) {gone : List Subscription}
    (hn : (gone.map (·.stream)).Nodup) (hgone : ∀ e ∈ gone, e ∈ st.subs) (hc : ∀ e ∈ gone, cs st.serving e.stream)
    (tag : Tag) :
    let t := s.removeTicketed h tag gone
    t.station? h = some { st with subs := st.subs.filter fun d => decide (d.stream ∉ gone.map (·.stream)) } ∧
      (∀ x, (t.stream x).held = if x ∈ gone.map (·.stream) then (s.stream x).held - 1 else (s.stream x).held) ∧
      ListFrame h cs s t := by
  induction gone generalizing s st with
  | nil => exact ⟨by simpa [State.removeTicketed] using hst, fun x => rfl, .refl s⟩
  | cons e gone ih =>
    rw [List.map_cons, List.nodup_cons] at hn
    obtain ⟨hout, hn⟩ := hn
    obtain ⟨live, held, removed⟩ := leaveAndRemove_spec (cs := cs) hst (hgone e (by simp)) (hc e (by simp)) tag
    obtain ⟨live', held', removed'⟩ := ih
      (s := (s.leaveAndRemove h e.stream tag).notify isReplayPort (.subRemoved h e.stream false) tag) live hn
      (fun d hd => by
        have hne : d.stream ≠ e.stream := fun heq => hout (heq ▸ List.mem_map_of_mem hd)
        simpa [hne] using hgone d (by simp [hd]))
      (fun d hd => hc d (by simp [hd]))
    refine ⟨?_, fun x => ?_, (removed.trans (.notify _ _ _ _)).trans removed'⟩
    · refine live'.trans ?_
      simp [List.filter_filter, Bool.and_comm]
    · refine (held' x).trans ?_
      have first : (((s.leaveAndRemove h e.stream tag).notify isReplayPort (.subRemoved h e.stream false) tag).stream
        x).held = if x = e.stream then (s.stream x).held - 1 else (s.stream x).held := held x
      rw [first, List.map_cons]
      by_cases hx : x = e.stream
      · subst hx
        simp [hout]
      · simp [hx]

end

/-! ### The ticket, its zone and its station -/

theorem vacate_rest (s : State) (k : Ticket) : s.vacate k = { s with zones := (s.vacate k).zones } := by
  unfold State.vacate
  split <;> rfl

theorem zone_vacate (s : State) (k : Ticket) (z : ZoneId) : (s.vacate k).zone z =
    if k.entry = .admitted ∧ z = entryZone k then { s.zone z with occupancy := (s.zone z).occupancy - 1 }
    else s.zone z := by
  unfold State.vacate
  by_cases he : k.entry = .admitted
  · rw [if_pos he, State.leaveZone]
    by_cases hz : z = entryZone k
    · rw [if_pos ⟨he, hz⟩, hz, zone_setZone_self]
    · rw [if_neg fun h => hz h.2, zone_setZone_of_ne s _ hz]
  · rw [if_neg he, if_neg fun h => he h.1]

/-- The entries of a list that a VOID leaves on it: those to OPEN streams (R70). -/
def State.openSubs (s : State) (subs : List Subscription) : List Subscription :=
  subs.filter fun e => decide (s.classOf e.stream = .anyone)

section
variable (s : State) (subs : List Subscription)

theorem length_ticketedSubs_add : (s.ticketedSubs subs).length + (s.openSubs subs).length = subs.length := by
  have := List.length_eq_length_filter_add (l := subs) fun e => decide (s.classOf e.stream = .anyone)
  simp only [State.ticketedSubs, State.openSubs, ne_eq, decide_not]
  omega

theorem openSubs_eq : (subs.filter fun d => decide (d.stream ∉ (s.ticketedSubs subs).map (·.stream))) = s.openSubs subs := by
  refine List.filter_congr fun d hd => ?_
  rw [decide_eq_decide]
  simp only [State.ticketedSubs, List.mem_map, List.mem_filter, decide_eq_true_eq, not_exists, not_and]
  constructor
  · intro hout
    by_contra hclass
    exact hout d ⟨hd, hclass⟩ rfl
  · rintro hclass e ⟨_, he⟩ heq
    exact he (heq ▸ hclass)

end

section
variable {s : State} {h : Handle} {st : Station} {t : TicketHandle} {k : Ticket} {tag : Tag}

/-- The ticket made VOID and unbound, and its zone, with every other record as it was (R70). -/
def State.withVoid (s : State) (t : TicketHandle) (k : Ticket) : State :=
  { s with tickets := tableStore s.tickets t { k with entry := .voided, station := none }, zones := (s.vacate k).zones }

theorem voidRecord_of_unbound (hunbound : k.station = none) : s.voidRecord t k tag = s.withVoid t k := by
  simp only [State.voidRecord, hunbound, markVoid_eq]
  rw [vacate_rest]
  rfl

/-- A VOID of a bound ticket up to its notice: the ticket, its zone, and the record of its station (R70, steps 1 and 2). -/
def State.voidBinding (s : State) (h : Handle) (st : Station) (t : TicketHandle) (k : Ticket) (tag : Tag) : State :=
  (((s.vacate k).setStation h { st with ticket := none }).setTicket t
    { k with entry := .voided, station := none }).notify isGatePort (.bindingCleared t h .voiding) tag

theorem voidBinding_eq : s.voidBinding h st t k tag =
    ((s.withVoid t k).setStation h { st with ticket := none }).notify isGatePort (.bindingCleared t h .voiding) tag := by
  rw [State.voidBinding, vacate_rest]
  rfl

theorem voidRecord_of_bound (hst : s.station? h = some st) (hbound : k.station = some h) :
    s.voidRecord t k tag =
      ((s.voidBinding h st t k tag).removeTicketed h tag (s.ticketedSubs st.subs)).evaluate h tag := by
  have subs : s.boundSubs k = st.subs := by simp only [State.boundSubs, hbound, hst]
  rw [State.voidBinding, ← clearBinding_markVoid_eq hst]
  simp only [State.voidRecord, hbound, subs]

/-- What the rest of a VOID does to the list of the station: the entries to BASIC and PREMIUM streams go, and the others
are evaluated (R70, steps 3 and 4). -/
theorem voidList_spec {s u : State} {h : Handle} {st : Station} (hst : u.station? h = some st)
    (hn : (st.subs.map (·.stream)).Nodup) (tag : Tag) :
    let v := (u.removeTicketed h tag (s.ticketedSubs st.subs)).evaluate h tag
    (∃ st', v.station? h = some st' ∧ StationFrame { st with subs := s.openSubs st.subs } st' ∧ v.evaluatedAt h) ∧
      (∀ x, (v.stream x).held = if x ∈ (s.ticketedSubs st.subs).map (·.stream) then (u.stream x).held - 1
        else (u.stream x).held) ∧
      ListFrame h (carriagesOf st) u v := by
  intro v
  have members : ∀ e ∈ s.ticketedSubs st.subs, e ∈ st.subs := fun e he => (List.mem_filter.1 he).1
  obtain ⟨live, held, removed⟩ := removeTicketed_spec (cs := carriagesOf st) (gone := s.ticketedSubs st.subs) hst
    (hn.sublist (List.filter_sublist.map _)) members (fun e he => ⟨rfl, List.mem_map_of_mem (members e he)⟩) tag
  rw [openSubs_eq] at live
  have kept : ∀ x, x ∈ (s.openSubs st.subs).map (·.stream) → x ∈ st.subs.map (·.stream) :=
    fun x hx => (List.filter_sublist.map _).subset hx
  have evaluated : SubscriptionFrame (· = h) (carriagesOf st) (u.removeTicketed h tag (s.ticketedSubs st.subs)) v := by
    refine evaluate_frame (hs := (· = h)) _ rfl tag fun a ha c x hx => ?_
    cases live.symm.trans ha
    obtain ⟨hserving, hx⟩ := hx
    exact ⟨hserving, kept x hx⟩
  obtain ⟨st', hst', frame⟩ := evaluated.own h _ live
  refine ⟨⟨st', hst', frame, evaluate_decides _ h tag fun a ha => ?_⟩, fun x => ?_, removed.trans evaluated.toList⟩
  · cases live.symm.trans ha
    exact hn.sublist (List.filter_sublist.map _)
  · rw [(evaluated.streams x).2, held]

/-- A VOID of a ticket bound to a station whose list holds no stream twice (R70). -/
theorem voidRecord_spec (hst : s.station? h = some st) (hbound : k.station = some h)
    (hn : (st.subs.map (·.stream)).Nodup) :
    let v := s.voidRecord t k tag
    (∃ st', v.station? h = some st' ∧ StationFrame { st with ticket := none, subs := s.openSubs st.subs } st' ∧
        v.evaluatedAt h) ∧
      (∀ x, (v.stream x).held = if x ∈ (s.ticketedSubs st.subs).map (·.stream) then (s.stream x).held - 1
        else (s.stream x).held) ∧
      ListFrame h (carriagesOf st) (s.withVoid t k) v := by
  intro v
  have hv : v = ((s.voidBinding h st t k tag).removeTicketed h tag (s.ticketedSubs st.subs)).evaluate h tag :=
    voidRecord_of_bound hst hbound
  have unbound : ListFrame h (carriagesOf st) (s.withVoid t k) (s.voidBinding h st t k tag) := by
    rw [voidBinding_eq]
    exact (ListFrame.setStation _ _).trans (.notify _ _ _ _)
  have live : (s.voidBinding h st t k tag).station? h = some { st with ticket := none } := by
    rw [voidBinding_eq]
    exact station?_setStation_self _ h _
  have same : ∀ x, (s.voidBinding h st t k tag).stream x = s.stream x := fun x => by
    rw [voidBinding_eq]
    rfl
  obtain ⟨list, held, frame⟩ := voidList_spec (s := s) live hn tag
  rw [← hv] at list held frame
  exact ⟨list, fun x => same x ▸ held x, unbound.trans frame⟩

theorem ticket?_withVoid_self (s : State) (t : TicketHandle) (k : Ticket) :
    (s.withVoid t k).ticket? t = some { k with entry := .voided, station := none } := tableFind_store_self _ _ _

theorem ticket?_withVoid_of_ne (s : State) {t n : TicketHandle} (hn : n ≠ t) (k : Ticket) :
    (s.withVoid t k).ticket? n = s.ticket? n := tableFind_store_of_ne _ _ hn

end

section
variable {s : State} {cmd : Cmd} {t : TicketHandle} {k : Ticket}

theorem voidTicketReply_of_unknown (hk : s.ticketByNumber (cmd.number 2) = none) :
    voidTicketReply cmd s = refuse .unknownTicket [] s := by
  simp only [voidTicketReply, hk]

variable (hk : s.ticketByNumber (cmd.number 2) = some (t, k))
include hk

theorem voidTicketReply_of_voided (hvoid : k.entry = .voided) : voidTicketReply cmd s = refuse .voided [] s := by
  simp only [voidTicketReply, hk, if_pos hvoid]

theorem voidTicketReply_of_valid (hvoid : ¬k.entry = .voided) : voidTicketReply cmd s =
    ⟨.ok, [.bytes 3 t, .bytes 1 (entryStateCode k.entry), itemOrNone 2 k.station,
      .bytes 1 (s.ticketedSubs (s.boundSubs k)).length], s.voidRecord t k cmd.tag⟩ := by
  simp only [voidTicketReply, hk, if_neg hvoid]

end

end Sys2Proof.Machine

open Sys2Proof Sys2Proof.Machine

/-- Settles O38: the refusals, and the steps of a VOID on an unbound and on a bound ticket. -/
theorem voidRemovesTicketedSubscriptions : Obligations.VoidRemovesTicketedSubscriptions := by
  intro s p cmd hpass refused
  have replied : ∀ {r}, voidTicketReply cmd s = r → exec (.voidTicket p) s = .next (finishCommand p cmd r) := fun hr =>
    (exec_rowOf_of_passes hpass 0).trans (by rw [bodyOf, hr])
  split
  · next hk => exact replied (voidTicketReply_of_unknown hk)
  · next t k hnumber =>
    split
    · next hvoid => exact replied (voidTicketReply_of_voided hnumber hvoid)
    · next hvoid =>
      intro hbindings hlists opens ticketed zoned
      have hk := ticket?_of_number hnumber
      have reply := replied (voidTicketReply_of_valid hnumber hvoid)
      rcases Option.eq_none_or_eq_some k.station with hunbound | ⟨h, hbound⟩
      · have subs : s.boundSubs k = [] := by simp only [State.boundSubs, hunbound]
        rw [subs, voidRecord_of_unbound hunbound] at reply
        exact ⟨_, _, reply, ticket?_withVoid_self s t k, fun n hn => ticket?_withVoid_of_ne s hn k, zone_vacate s k,
          fun _ => ⟨rfl, rfl⟩, fun h _ hh => by simp [hunbound] at hh, fun _ _ => rfl, fun _ => ⟨rfl, rfl⟩, rfl⟩
      · obtain ⟨st, hst, _⟩ := (hbindings.2 t k h hk hbound).2
        have subs : s.boundSubs k = st.subs := by simp only [State.boundSubs, hbound, hst]
        obtain ⟨list, held, frame⟩ := voidRecord_spec (t := t) (tag := cmd.tag) hst hbound (hlists h st hst).2.1
        have ticket : ∀ n, (s.voidRecord t k cmd.tag).ticket? n = (s.withVoid t k).ticket? n := fun n => by
          rw [frame.rest]
          rfl
        rw [subs] at reply
        refine ⟨_, _, reply, (ticket t).trans (ticket?_withVoid_self s t k),
          fun n hn => (ticket n).trans (ticket?_withVoid_of_ne s hn k), fun z => ?_, fun hnone => by simp [hbound] at hnone,
          fun g a hg ha => ?_, fun g hg => frame.others g fun heq => hg (by rw [heq, hbound]), frame.counts, ?_⟩
        · rw [frame.rest]
          exact zone_vacate s k z
        · cases hbound.symm.trans hg
          cases hst.symm.trans ha
          exact ⟨voidRecord_of_bound hst hbound, rfl, length_ticketedSubs_add s st.subs, list,
            fun c x hc => ⟨frame.carriages c x hc, frame.lists c x hc⟩,
            fun x => ⟨frame.states x, fun hx => frame.totals x fun c hc => hx hc.2, held x⟩, frame.ports⟩
        · rw [frame.rest]
          rfl
end

section
namespace Sys2Proof.Machine

open Sys2Proof

/-! ## OPEN_STREAM and CLOSE_STREAM (R78, R81) -/

theorem asStreamPriority_of_val {w : Word} {pr : Fin 4} (h : w.toNat = pr.val) : asStreamPriority w = some pr := by
  rw [asStreamPriority, dif_pos (by omega)]
  exact congrArg some (Fin.ext h)

theorem asStreamPriority_of_large {w : Word} (h : 3 < w.toNat) : asStreamPriority w = none := dif_neg (by omega)

theorem asStreamClass_of_code {w : Word} {cls : StreamClass} (h : w.toNat = streamClassCode cls) :
    asStreamClass w = some cls := by
  unfold asStreamClass
  cases cls <;> simp only [h, streamClassCode]

theorem asStreamClass_of_large {w : Word} (h : 2 < w.toNat) : asStreamClass w = none := by
  unfold asStreamClass
  split
  · next h0 => omega
  · next h1 => omega
  · next h2 => omega
  · rfl

theorem asRate_eq (w : Word) : asRate w = max 10 (min 800 (w.toNat % 2 ^ 16)) := clampTo_eq (by decide) _

theorem rateClamped_eq (w : Word) :
    rateClamped w = decide (max 10 (min 800 (w.toNat % 2 ^ 16)) ≠ w.toNat % 2 ^ 16) := by
  rw [rateClamped, asRate_eq]
  rfl

/-- The demand of a LIVE stream (R75). -/
theorem demand_of_live {s : State} {x : StreamId} {info : StreamInfo} (h : (s.stream x).state = .live info) :
    s.demand x = 16 * info.rate := by
  simp only [State.demand, h, streamInfo?]

theorem demand_setStream_live (s : State) (x : StreamId) (v : Stream) (info : StreamInfo) :
    (s.setStream x { v with state := .live info }).demand x = 16 * info.rate :=
  demand_of_live (congrArg Stream.state (stream_setStream_self s x _))

section
variable {s : State} {p : PortId} {cmd : Cmd} {x : StreamId}

theorem openStreamReply_of_bad (h : 15 < (cmd.op 2).toNat ∨ 3 < (cmd.op 4).toNat ∨ 2 < (cmd.op 5).toNat) :
    openStreamReply p cmd s = refuse .badOperand [] s := by
  unfold openStreamReply
  split
  · next hx hpr hcls =>
    rcases h with hbad | hbad | hbad
    · rw [asStream_of_large hbad] at hx
      cases hx
    · rw [asStreamPriority_of_large hbad] at hpr
      cases hpr
    · rw [asStreamClass_of_large hbad] at hcls
      cases hcls
  · rfl
  · rfl
  · rfl

section
variable (hx : (cmd.op 2).toNat = x.val) {pr : Fin 4} (hpr : (cmd.op 4).toNat = pr.val) {cls : StreamClass}
  (hcls : (cmd.op 5).toNat = streamClassCode cls)
include hx hpr hcls

theorem openStreamReply_of_idle (hs : (s.stream x).state = .idle) :
    openStreamReply p cmd s =
      ⟨.ok, [.bytes 2 (max 10 (min 800 ((cmd.op 3).toNat % 2 ^ 16))),
          .bytes 2 (16 * max 10 (min 800 ((cmd.op 3).toNat % 2 ^ 16))),
          itemMarks [decide (max 10 (min 800 ((cmd.op 3).toNat % 2 ^ 16)) ≠ (cmd.op 3).toNat % 2 ^ 16)]],
        s.setStream x { s.stream x with
          state := .live ⟨max 10 (min 800 ((cmd.op 3).toNat % 2 ^ 16)), pr, cls, (cmd.op 6).getLsbD 0, p,
            s.clock.frame⟩ }⟩ := by
  simp only [openStreamReply, asStream_of_val hx, asStreamPriority_of_val hpr, asStreamClass_of_code hcls, hs,
    rateClamped_eq, asRate_eq, Cmd.flag]

theorem openStreamReply_of_busy (hs : (s.stream x).state ≠ .idle) :
    openStreamReply p cmd s = refuse .streamBusy [.bytes 1 (streamStateCode (s.stream x).state)] s := by
  simp only [openStreamReply, asStream_of_val hx, asStreamPriority_of_val hpr, asStreamClass_of_code hcls]
  split
  · next h => exact absurd h hs
  · next h => rw [h]
  · next h => rw [h]

end

theorem closeStreamReply_of_large (h : 15 < (cmd.op 2).toNat) : closeStreamReply cmd s = refuse .badOperand [] s := by
  simp only [closeStreamReply, asStream_of_large h]

section
variable (hx : (cmd.op 2).toNat = x.val)
include hx

theorem closeStreamReply_of_live {info : StreamInfo} (hs : (s.stream x).state = .live info) :
    closeStreamReply cmd s =
      ⟨.ok, [.bytes 4 s.clock.frame.toNat, .bytes 3 (s.stream x).subscribers, .bytes 2 (s.stream x).carriages],
        s.setStream x { s.stream x with state := .draining info cmd.tag s.clock.frame }⟩ := by
  simp only [closeStreamReply, asStream_of_val hx, hs, itemWord]

theorem closeStreamReply_of_closed (hs : ∀ info, (s.stream x).state ≠ .live info) :
    closeStreamReply cmd s = refuse .streamClosed [.bytes 1 (streamStateCode (s.stream x).state)] s := by
  simp only [closeStreamReply, asStream_of_val hx]
  split
  · next h => rw [h]
  · next h => rw [h]
  · next h => exact absurd h (hs _)

end

end

end Sys2Proof.Machine

open Sys2Proof Sys2Proof.Machine

/-- Settles O41, by the cases of the two commands: an accepted one writes the record of its stream and no other. -/
theorem streamsOpenAndClose : Obligations.StreamsOpenAndClose := by
  have opened : ∀ {s : State} {p : PortId} {cmd : Cmd} {r : Reply}, s.passes p .openStream cmd →
      openStreamReply p cmd s = r → exec (.openStream p) s = .next (finishCommand p cmd r) := fun hpass hr =>
    (exec_rowOf_of_passes hpass 0).trans (by rw [bodyOf, hr])
  have closed : ∀ {s : State} {p : PortId} {cmd : Cmd} {r : Reply}, s.passes p .closeStream cmd →
      closeStreamReply cmd s = r → exec (.closeStream p) s = .next (finishCommand p cmd r) := fun hpass hr =>
    (exec_rowOf_of_passes hpass 0).trans (by rw [bodyOf, hr])
  refine ⟨fun s p cmd => ⟨fun hpass hbad => opened hpass (openStreamReply_of_bad hbad),
    fun hpass hbad => closed hpass (closeStreamReply_of_large hbad)⟩, fun s p cmd x hx => ⟨?_, fun hpass => ⟨?_, ?_⟩⟩⟩
  · intro hpass pr cls hpr hcls
    refine ⟨fun hidle => ⟨_, opened hpass (openStreamReply_of_idle hx hpr hcls hidle), rfl, stream_setStream_self s x _,
      demand_setStream_live s x (s.stream x) _, fun y hy => stream_setStream_of_ne s _ hy⟩,
      fun hbusy => opened hpass (openStreamReply_of_busy hx hpr hcls hbusy)⟩
  · intro info hlive
    exact ⟨_, closed hpass (closeStreamReply_of_live hx hlive), rfl, stream_setStream_self s x _,
      fun y hy => stream_setStream_of_ne s _ hy⟩
  · exact fun hs => closed hpass (closeStreamReply_of_closed hx hs)
end

section
namespace Sys2Proof.Machine

open Sys2Proof

/-! ## The drain (R83) -/

/-! ### The cells with a carriage of a stream -/

/-- The cell of the carriage under a key, when it is a carriage of stream `x`. -/
def cellOfKey (x : StreamId) (key : Nat) : Option CellId :=
  if h : key / 16 < 1024 then (if key % 16 = x.val then some ⟨key / 16, h⟩ else none) else none

theorem cellsWith_eq (s : State) (x : StreamId) : s.cellsWith x = (s.carriages.map (·.1)).filterMap (cellOfKey x) := by
  rw [List.filterMap_map]
  rfl

theorem cellOfKey_eq_some {x : StreamId} {key : Nat} {c : CellId} : cellOfKey x key = some c ↔ key = carriageKey c x := by
  unfold cellOfKey carriageKey
  split
  · split
    · simp only [Option.some.injEq, Fin.ext_iff]
      omega
    · simp only [reduceCtorEq, false_iff]
      omega
  · simp only [reduceCtorEq, false_iff]
    omega

theorem mem_cellsWith (s : State) (x : StreamId) (c : CellId) : c ∈ s.cellsWith x ↔ (s.carriage? c x).isSome = true := by
  rw [cellsWith_eq, List.mem_filterMap, State.carriage?, find_isSome]
  simp only [cellOfKey_eq_some, exists_eq_right]

/-- The cells come in ascending order. -/
theorem cellsWith_sorted {s : State} (hw : tableWf s.carriages = true) (x : StreamId) : (s.cellsWith x).Pairwise (· < ·) := by
  rw [cellsWith_eq, List.pairwise_filterMap]
  refine (keys_sorted_from hw).imp fun {a b} hab c hc d hd => ?_
  rw [cellOfKey_eq_some] at hc hd
  rw [hc, hd] at hab
  simp only [carriageKey] at hab
  exact Fin.lt_def.2 (by omega)

theorem length_cellsWith {s : State} (hkeys : ∀ e ∈ s.carriages, e.1 < 16384) (x : StreamId) :
    (s.cellsWith x).length = s.carriages.countP fun e => decide (e.1 % 16 = x.val) := by
  have hcell : ∀ e ∈ s.carriages, (cellOfKey x e.1).isSome = decide (e.1 % 16 = x.val) := fun e he => by
    have := hkeys e he
    rw [cellOfKey, dif_pos (by omega)]
    split
    · next h => simp [h]
    · next h => simp [h]
  rw [cellsWith_eq, List.filterMap_map, List.length_filterMap_eq_countP]
  exact List.countP_congr fun e he => by rw [Function.comp, hcell e he]

/-! ### The entries taken off the lists -/

theorem findSub_isSome (subs : List Subscription) (x : StreamId) :
    (findSub subs x).isSome = decide (x ∈ subs.map (·.stream)) := by
  rw [findSub, Bool.eq_iff_iff, List.find?_isSome]
  simp

theorem filter_ne_of_not_mem {subs : List Subscription} {x : StreamId} (h : x ∉ subs.map (·.stream)) :
    (subs.filter fun e => decide (e.stream ≠ x)) = subs :=
  List.filter_eq_self.2 fun _ he => decide_eq_true fun heq => h (heq ▸ List.mem_map_of_mem he)

/-- A station without its entry for a stream. -/
def Station.without (x : StreamId) (st : Station) : Station :=
  { st with subs := st.subs.filter fun e => decide (e.stream ≠ x) }

theorem Station.without_of_not_mem {st : Station} {x : StreamId} (h : x ∉ st.subs.map (·.stream)) : st.without x = st := by
  rw [Station.without, filter_ne_of_not_mem h]

theorem station?_removeSub_self (s : State) (h : Handle) (x : StreamId) :
    (s.removeSub h x).station? h = (s.station? h).map (Station.without x) := by
  cases hst : s.station? h with
  | none => simp only [State.removeSub, hst, Option.map_none]
  | some st =>
    rw [removeSub_eq hst]
    exact station?_setStation_self s h _

/-- A stream's entries taken off the lists of some stations. -/
def State.removeHeld (s : State) (x : StreamId) (hs : List Handle) : State :=
  hs.foldl (fun s h => s.removeSub h x) s

theorem removeHeld_rest (s : State) (x : StreamId) (hs : List Handle) :
    ∃ sa sr, s.removeHeld x hs = { s with stations := sa, streams := sr } := by
  unfold State.removeHeld
  induction hs generalizing s with
  | nil => exact ⟨_, _, rfl⟩
  | cons h hs ih =>
    obtain ⟨sa, sr, hr⟩ := removeSub_rest s h x
    obtain ⟨sa', sr', ht⟩ := ih (s.removeSub h x)
    exact ⟨sa', sr', by rw [List.foldl_cons, ht, hr]⟩

theorem station?_removeHeld (s : State) (x : StreamId) (hs : List Handle) (hn : hs.Nodup) (g : Handle) :
    (s.removeHeld x hs).station? g = if g ∈ hs then (s.station? g).map (Station.without x) else s.station? g := by
  unfold State.removeHeld
  induction hs generalizing s with
  | nil => simp
  | cons h hs ih =>
    rw [List.nodup_cons] at hn
    rw [List.foldl_cons, ih _ hn.2]
    by_cases hg : g = h
    · subst hg
      simp [hn.1, station?_removeSub_self]
    · simp [hg, station?_removeSub_of_ne s hg]

/-- Every entry taken off lowers the held figure of the stream by one (R91). -/
theorem stream_removeHeld (s : State) (x : StreamId) (hs : List Handle) (hn : hs.Nodup)
    (hlive : ∀ h ∈ hs, (s.station? h).isSome = true) (y : StreamId) :
    (s.removeHeld x hs).stream y =
      if y = x then { s.stream x with held := (s.stream x).held - hs.length } else s.stream y := by
  unfold State.removeHeld
  induction hs generalizing s with
  | nil =>
    split
    · next hy => rw [hy]; rfl
    · rfl
  | cons h hs ih =>
    rw [List.nodup_cons] at hn
    obtain ⟨st, hst⟩ := Option.isSome_iff_exists.1 (hlive h (by simp))
    have live : ∀ g ∈ hs, ((s.removeSub h x).station? g).isSome = true := fun g hg => by
      rw [station?_removeSub_of_ne s (fun heq : g = h => hn.1 (heq ▸ hg))]
      exact hlive g (by simp [hg])
    rw [List.foldl_cons, ih _ hn.2 live, stream_removeSub hst, stream_removeSub hst, List.length_cons]
    split
    · simp [Nat.sub_sub, Nat.add_comm]
    · rfl

/-! ### The carriages taken off the table -/

/-- A stream's carriages taken off the table and off the lists of some cells. -/
def State.dropCarriages (s : State) (x : StreamId) (cs : List CellId) : State :=
  cs.foldl (fun s c => s.dropCarriage c x) s

theorem dropCarriages_rest (s : State) (x : StreamId) (cs : List CellId) :
    ∃ ro ca, s.dropCarriages x cs = { s with roster := ro, carriages := ca } := by
  unfold State.dropCarriages
  induction cs generalizing s with
  | nil => exact ⟨_, _, rfl⟩
  | cons c cs ih =>
    obtain ⟨ro, ca, ht⟩ := ih (s.dropCarriage c x)
    exact ⟨ro, ca, ht⟩

theorem carriage?_dropCarriage (s : State) (c d : CellId) (x y : StreamId) :
    (s.dropCarriage c x).carriage? d y = if d = c ∧ y = x then none else s.carriage? d y := by
  split
  · next h => rw [h.1, h.2]; exact carriage?_eraseCarriage_self s c x
  · next h => exact carriage?_eraseCarriage_of_ne s h

theorem carriage?_dropCarriages (s : State) (x : StreamId) (cs : List CellId) (d : CellId) (y : StreamId) :
    (s.dropCarriages x cs).carriage? d y = if d ∈ cs ∧ y = x then none else s.carriage? d y := by
  unfold State.dropCarriages
  induction cs generalizing s with
  | nil => simp
  | cons c cs ih =>
    rw [List.foldl_cons, ih, carriage?_dropCarriage]
    by_cases hd : d = c <;> by_cases hy : y = x <;> simp [hd, hy]

/-- A cell's roster entry without a stream on its carriage list. -/
def RosterEntry.without (x : StreamId) (e : RosterEntry) : RosterEntry :=
  { e with carriages := e.carriages.filter fun y => decide (y ≠ x) }

theorem RosterEntry.without_without (x : StreamId) (e : RosterEntry) : (e.without x).without x = e.without x := by
  simp [RosterEntry.without]

theorem RosterEntry.without_of_not_mem {e : RosterEntry} {x : StreamId} (h : x ∉ e.carriages) : e.without x = e := by
  have : (e.carriages.filter fun y => decide (y ≠ x)) = e.carriages :=
    List.filter_eq_self.2 fun y hy => decide_eq_true fun heq => h (heq ▸ hy)
  rw [RosterEntry.without, this]

theorem rosterEntry_dropCarriage (s : State) (c d : CellId) (x : StreamId) :
    (s.dropCarriage c x).rosterEntry d = if c = d then (s.rosterEntry c).without x else s.rosterEntry d :=
  rosterEntry_setRoster _ c d _

theorem rosterEntry_dropCarriages (s : State) (x : StreamId) (cs : List CellId) (d : CellId) :
    (s.dropCarriages x cs).rosterEntry d = if d ∈ cs then (s.rosterEntry d).without x else s.rosterEntry d := by
  unfold State.dropCarriages
  induction cs generalizing s with
  | nil => simp
  | cons c cs ih =>
    rw [List.foldl_cons, ih, rosterEntry_dropCarriage]
    by_cases hd : c = d
    · subst hd
      simp [RosterEntry.without_without]
    · simp [hd, Ne.symm hd]

/-! ### The drain of one stream -/

/-- The drain of a stream but for its notice (R83). -/
def State.drained (s : State) (x : StreamId) : State :=
  let t := (s.removeHeld x (s.holders x)).dropCarriages x (s.cellsWith x)
  t.setStream x { t.stream x with state := .idle, subscribers := 0, carriages := 0 }

theorem drainStream_eq (s : State) (x : StreamId) (tag : Tag) :
    s.drainStream x tag =
      (s.drained x).notify isReplayPort (.streamEnded (s.holders x).length (s.cellsWith x).length x) tag := rfl

theorem mem_holders {s : State} (hw : tableWf s.stations = true) (x : StreamId) (h : Handle) :
    h ∈ s.holders x ↔ ∃ st, s.station? h = some st ∧ x ∈ st.subs.map (·.stream) := by
  rw [State.holders, mem_due hw fun st => (findSub st.subs x).isSome]
  simp only [findSub_isSome, decide_eq_true_eq]

theorem length_holders (s : State) (x : StreamId) :
    (s.holders x).length = s.stations.countP fun e => decide (x ∈ e.2.subs.map (·.stream)) := by
  rw [State.holders, List.length_map, ← List.countP_eq_length_filter]
  simp only [findSub_isSome]

section
variable {s : State} {x : StreamId}

theorem drained_rest : s.drained x = { s with
    stations := (s.drained x).stations, roster := (s.drained x).roster, streams := (s.drained x).streams
    carriages := (s.drained x).carriages } := by
  obtain ⟨sa, sr, hr⟩ := removeHeld_rest s x (s.holders x)
  obtain ⟨ro, ca, hd⟩ := dropCarriages_rest (s.removeHeld x (s.holders x)) x (s.cellsWith x)
  have changed : (s.removeHeld x (s.holders x)).dropCarriages x (s.cellsWith x) =
      { s with stations := sa, roster := ro, streams := sr, carriages := ca } := by
    rw [hd, hr]
  rw [State.drained, changed]
  rfl

/-- The entry of the stream leaves every list (R83). -/
theorem station?_drained (hw : tableWf s.stations = true) (h : Handle) :
    (s.drained x).station? h = (s.station? h).map (Station.without x) := by
  obtain ⟨ro, ca, hd⟩ := dropCarriages_rest (s.removeHeld x (s.holders x)) x (s.cellsWith x)
  have kept : (s.drained x).station? h = (s.removeHeld x (s.holders x)).station? h := by
    simp only [State.drained, hd]
    rfl
  have hn : (s.holders x).Nodup := (keys_filter_sorted hw _).imp fun hlt => Nat.ne_of_lt hlt
  rw [kept, station?_removeHeld s x _ hn]
  split
  · rfl
  · next hno =>
    cases hst : s.station? h with
    | none => rfl
    | some st =>
      rw [mem_holders hw] at hno
      rw [Option.map_some, Station.without_of_not_mem fun hx => hno ⟨st, hst, hx⟩]

theorem carriage?_drained (c : CellId) (y : StreamId) :
    (s.drained x).carriage? c y = if y = x then none else s.carriage? c y := by
  obtain ⟨sa, sr, hr⟩ := removeHeld_rest s x (s.holders x)
  refine (carriage?_dropCarriages (s.removeHeld x (s.holders x)) x (s.cellsWith x) c y).trans ?_
  have kept : (s.removeHeld x (s.holders x)).carriage? c y = s.carriage? c y := by rw [hr]; rfl
  rw [kept]
  simp only [mem_cellsWith]
  by_cases hy : y = x
  · subst hy
    by_cases hk : s.carriage? c y = none <;> simp [hk]
  · simp [hy]

theorem rosterEntry_drained (hlists : ∀ c x, x ∈ (s.rosterEntry c).carriages ↔ (s.carriage? c x).isSome = true) (c : CellId) :
    (s.drained x).rosterEntry c = (s.rosterEntry c).without x := by
  obtain ⟨sa, sr, hr⟩ := removeHeld_rest s x (s.holders x)
  refine (rosterEntry_dropCarriages (s.removeHeld x (s.holders x)) x (s.cellsWith x) c).trans ?_
  have kept : (s.removeHeld x (s.holders x)).rosterEntry c = s.rosterEntry c := by rw [hr]; rfl
  rw [kept]
  split
  · rfl
  · next hno =>
    rw [mem_cellsWith] at hno
    rw [RosterEntry.without_of_not_mem (mt (hlists c x).1 hno)]

theorem stream_drained (hw : tableWf s.stations = true) (y : StreamId) :
    (s.drained x).stream y =
      if y = x then ⟨.idle, 0, 0, (s.stream x).held - (s.holders x).length⟩ else s.stream y := by
  obtain ⟨ro, ca, hd⟩ := dropCarriages_rest (s.removeHeld x (s.holders x)) x (s.cellsWith x)
  have kept : ∀ z, ((s.removeHeld x (s.holders x)).dropCarriages x (s.cellsWith x)).stream z =
      (s.removeHeld x (s.holders x)).stream z := fun z => by rw [hd]; rfl
  have hn : (s.holders x).Nodup := (keys_filter_sorted hw _).imp fun hlt => Nat.ne_of_lt hlt
  have removed := stream_removeHeld s x (s.holders x) hn fun h hh => by
    obtain ⟨st, hst, _⟩ := (mem_holders hw x h).1 hh
    rw [hst]
    rfl
  by_cases hy : y = x
  · subst hy
    rw [State.drained, stream_setStream_self, kept, removed, if_pos rfl, if_pos rfl]
  · rw [State.drained, stream_setStream_of_ne _ _ hy, kept, removed, if_neg hy, if_neg hy]

theorem completeDrain_of_draining {info : StreamInfo} {tag : Tag} {f : FrameNo}
    (hs : (s.stream x).state = .draining info tag f) : s.completeDrain x = s.drainStream x tag := by
  simp only [State.completeDrain, hs]

end

theorem drainDue_iff (now : FrameNo) (st : StreamState) :
    drainDue now st = true ↔ ∃ info tag f, st = .draining info tag f ∧ f ≠ now := by
  cases st with
  | idle => simp [drainDue]
  | live i => simp [drainDue]
  | draining i tag f => simp [drainDue]

end Sys2Proof.Machine

open Sys2Proof Sys2Proof.Machine

/-- Settles O44: the streams due are those closed in another frame, and the drain of one is told step by step: entries,
carriages, record, notice. -/
theorem drainEndsTheStream : Obligations.DrainEndsTheStream := by
  refine ⟨fun s => ⟨s.drainsDue, drainsDue_sorted s, fun x => ?_, rfl⟩, ?_⟩
  · rw [mem_drainsDue, drainDue_iff]
  · intro s x info tag f hw hlists hs subscriptions carriages
    obtain ⟨_, hkeys, _, hcells⟩ := hlists
    refine ⟨s.drained x, ?_, drained_rest, fun h => station?_drained hw h, fun c y => carriage?_drained c y,
      fun c => rosterEntry_drained (fun c => (hcells c).1) c, ?_, fun y hy => ?_⟩
    · rw [completeDrain_of_draining hs, drainStream_eq, length_holders, length_cellsWith hkeys]
    · rw [stream_drained hw, if_pos rfl, length_holders]
    · rw [stream_drained hw, if_neg hy]
end

section
namespace Sys2Proof.Machine

open Sys2Proof

/-! ## What a command or an act does to stations, tickets, streams and carriages -/

/-- `t` has the stations, tickets, streams, carriages and roster of `s`. -/
structure Beside (s t : State) : Prop where
  stations : t.stations = s.stations
  tickets : t.tickets = s.tickets
  streams : t.streams = s.streams
  carriages : t.carriages = s.carriages
  roster : t.roster = s.roster

theorem Beside.refl (s : State) : Beside s s := ⟨rfl, rfl, rfl, rfl, rfl⟩

theorem Beside.trans {s t u : State} (b : Beside s t) (b' : Beside t u) : Beside s u :=
  ⟨b'.stations.trans b.stations, b'.tickets.trans b.tickets, b'.streams.trans b.streams, b'.carriages.trans b.carriages,
    b'.roster.trans b.roster⟩

theorem Beside.notify (s : State) (dest : PortUnit → Bool) (n : Notice) (tag : Tag) : Beside s (s.notify dest n tag) :=
  ⟨rfl, rfl, rfl, rfl, rfl⟩

theorem Beside.nextFrame (s : State) (now : Instant) : Beside s (s.advanceFrame now).raiseFrame :=
  ⟨rfl, rfl, rfl, rfl, rfl⟩

theorem Beside.setClock (s : State) (c : ClockState) (strobe : Instant) : Beside s (s.setClock c strobe) :=
  ⟨rfl, rfl, rfl, rfl, rfl⟩

theorem Beside.finishCommand (p : PortId) (cmd : Cmd) (r : Reply) : Beside r.state (finishCommand p cmd r) :=
  ⟨rfl, rfl, rfl, rfl, rfl⟩

theorem BusFrame.toBeside {s t : State} (f : BusFrame s t) : Beside s t := by
  obtain ⟨⟨po, ar, an, rfl⟩, _⟩ := f
  exact ⟨rfl, rfl, rfl, rfl, rfl⟩

theorem Beside.startBuild (s : State) (f : FrameNo) (order : List SectorId) : Beside s (s.startBuild f order) := by
  cases order with
  | nil => exact ⟨rfl, rfl, rfl, rfl, rfl⟩
  | cons sec rest => exact ⟨rfl, rfl, rfl, rfl, rfl⟩

theorem Beside.setPolicies (s : State) (secs : List SectorId) (t : Nat) (pr : Priority) :
    Beside s (s.setPolicies secs t pr) := by
  unfold State.setPolicies
  induction secs generalizing s with
  | nil => exact .refl s
  | cons sec secs ih =>
    refine Beside.trans ?_ (ih (s.setSector sec { s.sector sec with reservation := t, priority := pr }))
    exact ⟨rfl, rfl, rfl, rfl, rfl⟩

theorem Beside.momentPulse (s : State) (now : Instant) : Beside s (s.momentPulse now) := by
  unfold State.momentPulse
  split
  · exact .refl s
  · exact .refl s
  · dsimp only
    refine Beside.trans ?_ (.notify _ _ _ _)
    unfold State.openSurge
    split
    · exact ⟨rfl, rfl, rfl, rfl, rfl⟩
    · exact ⟨rfl, rfl, rfl, rfl, rfl⟩

theorem Beside.actSurgeEnd (s : State) : Beside s s.actSurgeEnd := by
  unfold State.actSurgeEnd
  split
  · exact .refl s
  · split
    · exact ⟨rfl, rfl, rfl, rfl, rfl⟩
    · exact .refl s

/-! ### The kinds of change -/

/-- All that a command or an act on one record does to the stations, the tickets, the streams and the carriages of `s`: each
kind with what its checks have found. -/
inductive RecordChange (s : State) : State → Prop where
  | beside {t : State} (h : Beside s t) : RecordChange s t
  | cleared {t : State} (hst : t.stations = []) (hstreams : t.streams = []) (hcarriages : t.carriages = [])
      (hroster : t.roster = []) : RecordChange s t
  | created {g : Handle} (hnone : s.station? g = none) (rest : HandleStack) (a : BitVec 48) (c : CellId) (l : Level) :
      RecordChange s (s.createStation g rest a c l)
  | revived {g : Handle} {st : Station} (hst : s.station? g = some st) (hs : isLingering st.state = true) (c : CellId)
      (l : Level) (tag : Tag) : RecordChange s (s.reviveStation g st c l tag)
  | lingers {g : Handle} {st : Station} (hst : s.station? g = some st) (hs : st.state = .associated) (tag : Tag) :
      RecordChange s (s.enterLinger g st tag)
  | handedOver {g : Handle} {st : Station} {c : CellId} {deadline : FrameNo} {tag : Tag} (hst : s.station? g = some st)
      (hs : st.state = .inHandover c deadline tag) (by_ : Completion) : RecordChange s (s.completeHandover g by_)
  | abandoned {g : Handle} {st : Station} {c : CellId} {deadline : FrameNo} {tag : Tag} (hst : s.station? g = some st)
      (hs : st.state = .inHandover c deadline tag) (lapsed : Bool) : RecordChange s (s.abandonClaim g lapsed)
  | claimed {g : Handle} {st : Station} (hst : s.station? g = some st) (hs : st.state = .associated) (c : CellId)
      (tag : Tag) : RecordChange s (s.acceptClaim g st c tag)
  | releveled {g : Handle} {st : Station} (hst : s.station? g = some st) (l : Level) (tag : Tag) :
      RecordChange s (s.replaceLevel g st l tag)
  | expired {g : Handle} {st : Station} {deadline : FrameNo} {tag : Tag} (hst : s.station? g = some st)
      (hs : st.state = .lingering deadline tag) : RecordChange s (s.expireLinger g)
  | loaded (ts : List Ticket) : RecordChange s (s.loadAll ts)
  | admitted {n : TicketHandle} {k : Ticket} (hk : s.ticket? n = some k) (g : GateId) (tag : Tag) :
      RecordChange s (s.admitAt n k g tag)
  | exited {n : TicketHandle} {k : Ticket} (hk : s.ticket? n = some k) (tag : Tag) : RecordChange s (s.exitFrom n k tag)
  | voided {n : TicketHandle} {k : Ticket} (hk : s.ticket? n = some k) (tag : Tag) : RecordChange s (s.voidRecord n k tag)
  | rebound (g : Handle) (tag : Tag) : RecordChange s (s.evaluate g tag)
  | bound {g : Handle} {st : Station} {n : TicketHandle} {k : Ticket} (hst : s.station? g = some st)
      (hk : s.ticket? n = some k) (hunbound : k.station = none) (tag : Tag) : RecordChange s (s.makeBinding g n tag)
  | moved {g earlier : Handle} {st : Station} {n : TicketHandle} {k : Ticket} (hst : s.station? g = some st)
      (hk : s.ticket? n = some k) (hearlier : k.station = some earlier) (hne : g ≠ earlier) (tag : Tag) :
      RecordChange s (s.moveBinding earlier g n tag)
  | unbound {g : Handle} {n : TicketHandle} {k : Ticket} (hk : s.ticket? n = some k) (hg : k.station = some g) (tag : Tag) :
      RecordChange s ((s.clearBinding g n .unbind tag).evaluate g tag)
  | opened {x : StreamId} (hs : (s.stream x).state = .idle) (info : StreamInfo) :
      RecordChange s (s.setStream x { s.stream x with state := .live info })
  | rated {x : StreamId} {info : StreamInfo} (hs : (s.stream x).state = .live info) (rate : Nat) (tag : Tag) :
      RecordChange s
        ((s.setStream x { s.stream x with state := .live { info with rate := rate } }).adjustCarriages x tag).state
  | closed {x : StreamId} {info : StreamInfo} (hs : (s.stream x).state = .live info) (tag : Tag) (f : FrameNo) :
      RecordChange s (s.setStream x { s.stream x with state := .draining info tag f })
  | drained {x : StreamId} {info : StreamInfo} {tag : Tag} {f : FrameNo} (hs : (s.stream x).state = .draining info tag f) :
      RecordChange s (s.completeDrain x)
  | subscribed {g : Handle} {st : Station} {x : StreamId} {info : StreamInfo} (hst : s.station? g = some st)
      (hnew : findSub st.subs x = none) (hroom : st.subs.length < 2) (hs : (s.stream x).state = .live info) (tag : Tag) :
      RecordChange s ((s.appendSub g st x).evaluateWith g tag true (some x))
  | unsubscribed (g : Handle) (x : StreamId) (tag : Tag) : RecordChange s (s.leaveAndRemove g x tag)

theorem RecordChange.refl (s : State) : RecordChange s s := .beside (.refl s)

/-! ### The acts -/

theorem change_expireClaim (s : State) (g : Handle) : RecordChange s (s.expireClaim g) := by
  rcases expireClaim_cases s g with he | ⟨st, c, deadline, tag, hst, hs, he⟩
  · rw [he]
    exact .refl s
  · rw [he]
    split
    · exact .abandoned hst hs true
    · exact .handedOver hst hs .deadline

theorem change_expireLinger (s : State) (g : Handle) : RecordChange s (s.expireLinger g) := by
  cases hst : s.station? g with
  | none => simpa only [State.expireLinger, hst] using .refl s
  | some st =>
    cases hs : st.state with
    | associated => simpa only [State.expireLinger, hst, hs] using .refl s
    | inHandover c deadline tag => simpa only [State.expireLinger, hst, hs] using .refl s
    | lingering deadline tag => exact .expired hst hs

theorem change_completeDrain (s : State) (x : StreamId) : RecordChange s (s.completeDrain x) := by
  cases hs : (s.stream x).state with
  | idle => simpa only [State.completeDrain, hs] using .refl s
  | live i => simpa only [State.completeDrain, hs] using .refl s
  | draining i tag f => exact .drained hs

/-! ### The commands -/

section
variable (p : PortId) (cmd : Cmd) (s : State)

theorem change_declarePort : RecordChange s (declarePortReply p cmd s).state := by
  have declared : ∀ r, RecordChange s (s.declare p r) := fun r => .beside ⟨rfl, rfl, rfl, rfl, rfl⟩
  unfold declarePortReply
  split
  · exact declared _
  · unfold declareCell
    split
    · split
      · exact .refl s
      · split
        · exact .refl s
        · exact declared _
    · exact .refl s
    · exact .refl s
  · exact declared _
  · exact declared _
  · exact .refl s

theorem change_setVenue : RecordChange s (setVenueReply cmd s).state := by
  unfold setVenueReply
  split
  · exact .refl s
  · split
    · exact .refl s
    · split
      · exact .refl s
      · exact .beside ⟨rfl, rfl, rfl, rfl, rfl⟩

theorem change_openMatch (now : Instant) : RecordChange s (openMatchReply now cmd s).state := by
  unfold openMatchReply
  split
  · exact .refl s
  · refine .beside (Beside.trans (Beside.trans ?_ (.startBuild _ _ _)) (.notify _ _ _ _))
    exact ⟨rfl, rfl, rfl, rfl, rfl⟩

/-- A new record stands under a handle that was free (R18, R24). -/
theorem change_associate (hs : s.handlesOk) : RecordChange s (associateReply p cmd s).state := by
  unfold associateReply
  split
  · exact .refl s
  · split
    · exact .refl s
    · split
      · exact .refl s
      · unfold associateAt
        dsimp only
        split
        · next g st hfound =>
          obtain ⟨_, hst⟩ := stationByAddress_eq_some.1 hfound
          split
          · exact .refl s
          · next hlingers =>
            split
            · exact .refl s
            · exact .revived hst (by simpa using hlingers) _ _ _
        · split
          · exact .refl s
          · split
            · exact .refl s
            · next g rest hpop =>
              obtain ⟨_, _, hstack, hlive, _, _⟩ := (handlesOk_iff s).1 hs
              obtain ⟨_, hfresh, _, _⟩ := popHandle_taken hstack hpop
              refine .created ?_ rest _ _ _
              rw [← Option.not_isSome_iff_eq_none, hlive]
              exact hfresh

theorem change_detach : RecordChange s (detachReply p cmd s).state := by
  unfold detachReply
  split
  · exact .refl s
  · next st hst =>
    have hst := station?_of_asStation hst
    split
    · exact .refl s
    · split
      · exact .refl s
      · split
        · exact .refl s
        · split
          · exact .refl s
          · next hs => exact .lingers hst hs cmd.tag
          · next hs => exact .handedOver hst hs .detach

theorem change_reportLevel : RecordChange s (reportLevelReply p cmd s).state := by
  unfold reportLevelReply
  split
  · exact .refl s
  · next st hst =>
    split
    · exact .refl s
    · dsimp only
      split
      · exact .refl s
      · exact .releveled (station?_of_asStation hst) _ cmd.tag

theorem change_claim : RecordChange s (claimReply p cmd s).state := by
  unfold claimReply
  split
  · exact .refl s
  · split
    · exact .refl s
    · split
      · exact .refl s
      · next st hst =>
        unfold claimStation
        split
        · exact .refl s
        · split
          · exact .refl s
          · split
            · exact .refl s
            · split
              · exact .refl s
              · exact .refl s
            · next hs =>
              split
              · exact .claimed (station?_of_asStation hst) hs _ cmd.tag
              · exact .refl s

theorem change_release : RecordChange s (releaseReply p cmd s).state := by
  unfold releaseReply
  split
  · exact .refl s
  · next st hst =>
    split
    · exact .refl s
    · split
      · exact .refl s
      · split
        · exact .refl s
        · split
          · exact .refl s
          · exact .refl s
          · next hs => exact .handedOver (station?_of_asStation hst) hs .release

theorem change_withdraw : RecordChange s (withdrawReply p cmd s).state := by
  unfold withdrawReply
  split
  · exact .refl s
  · next st hst =>
    split
    · exact .refl s
    · split
      · exact .refl s
      · exact .refl s
      · next hs =>
        split
        · exact .refl s
        · exact .abandoned (station?_of_asStation hst) hs false

theorem change_setSectorPolicy : RecordChange s (setSectorPolicyReply p cmd s).state := by
  unfold setSectorPolicyReply
  split
  · split
    · exact .refl s
    · exact .beside (.setPolicies s _ _ _)
  · exact .refl s
  · exact .refl s
  · exact .refl s

theorem change_loadTickets : RecordChange s (loadTicketsReply cmd s).state := by
  unfold loadTicketsReply
  split
  · exact .refl s
  · split
    · exact .refl s
    · split
      · exact .refl s
      · exact .loaded _

theorem change_admitTicket : RecordChange s (admitTicketReply cmd s).state := by
  unfold admitTicketReply
  split
  · exact .refl s
  · exact .refl s
  · exact .refl s
  · next g t k _ hnumber =>
    unfold admitTicketAt
    dsimp only
    split
    · exact .refl s
    · split
      · exact .refl s
      · split
        · exact .refl s
        · split
          · exact .refl s
          · split
            · exact .refl s
            · split
              · exact .refl s
              · exact .admitted (ticket?_of_number hnumber) g cmd.tag

theorem change_exitTicket : RecordChange s (exitTicketReply cmd s).state := by
  unfold exitTicketReply
  split
  · exact .refl s
  · split
    · exact .refl s
    · next t k hnumber =>
      split
      · exact .refl s
      · split
        · exact .refl s
        · exact .exited (ticket?_of_number hnumber) cmd.tag

theorem change_voidTicket : RecordChange s (voidTicketReply cmd s).state := by
  unfold voidTicketReply
  split
  · exact .refl s
  · next t k hnumber =>
    split
    · exact .refl s
    · exact .voided (ticket?_of_number hnumber) cmd.tag

theorem change_setZone : RecordChange s (setZoneReply cmd s).state := by
  unfold setZoneReply
  split
  · split
    · exact .refl s
    · exact .beside ⟨rfl, rfl, rfl, rfl, rfl⟩
  · exact .refl s
  · exact .refl s

theorem change_bindTicket : RecordChange s (bindTicketReply cmd s).state := by
  unfold bindTicketReply
  split
  · exact .refl s
  · next st hst =>
    have hst := station?_of_asStation hst
    split
    · exact .refl s
    · next t k hnumber =>
      have hk := ticket?_of_number hnumber
      unfold bindTicketTo
      split
      · exact .refl s
      · split
        · exact .rebound _ cmd.tag
        · next hother =>
          split
          · exact .refl s
          · split
            · next hunbound => exact .bound hst hk hunbound cmd.tag
            · next earlier hearlier =>
              split
              · exact .moved hst hk hearlier (fun heq => hother (by rw [heq, hearlier])) cmd.tag
              · exact .refl s

theorem change_unbindTicket : RecordChange s (unbindTicketReply cmd s).state := by
  unfold unbindTicketReply
  split
  · exact .refl s
  · next t k hnumber =>
    split
    · exact .refl s
    · next g hg => exact .unbound (ticket?_of_number hnumber) hg cmd.tag

theorem change_openStream : RecordChange s (openStreamReply p cmd s).state := by
  unfold openStreamReply
  split
  · split
    · next hs => exact .opened hs _
    · exact .refl s
    · exact .refl s
  · exact .refl s
  · exact .refl s
  · exact .refl s

theorem change_setStreamRate : RecordChange s (setStreamRateReply cmd s).state := by
  unfold setStreamRateReply
  split
  · exact .refl s
  · split
    · exact .refl s
    · exact .refl s
    · next hs => exact .rated hs _ cmd.tag

theorem change_closeStream : RecordChange s (closeStreamReply cmd s).state := by
  unfold closeStreamReply
  split
  · exact .refl s
  · split
    · exact .refl s
    · exact .refl s
    · next hs => exact .closed hs _ _

theorem change_subscribe : RecordChange s (subscribeReply cmd s).state := by
  unfold subscribeReply
  split
  · exact .refl s
  · split
    · exact .refl s
    · next st hst =>
      split
      · exact .refl s
      · exact .refl s
      · next hs =>
        unfold subscribeStation
        split
        · exact .refl s
        · next hnew =>
          split
          · exact .refl s
          · next hroom => exact .subscribed (station?_of_asStation hst) hnew (Nat.lt_of_not_le hroom) hs cmd.tag

theorem change_unsubscribe : RecordChange s (unsubscribeReply cmd s).state := by
  unfold unsubscribeReply
  split
  · exact .refl s
  · split
    · exact .refl s
    · split
      · exact .refl s
      · exact .unsubscribed _ _ cmd.tag

theorem change_armMoment : RecordChange s (armMomentReply cmd s).state := by
  unfold armMomentReply
  split
  · exact .beside ⟨rfl, rfl, rfl, rfl, rfl⟩
  · exact .refl s
  · exact .refl s

/-- Every command's reply is a change of one of these kinds. -/
theorem change_bodyOf (c : Command) (now : Instant) (hs : s.handlesOk) : RecordChange s (bodyOf c p now cmd s).state := by
  have query : ∀ {t : State}, t = s → RecordChange s t := by
    rintro t rfl
    exact .refl t
  cases c with
  | declarePort => exact change_declarePort p cmd s
  | setVenue => exact change_setVenue cmd s
  | openMatch => exact change_openMatch cmd s now
  | closeMatch => exact .cleared rfl rfl rfl rfl
  | readStation => exact query (readStationReply_state cmd s)
  | readTicket => exact query (readTicketReply_state cmd s)
  | readStream => exact query (readStreamReply_state cmd s)
  | readCarriage => exact query (readCarriageReply_state cmd s)
  | readZone => exact query (readZoneReply_state cmd s)
  | readCell => exact query (readCellReply_state cmd s)
  | associate => exact change_associate p cmd s hs
  | detach => exact change_detach p cmd s
  | reportLevel => exact change_reportLevel p cmd s
  | claim => exact change_claim p cmd s
  | release => exact change_release p cmd s
  | withdraw => exact change_withdraw p cmd s
  | setSectorPolicy => exact change_setSectorPolicy p cmd s
  | loadTickets => exact change_loadTickets cmd s
  | admitTicket => exact change_admitTicket cmd s
  | exitTicket => exact change_exitTicket cmd s
  | voidTicket => exact change_voidTicket cmd s
  | setZone => exact change_setZone cmd s
  | bindTicket => exact change_bindTicket cmd s
  | unbindTicket => exact change_unbindTicket cmd s
  | openStream => exact change_openStream p cmd s
  | setStreamRate => exact change_setStreamRate cmd s
  | closeStream => exact change_closeStream cmd s
  | subscribe => exact change_subscribe cmd s
  | unsubscribe => exact change_unsubscribe cmd s
  | armMoment => exact change_armMoment cmd s

end

/-! ### All rows -/

/-- A property that the changes of records, the changes beside them, the Plan Engine and the clearing of the match each keep
is kept by every row. The changes of a command begin where what was due is taken. -/
theorem Effect.keeps {I : State → Prop} {i : Instr} {s t : State} (he : Effect s i t) (hr : s.recordsAgree)
    (beside : ∀ {u v}, Beside u v → I u → I v) (cleared : ∀ u : State, I u.resetPart)
    (acts : ∀ (u : State) (g : Handle) (x : StreamId), I u → I (u.expireClaim g) ∧ I (u.expireLinger g) ∧ I (u.completeDrain x))
    (engine : ∀ u : State, I u → I u.planBoundary ∧ I u.finishBuild)
    (command : ∀ u, RecordChange s.settle u → I s.settle → I u) (h : I s) : I t := by
  have folded : ∀ {α : Type} {act : State → α → State}, (∀ u a, I u → I (act u a)) → ∀ (l : List α) (u : State), I u →
      I (l.foldl act u) := by
    intro α act hact l
    induction l with
    | nil => exact fun u hu => hu
    | cons a l ih => exact fun u hu => ih _ (hact u a hu)
  have claims : ∀ u, I u → I u.actClaimDeadline := fun u => folded (fun u g hu => (acts u g 0 hu).1) _ u
  have lingers : ∀ u, I u → I u.actLingerExpiry := fun u => folded (fun u g hu => (acts u g 0 hu).2.1) _ u
  have drains : ∀ u, I u → I u.actDrainCompletion := fun u => folded (fun u x hu => (acts u 0 x hu).2.2) _ u
  have surge : ∀ u, I u → I u.actSurgeEnd := fun u => beside (.actSurgeEnd u)
  have act : ∀ u a, I u → I (u.act a) := by
    intro u a
    cases a with
    | claimDeadline => exact claims u
    | lingerExpiry => exact lingers u
    | drainCompletion => exact drains u
    | surgeEnd => exact surge u
  have settled : I s.settle := surge _ (drains _ (lingers _ (claims s h)))
  have boundary : ∀ now early, I (s.settle.boundary now early) := fun now early =>
    (engine _ (folded act early _ (beside (.nextFrame s.settle now) settled))).1
  have clocked : ∀ now early c strobe, I ((s.settle.boundary now early).setClock c strobe) := fun now early c strobe =>
    beside (.setClock _ c strobe) (boundary now early)
  cases he with
  | reset => exact cleared s
  | act a => exact act s a h
  | command c p now =>
    rcases serve_effect p c (bodyOf c p now) s.settle with hb | ⟨cmd, _, hserved⟩
    · exact beside hb.toBeside settled
    · rw [hserved]
      exact beside (.finishCommand p cmd _)
        (command _ (change_bodyOf p cmd s.settle c now (recordsAgree_settle s hr).1) settled)
  | strobe now early =>
    unfold State.frameStrobe
    split
    · exact settled
    · split
      · exact clocked _ _ _ _
      · exact settled
    · split
      · exact beside (.notify _ _ _ _) (clocked _ _ _ _)
      · exact settled
  | loss early =>
    unfold State.strobeLossExpiry
    split
    · exact settled
    · exact settled
    · exact beside (.notify _ _ _ _) (clocked _ _ _ _)
  | divider early =>
    unfold State.dividerExpiry
    split
    · exact settled
    · exact settled
    · exact boundary _ _
  | pulse now => exact beside (.momentPulse _ now) settled
  | build => exact (engine _ settled).2
  | bus i t hb => exact beside hb.toBeside settled

end Sys2Proof.Machine
end

section
namespace Sys2Proof.Machine

open Sys2Proof

/-! ## Rate changes (R79, R80) -/

/-! ### The mode evaluation of one carriage -/

/-- What a mode evaluation makes of a carriage: the threshold, the admission cap of its cell, the costs of the cell's MULTICAST
carriages and the demand of its stream decide (R114 to R117). -/
def evaluatedCarriage (threshold cap others demand : Nat) (k : Carriage) : Carriage :=
  if k.mode ≠ .multicast ∧ threshold ≤ k.count then
    if others + cost demand (payload k.minLevel) ≤ cap then { k with mode := .multicast, balance := 0, starved := false }
    else { k with mode := .held, balance := 0 }
  else if k.mode ≠ .unicast ∧ k.count + 2 ≤ threshold then { k with mode := .unicast, balance := 0, starved := false }
  else k

theorem evaluatedCarriage_members (threshold cap others demand : Nat) (k : Carriage) :
    let k' := evaluatedCarriage threshold cap others demand k
    k'.count = k.count ∧ k'.hist = k.hist ∧ k'.minLevel = k.minLevel ∧ k'.lastGrant = k.lastGrant := by
  unfold evaluatedCarriage
  split
  · split <;> exact ⟨rfl, rfl, rfl, rfl⟩
  · split <;> exact ⟨rfl, rfl, rfl, rfl⟩

/-- A carriage that stays MULTICAST stands as it was; one that changes its mode, or is HELD, has balance 0. -/
theorem evaluatedCarriage_balance (threshold cap others demand : Nat) (k : Carriage) :
    let k' := evaluatedCarriage threshold cap others demand k
    k' = k ∨ k'.balance = 0 ∧ (k.mode = .multicast → k'.mode ≠ .multicast) ∧
      (k'.starved = false ∨ k.mode ≠ .multicast ∧ k'.starved = k.starved) := by
  unfold evaluatedCarriage
  split
  · next h =>
    split
    · exact .inr ⟨rfl, fun hm => absurd hm h.1, .inl rfl⟩
    · exact .inr ⟨rfl, fun _ => by simp, .inr ⟨h.1, rfl⟩⟩
  · split
    · exact .inr ⟨rfl, fun _ => by simp, .inl rfl⟩
    · exact .inl rfl

/-- A mode evaluation changes the carriages and the ports, and nothing else. -/
theorem evalMode_rest (s : State) (c : CellId) (x : StreamId) (tag : Tag) :
    ∃ ca po, s.evalMode c x tag = { s with carriages := ca, ports := po } := by
  unfold State.evalMode
  split
  · exact ⟨_, _, rfl⟩
  · dsimp only
    split
    · split
      · exact ⟨_, _, rfl⟩
      · split
        · exact ⟨_, _, rfl⟩
        · exact ⟨_, _, rfl⟩
    · split
      · exact ⟨_, _, rfl⟩
      · exact ⟨_, _, rfl⟩

theorem carriage?_evalMode_self {s : State} {c : CellId} {x : StreamId} {k : Carriage} (hk : s.carriage? c x = some k)
    (tag : Tag) : (s.evalMode c x tag).carriage? c x =
      some (evaluatedCarriage s.venue.threshold (s.admissionCap c) (s.multicastSum c) (s.demand x) k) := by
  simp only [State.evalMode, hk, evaluatedCarriage]
  split
  · split
    · exact carriage?_setCarriage_self ..
    · split
      · exact carriage?_setCarriage_self ..
      · exact carriage?_setCarriage_self ..
  · split
    · exact carriage?_setCarriage_self ..
    · exact hk

theorem carriage?_evalMode_of_ne (s : State) {c d : CellId} {x y : StreamId} (h : ¬(d = c ∧ y = x)) (tag : Tag) :
    (s.evalMode c x tag).carriage? d y = s.carriage? d y :=
  (evalMode_frame (hs := fun _ => False) (cs := fun d y => d = c ∧ y = x) s ⟨rfl, rfl⟩ tag).carriages d y h

/-- The sum of a cell depends on its list, its carriages and the demands alone. -/
theorem multicastSum_congr {s t : State} {c : CellId} (hr : t.roster = s.roster) (hs : t.streams = s.streams)
    (hc : ∀ y, t.carriage? c y = s.carriage? c y) : t.multicastSum c = s.multicastSum c := by
  have hd : ∀ y, t.demand y = s.demand y := fun y => by simp only [State.demand, State.stream, hs]
  simp only [State.multicastSum, State.rosterEntry, hr, hc, hd]

/-! ### The adjustment of one carriage -/

/-- What a rate change makes of the carriage `k` of a cell and a stream, the demand being that of the state (R80). -/
def State.adjusted (s : State) (c : CellId) (x : StreamId) (k : Carriage) : Carriage :=
  evaluatedCarriage s.venue.threshold (s.admissionCap c)
    ((s.setCarriage c x (raiseBalance k (s.demand x))).multicastSum c) (s.demand x) (raiseBalance k (s.demand x))

/-- What becomes of a carriage depends on its own cell's carriages alone. -/
theorem adjusted_congr {s : State} {c : CellId} {x : StreamId} {ca : Table Carriage} {po : Ports}
    (hc : ∀ y, ({ s with carriages := ca, ports := po } : State).carriage? c y = s.carriage? c y) (k : Carriage) :
    ({ s with carriages := ca, ports := po } : State).adjusted c x k = s.adjusted c x k := by
  have sums : (({ s with carriages := ca, ports := po } : State).setCarriage c x (raiseBalance k (s.demand x))).multicastSum c =
      (s.setCarriage c x (raiseBalance k (s.demand x))).multicastSum c := by
    refine multicastSum_congr rfl rfl fun y => ?_
    by_cases hy : y = x
    · rw [hy, carriage?_setCarriage_self, carriage?_setCarriage_self]
    · have hne : ¬(c = c ∧ y = x) := fun h => hy h.2
      rw [carriage?_setCarriage_of_ne _ _ hne, carriage?_setCarriage_of_ne _ _ hne, hc]
  exact congrArg (evaluatedCarriage s.venue.threshold (s.admissionCap c) · (s.demand x) (raiseBalance k (s.demand x))) sums

section
variable {x : StreamId} {tag : Tag} {r : RateChange} {c : CellId}

theorem adjustCarriage_of_none (hk : r.state.carriage? c x = none) : adjustCarriage x tag r c = r := by
  simp only [adjustCarriage, hk]

theorem adjustCarriage_of_some {k : Carriage} (hk : r.state.carriage? c x = some k) :
    adjustCarriage x tag r c =
      { state := (r.state.setCarriage c x (raiseBalance k (r.state.demand x))).evalMode c x tag
        clamped := r.clamped + bit (raisesBalance k (r.state.demand x))
        changed := r.changed + bit (decide (((r.state.setCarriage c x (raiseBalance k (r.state.demand x))).evalMode c x
          tag).modeAt c x ≠ some k.mode)) } := by
  simp only [adjustCarriage, hk]

theorem adjustCarriage_rest :
    ∃ ca po, (adjustCarriage x tag r c).state = { r.state with carriages := ca, ports := po } := by
  cases hk : r.state.carriage? c x with
  | none => exact ⟨_, _, by rw [adjustCarriage_of_none hk]⟩
  | some k =>
    obtain ⟨ca, po, h⟩ := evalMode_rest (r.state.setCarriage c x (raiseBalance k (r.state.demand x))) c x tag
    exact ⟨ca, po, by rw [adjustCarriage_of_some hk, h]; rfl⟩

theorem carriage?_adjustCarriage_self :
    (adjustCarriage x tag r c).state.carriage? c x = (r.state.carriage? c x).map (r.state.adjusted c x) := by
  cases hk : r.state.carriage? c x with
  | none => rw [adjustCarriage_of_none hk, hk, Option.map_none]
  | some k =>
    rw [adjustCarriage_of_some hk]
    exact carriage?_evalMode_self (carriage?_setCarriage_self ..) tag

theorem carriage?_adjustCarriage_of_ne {d : CellId} {y : StreamId} (h : ¬(d = c ∧ y = x)) :
    (adjustCarriage x tag r c).state.carriage? d y = r.state.carriage? d y := by
  cases hk : r.state.carriage? c x with
  | none => rw [adjustCarriage_of_none hk]
  | some k =>
    rw [adjustCarriage_of_some hk]
    exact (carriage?_evalMode_of_ne _ h tag).trans (carriage?_setCarriage_of_ne _ _ h)

theorem adjustCarriage_frame {hs : Handle → Prop} {cs : CellId → StreamId → Prop} (hc : cs c x) :
    SubscriptionFrame hs cs r.state (adjustCarriage x tag r c).state := by
  cases hk : r.state.carriage? c x with
  | none =>
    rw [adjustCarriage_of_none hk]
    exact .refl _
  | some k =>
    rw [adjustCarriage_of_some hk]
    exact (SubscriptionFrame.setCarriage _ hc _).trans (evalMode_frame _ hc tag)

/-- Whether the carriage of a cell has its balance raised by a rate change. -/
def State.raisedAt (s : State) (x : StreamId) (c : CellId) : Bool :=
  match s.carriage? c x with
  | none => false
  | some k => raisesBalance k (s.demand x)

theorem clamped_adjustCarriage : (adjustCarriage x tag r c).clamped = r.clamped + bit (r.state.raisedAt x c) := by
  cases hk : r.state.carriage? c x with
  | none =>
    rw [adjustCarriage_of_none hk]
    simp only [State.raisedAt, hk]
    rfl
  | some k =>
    rw [adjustCarriage_of_some hk]
    simp only [State.raisedAt, hk]

theorem changed_adjustCarriage : (adjustCarriage x tag r c).changed =
    r.changed + bit (decide (r.state.modeAt c x ≠ (adjustCarriage x tag r c).state.modeAt c x)) := by
  cases hk : r.state.carriage? c x with
  | none =>
    rw [adjustCarriage_of_none hk]
    simp [bit]
  | some k =>
    have before : r.state.modeAt c x = some k.mode := by rw [State.modeAt, hk, Option.map_some]
    rw [adjustCarriage_of_some hk, before]
    simp only [ne_comm]

end

/-! ### The adjustment of all carriages of a stream -/

section
variable {x : StreamId} {tag : Tag}

theorem adjustAll_frame {hs : Handle → Prop} {cs : CellId → StreamId → Prop} {cells : List CellId} (r : RateChange)
    (hc : ∀ c, cs c x) : SubscriptionFrame hs cs r.state (cells.foldl (adjustCarriage x tag) r).state := by
  induction cells generalizing r with
  | nil => exact .refl _
  | cons c cells ih => exact (adjustCarriage_frame (hc c)).trans (ih _)

theorem adjustAll_rest (cells : List CellId) (r : RateChange) :
    ∃ ca po, (cells.foldl (adjustCarriage x tag) r).state = { r.state with carriages := ca, ports := po } := by
  induction cells generalizing r with
  | nil => exact ⟨_, _, rfl⟩
  | cons c cells ih =>
    obtain ⟨ca, po, h⟩ := adjustCarriage_rest (x := x) (tag := tag) (r := r) (c := c)
    obtain ⟨ca', po', h'⟩ := ih (adjustCarriage x tag r c)
    exact ⟨ca', po', by rw [List.foldl_cons, h', h]⟩

theorem carriage?_adjustAll_of_not {cells : List CellId} {d : CellId} {y : StreamId} (h : ¬(d ∈ cells ∧ y = x))
    (r : RateChange) : (cells.foldl (adjustCarriage x tag) r).state.carriage? d y = r.state.carriage? d y := by
  induction cells generalizing r with
  | nil => rfl
  | cons c cells ih =>
    rw [List.foldl_cons, ih fun h' => h ⟨List.mem_cons_of_mem c h'.1, h'.2⟩]
    exact carriage?_adjustCarriage_of_ne fun h' => h ⟨h'.1 ▸ List.mem_cons_self, h'.2⟩

/-- Each carriage of the stream is adjusted as it would be alone: the cells do not touch one another. -/
theorem carriage?_adjustAll {cells : List CellId} (hn : cells.Nodup) {c : CellId} (hc : c ∈ cells) (r : RateChange) :
    (cells.foldl (adjustCarriage x tag) r).state.carriage? c x = (r.state.carriage? c x).map (r.state.adjusted c x) := by
  induction cells generalizing r with
  | nil => cases hc
  | cons d cells ih =>
    rw [List.nodup_cons] at hn
    rw [List.foldl_cons]
    rcases List.mem_cons.1 hc with rfl | hc
    · rw [carriage?_adjustAll_of_not fun h => hn.1 h.1, carriage?_adjustCarriage_self]
    · have hne : c ≠ d := fun h => hn.1 (h ▸ hc)
      have kept : ∀ y, (adjustCarriage x tag r d).state.carriage? c y = r.state.carriage? c y := fun y =>
        carriage?_adjustCarriage_of_ne fun h => hne h.1
      rw [ih hn.2 hc, kept]
      obtain ⟨ca, po, h⟩ := adjustCarriage_rest (x := x) (tag := tag) (r := r) (c := d)
      rw [h] at kept ⊢
      exact congrArg (Option.map · _) (funext (adjusted_congr kept))

theorem demand_adjustAll (cells : List CellId) (r : RateChange) (y : StreamId) :
    (cells.foldl (adjustCarriage x tag) r).state.demand y = r.state.demand y := by
  obtain ⟨ca, po, h⟩ := adjustAll_rest (x := x) (tag := tag) cells r
  rw [h]
  rfl

/-- The number of balances raised. -/
theorem clamped_adjustAll {cells : List CellId} (hn : cells.Nodup) (r : RateChange) :
    (cells.foldl (adjustCarriage x tag) r).clamped = r.clamped + cells.countP (r.state.raisedAt x) := by
  induction cells generalizing r with
  | nil => rfl
  | cons c cells ih =>
    rw [List.nodup_cons] at hn
    have kept : ∀ d ∈ cells, (adjustCarriage x tag r c).state.raisedAt x d = r.state.raisedAt x d := fun d hd => by
      have hne : ¬(d = c ∧ x = x) := fun h => hn.1 (h.1 ▸ hd)
      have hd : (adjustCarriage x tag r c).state.demand x = r.state.demand x := demand_adjustAll [c] r x
      simp only [State.raisedAt, carriage?_adjustCarriage_of_ne hne, hd]
    rw [List.foldl_cons, ih hn.2, clamped_adjustCarriage, List.countP_cons, List.countP_congr fun d hd => by rw [kept d hd],
      Nat.add_assoc, Nat.add_comm (bit _)]
    rfl

/-- The number of modes changed. -/
theorem changed_adjustAll {cells : List CellId} (hn : cells.Nodup) (r : RateChange) :
    (cells.foldl (adjustCarriage x tag) r).changed = r.changed + cells.countP fun c =>
      decide (r.state.modeAt c x ≠ (cells.foldl (adjustCarriage x tag) r).state.modeAt c x) := by
  induction cells generalizing r with
  | nil => rfl
  | cons c cells ih =>
    rw [List.nodup_cons] at hn
    have first : (cells.foldl (adjustCarriage x tag) (adjustCarriage x tag r c)).state.modeAt c x =
        (adjustCarriage x tag r c).state.modeAt c x := by
      rw [State.modeAt, carriage?_adjustAll_of_not fun h => hn.1 h.1, State.modeAt]
    have kept : ∀ d ∈ cells, (adjustCarriage x tag r c).state.modeAt d x = r.state.modeAt d x := fun d hd => by
      have hne : ¬(d = c ∧ x = x) := fun h => hn.1 (h.1 ▸ hd)
      rw [State.modeAt, carriage?_adjustCarriage_of_ne hne, State.modeAt]
    rw [List.foldl_cons, ih hn.2, changed_adjustCarriage, List.countP_cons, first,
      List.countP_congr fun d hd => by rw [kept d hd], Nat.add_assoc, Nat.add_comm (bit _)]
    rfl

end

/-- A count over all cells is a count over those for which it can be true. -/
theorem countP_finRange {cells : List CellId} (hn : cells.Nodup) {p : CellId → Bool} (h : ∀ c, p c = true → c ∈ cells) :
    (List.finRange 1024).countP p = cells.countP p := by
  rw [List.countP_eq_length_filter, List.countP_eq_length_filter]
  refine List.Perm.length_eq ((List.perm_ext_iff_of_nodup ((List.nodup_finRange 1024).filter p) (hn.filter p)).2 fun c => ?_)
  simp only [List.mem_filter, List.mem_finRange, true_and]
  exact ⟨fun hp => ⟨h c hp, hp⟩, And.right⟩

end Sys2Proof.Machine
end

section
namespace Sys2Proof.Machine

open Sys2Proof

/-! ### SET_STREAM_RATE (R79) -/

theorem raiseBalance_eq (k : Carriage) (d : Nat) :
    raiseBalance k d = if k.mode = .multicast then { k with balance := max k.balance (-4 * (d : Int)) } else k := by
  unfold raiseBalance
  by_cases hm : k.mode = .multicast
  · by_cases hb : k.balance < -4 * (d : Int)
    · rw [if_pos ⟨hm, hb⟩, if_pos hm, max_eq_right hb.le]
    · rw [if_neg fun h => hb h.2, if_pos hm, max_eq_left (not_lt.1 hb)]
  · rw [if_neg fun h => hm h.1, if_neg hm]

/-- What R80 keeps of a carriage and what it makes of its balance. -/
theorem evaluatedCarriage_raiseBalance (threshold cap others d : Nat) {k : Carriage}
    (hzero : k.mode ≠ .multicast → k.balance = 0) :
    let k' := evaluatedCarriage threshold cap others d (raiseBalance k d)
    k'.count = k.count ∧ k'.hist = k.hist ∧ k'.minLevel = k.minLevel ∧ k'.lastGrant = k.lastGrant ∧
      (k'.mode = .multicast → k.mode = .multicast →
        k'.balance = max k.balance (-4 * (d : Int)) ∧ k'.starved = k.starved) ∧
      (k'.mode ≠ k.mode ∨ k'.mode ≠ .multicast → k'.balance = 0) := by
  obtain ⟨hcount, hhist, hmin, hgrant⟩ := evaluatedCarriage_members threshold cap others d (raiseBalance k d)
  have hbalance := evaluatedCarriage_balance threshold cap others d (raiseBalance k d)
  rw [raiseBalance_eq] at hcount hhist hmin hgrant hbalance ⊢
  by_cases hm : k.mode = .multicast
  · simp only [if_pos hm] at hcount hhist hmin hgrant hbalance ⊢
    refine ⟨hcount, hhist, hmin, hgrant, fun hm' _ => ?_, fun hchange => ?_⟩
    · rcases hbalance with same | ⟨_, hleft, _⟩
      · rw [same]
        exact ⟨rfl, rfl⟩
      · exact absurd hm' (hleft hm)
    · rcases hbalance with same | ⟨h0, _⟩
      · rw [same] at hchange
        exact (hchange.elim (absurd rfl) (absurd hm))
      · exact h0
  · simp only [if_neg hm] at hcount hhist hmin hgrant hbalance ⊢
    refine ⟨hcount, hhist, hmin, hgrant, fun _ h => absurd h hm, fun _ => ?_⟩
    rcases hbalance with same | ⟨h0, _⟩
    · rw [same]
      exact hzero hm
    · exact h0

/-- The state of a rate change is built by any step that does the same to the state at the same demand. -/
theorem state_adjustAll {x : StreamId} {tag : Tag} {d : Nat} {f : State → CellId → State}
    (hf : ∀ r c, r.state.demand x = d → (adjustCarriage x tag r c).state = f r.state c) (cells : List CellId) (r : RateChange)
    (hd : r.state.demand x = d) : (cells.foldl (adjustCarriage x tag) r).state = cells.foldl f r.state := by
  induction cells generalizing r with
  | nil => rfl
  | cons c cells ih =>
    have hd' : (adjustCarriage x tag r c).state.demand x = d := (demand_adjustAll [c] r x).trans hd
    rw [List.foldl_cons, List.foldl_cons, ih _ hd', hf r c hd]

section
variable {s : State} {cmd : Cmd} {x : StreamId}

theorem setStreamRateReply_of_large (h : 15 < (cmd.op 2).toNat) : setStreamRateReply cmd s = refuse .badOperand [] s := by
  simp only [setStreamRateReply, asStream_of_large h]

section
variable (hx : (cmd.op 2).toNat = x.val)
include hx

theorem setStreamRateReply_of_closed (hs : ∀ info, (s.stream x).state ≠ .live info) :
    setStreamRateReply cmd s = refuse .streamClosed [.bytes 1 (streamStateCode (s.stream x).state)] s := by
  simp only [setStreamRateReply, asStream_of_val hx]
  split
  · next h => rw [h]
  · next h => rw [h]
  · next h => exact absurd h (hs _)

theorem setStreamRateReply_of_live {info : StreamInfo} (hs : (s.stream x).state = .live info) :
    setStreamRateReply cmd s =
      let rate := max 10 (min 800 ((cmd.op 3).toNat % 2 ^ 16))
      let r := (s.setStream x { s.stream x with state := .live { info with rate := rate } }).adjustCarriages x cmd.tag
      ⟨.ok, [.bytes 2 info.rate, .bytes 2 rate, itemMarks [decide (rate ≠ (cmd.op 3).toNat % 2 ^ 16)], .bytes 2 (16 * rate),
        .bytes 2 r.clamped, .bytes 2 r.changed], r.state⟩ := by
  simp only [setStreamRateReply, asStream_of_val hx, hs, rateClamped_eq, asRate_eq]

end

end

end Sys2Proof.Machine

open Sys2Proof Sys2Proof.Machine

/-- Settles O42: the adjustment is a fold over the stream's cells, in which no cell's step reads or writes what another's
does. -/
theorem setStreamRateAdjustsTheCarriages : Obligations.SetStreamRateAdjustsTheCarriages := by
  intro s p cmd hpass
  have replied : ∀ {r : Reply}, setStreamRateReply cmd s = r →
      exec (.setStreamRate p) s = .next (finishCommand p cmd r) := fun hr =>
    (exec_rowOf_of_passes hpass 0).trans (by rw [bodyOf, hr])
  refine ⟨fun hbad => replied (setStreamRateReply_of_large hbad), fun x hx =>
    ⟨fun hs => replied (setStreamRateReply_of_closed hx hs), fun info hlive => ?_⟩⟩
  intro operand rate floor raised u
  refine ⟨_, _, _, replied (setStreamRateReply_of_live hx hlive), fun hcarriages hbalances => ?_⟩
  obtain ⟨hw, _, _, _⟩ := hcarriages
  have hd : u.demand x = 16 * rate := demand_setStream_live s x (s.stream x) _
  have hraised : ∀ k, raiseBalance k (u.demand x) = raised k := fun k => by rw [hd, raiseBalance_eq]
  have hsorted : (u.cellsWith x).Pairwise (· < ·) := cellsWith_sorted (s := u) hw x
  have hn : (u.cellsWith x).Nodup := hsorted.imp ne_of_lt
  have hcells : ∀ c, c ∈ u.cellsWith x ↔ (s.carriage? c x).isSome = true := mem_cellsWith u x
  have hread : ∀ c, (u.adjustCarriages x cmd.tag).state.carriage? c x = (s.carriage? c x).map (u.adjusted c x) := fun c => by
    by_cases hc : c ∈ u.cellsWith x
    · exact carriage?_adjustAll hn hc _
    · have hnone : s.carriage? c x = none := by simpa using (hcells c).not.1 hc
      rw [hnone]
      exact (carriage?_adjustAll_of_not (fun h => hc h.1) _).trans hnone
  refine ⟨adjustAll_frame (cells := u.cellsWith x) ⟨u, 0, 0⟩ fun _ => rfl, ⟨u.cellsWith x, hsorted,
    fun c => (hcells c).trans Option.isSome_iff_ne_none, ?_⟩, fun c k hk => ?_, fun c hc => ?_, ?_, ?_⟩
  · refine state_adjustAll (fun r c hr => ?_) _ _ hd
    cases hk : r.state.carriage? c x with
    | none => simp only [adjustCarriage_of_none hk]
    | some k => simp only [adjustCarriage_of_some hk, hr, ← hd, hraised]
  · have hzero : k.mode ≠ .multicast → k.balance = 0 := fun hm => by
      have hb := hbalances c x k hk
      rw [if_neg hm] at hb
      exact hb.1
    have facts := evaluatedCarriage_raiseBalance u.venue.threshold (u.admissionCap c)
      ((u.setCarriage c x (raiseBalance k (u.demand x))).multicastSum c) (u.demand x) hzero
    refine ⟨u.adjusted c x k, by rw [hread, hk, Option.map_some], ?_, ?_⟩
    · rw [← hraised]
      exact (carriage?_evalMode_self (carriage?_setCarriage_self u c x (raiseBalance k (u.demand x))) cmd.tag).symm
    · rw [hd] at facts
      rw [State.adjusted, hd]
      exact facts
  · rw [hread, hc, Option.map_none]
  · refine (clamped_adjustAll hn ⟨u, 0, 0⟩).trans ((Nat.zero_add _).trans (Eq.trans ?_ (countP_finRange hn fun c hc => ?_).symm))
    · refine List.countP_congr fun c _ => ?_
      have hu : u.carriage? c x = s.carriage? c x := rfl
      simp only [State.raisedAt, hu, raisesBalance, hd]
      cases s.carriage? c x <;> rfl
    · refine (hcells c).2 ?_
      cases hk : s.carriage? c x with
      | none => simp [hk] at hc
      | some k => rfl
  · refine (changed_adjustAll hn ⟨u, 0, 0⟩).trans ((Nat.zero_add _).trans (countP_finRange hn fun c hc => ?_).symm)
    refine (hcells c).2 ?_
    cases hk : s.carriage? c x with
    | none =>
      have before : s.modeAt c x = none := by rw [State.modeAt, hk, Option.map_none]
      have after : (u.adjustCarriages x cmd.tag).state.modeAt c x = none := by
        rw [State.modeAt, hread, hk, Option.map_none, Option.map_none]
      exact absurd (before.trans after.symm) (of_decide_eq_true hc)
    | some k => rfl
end

section
namespace Sys2Proof.Machine

open Sys2Proof

/-! ## The checks of a subscription (R98) -/

section
variable {s : State} {st : Station} {x : StreamId}

theorem boundTicket_eq_some {k : Ticket} :
    s.boundTicket st = some k ↔ ∃ n, st.ticket = some n ∧ s.ticket? n = some k := by
  unfold State.boundTicket
  cases st.ticket with
  | none => simp
  | some n => simp

theorem classCovers_iff (c : TicketClass) (d : StreamClass) :
    classCovers c d = true ↔ d = .anyone ∨ c = .premium ∨ d = .basic := by
  cases d with
  | anyone => simp [classCovers]
  | basic => cases c <;> simp [classCovers]
  | premium => cases c <;> simp [classCovers]

theorem isLingering_iff (v : StationState) : isLingering v = true ↔ ∃ deadline g, v = .lingering deadline g := by
  cases v with
  | associated => simp [isLingering]
  | inHandover c deadline tag => simp [isLingering]
  | lingering deadline tag => simp [isLingering]

theorem entitled_iff {info : StreamInfo} (hi : streamInfo? (s.stream x).state = some info) :
    s.entitled st x = true ↔ info.cls = .anyone ∨
      ∃ n k, st.ticket = some n ∧ s.ticket? n = some k ∧ k.entry = .admitted ∧ (k.cls = .premium ∨ info.cls = .basic) := by
  have hclass : s.classOf x = info.cls := by simp only [State.classOf, hi]
  by_cases hany : info.cls = .anyone
  · simp [State.entitled, hclass, hany]
  · cases hb : s.boundTicket st with
    | none =>
      have hno : ∀ n k, st.ticket = some n → s.ticket? n ≠ some k := fun n k hn hk => by
        rw [boundTicket_eq_some.2 ⟨n, hn, hk⟩] at hb
        cases hb
      simp only [State.entitled, hclass, hany, decide_false, Bool.false_or, hb, false_or, Bool.false_eq_true, false_iff]
      rintro ⟨n, k, hn, hk, _⟩
      exact hno n k hn hk
    | some k =>
      obtain ⟨n, hn, hk⟩ := boundTicket_eq_some.1 hb
      simp only [State.entitled, hclass, hany, decide_false, Bool.false_or, hb, false_or, hn, Bool.and_eq_true,
        decide_eq_true_eq, classCovers_iff, Option.some.injEq, exists_and_left, exists_eq_left', hk]

theorem seated_iff {info : StreamInfo} (hi : streamInfo? (s.stream x).state = some info) :
    s.seated st x = true ↔ info.seatBound = false ∨
      ∃ n k q, st.ticket = some n ∧ s.ticket? n = some k ∧ k.seat = some q ∧ q.sector.val = st.serving.val / 32 := by
  have hbound : s.seatBoundOf x = info.seatBound := by simp only [State.seatBoundOf, hi]
  have hsector : ∀ q : Seat, sectorOf st.serving = q.sector ↔ q.sector.val = st.serving.val / 32 := fun q =>
    ⟨fun h => congrArg Fin.val h.symm, fun h => (Fin.ext h).symm⟩
  cases hflag : info.seatBound with
  | false => simp [State.seated, hbound, hflag]
  | true =>
    cases hb : s.boundTicket st with
    | none =>
      simp only [State.seated, hbound, hflag, hb, Bool.not_true, Bool.or_false, Bool.false_eq_true, Bool.true_eq_false,
        false_or, false_iff]
      rintro ⟨n, k, _, hn, hk, _⟩
      rw [boundTicket_eq_some.2 ⟨n, hn, hk⟩] at hb
      cases hb
    | some k =>
      obtain ⟨n, hn, hk⟩ := boundTicket_eq_some.1 hb
      cases hq : k.seat with
      | none => simp [State.seated, hbound, hflag, hb, hn, hk, hq]
      | some q => simp [State.seated, hbound, hflag, hb, hn, hk, hq, hsector]

theorem verdict_of_lingering (h : isLingering st.state = true) : s.verdict st x = .suspended .lingering := by
  simp only [State.verdict, h, if_true]

section
variable (hlingers : isLingering st.state = false)
include hlingers

theorem verdict_of_not_entitled (h : s.entitled st x = false) : s.verdict st x = .suspended .entitlement := by
  simp [State.verdict, hlingers, h]

variable (hentitled : s.entitled st x = true)
include hentitled

theorem verdict_of_not_seated (h : s.seated st x = false) : s.verdict st x = .suspended .away := by
  simp [State.verdict, hlingers, hentitled, h]

variable (hseated : s.seated st x = true)
include hseated

theorem verdict_of_room (h : s.carriage? st.serving x ≠ none ∨ s.carriages.length < 4096) :
    s.verdict st x = .active := by
  have hroom : ((s.carriage? st.serving x).isSome || decide (0 < s.freeCarriages)) = true := by
    rw [Bool.or_eq_true, Option.isSome_iff_ne_none, decide_eq_true_eq, State.freeCarriages]
    exact h.imp_right (by omega)
  simp only [State.verdict, hlingers, hentitled, hseated, hroom, Bool.not_true, Bool.false_eq_true, if_false, if_true]

theorem verdict_of_full (h : ¬(s.carriage? st.serving x ≠ none ∨ s.carriages.length < 4096)) :
    s.verdict st x = .suspended .noCarriage := by
  obtain ⟨hnone, hfull⟩ := not_or.1 h
  have hroom : ((s.carriage? st.serving x).isSome || decide (0 < s.freeCarriages)) = false := by
    rw [Bool.or_eq_false_iff, Option.isSome_eq_false_iff, Option.isNone_iff_eq_none, decide_eq_false_iff_not,
      State.freeCarriages]
    exact ⟨not_not.1 hnone, by omega⟩
  simp only [State.verdict, hlingers, hentitled, hseated, hroom, Bool.not_true, Bool.false_eq_true, if_false]

end

end

/-! ## One entry visited (R100, R103) -/

theorem setSubState_eq {s : State} {h : Handle} {st : Station} (hst : s.station? h = some st) (x : StreamId)
    (v : SubState) : s.setSubState h x v =
      s.setStation h { st with subs := st.subs.map fun e => if e.stream = x then { e with state := v } else e } := by
  simp only [State.setSubState, hst]

theorem station?_join (s : State) (c : CellId) (x : StreamId) (l : Level) (tag : Tag) (h : Handle) :
    (s.join c x l tag).station? h = s.station? h :=
  (join_frame (hs := fun _ => False) (cs := fun _ _ => True) s trivial l tag).stations h id

theorem station?_leave (s : State) (c : CellId) (x : StreamId) (l : Level) (tag : Tag) (h : Handle) :
    (s.leave c x l tag).station? h = s.station? h :=
  (leave_frame (hs := fun _ => False) (cs := fun _ _ => True) s trivial l tag).stations h id

section
variable {s : State} {h : Handle} {st : Station} {x : StreamId} {e : Subscription} (hst : s.station? h = some st)
  (hf : findSub st.subs x = some e) (tag : Tag) (joined : Bool) (fresh : Option StreamId)
include hst hf

theorem evalEntry_of_active (he : e.state = .active) (hv : s.verdict st x = .active) :
    s.evalEntry h tag joined fresh x =
      if joined then s else (s.join st.serving x st.level tag).setSubState h x .active := by
  simp only [State.evalEntry, hst, hf, he, hv]

theorem evalEntry_of_resumed {r : Reason} (he : e.state = .suspended r) (hv : s.verdict st x = .active) :
    s.evalEntry h tag joined fresh x =
      let t := (s.join st.serving x st.level tag).setSubState h x .active
      if fresh = some x then t else t.notify isReplayPort (.subResumed h x r st.serving) tag := by
  simp only [State.evalEntry, hst, hf, he, hv]

theorem evalEntry_of_suspended {r : Reason} (he : e.state = .active) (hv : s.verdict st x = .suspended r) :
    s.evalEntry h tag joined fresh x =
      ((if joined then s.leave st.serving x st.level tag else s).setSubState h x (.suspended r)).notify isReplayPort
        (.subSuspended h x r .active st.serving) tag := by
  simp only [State.evalEntry, hst, hf, he, hv]

theorem evalEntry_of_still {r r' : Reason} (he : e.state = .suspended r') (hv : s.verdict st x = .suspended r) :
    s.evalEntry h tag joined fresh x =
      if r' = r then s
      else
        let t := s.setSubState h x (.suspended r)
        if fresh = some x then t else t.notify isReplayPort (.subSuspended h x r (.suspended r') st.serving) tag := by
  simp only [State.evalEntry, hst, hf, he, hv]

end

/-! ## SUBSCRIBE and UNSUBSCRIBE (R87 to R89) -/

theorem subPosition_eq {subs : List Subscription} (hn : (subs.map (·.stream)).Nodup) {i : Nat} {e : Subscription}
    (hi : subs[i]? = some e) : subPosition subs e.stream = i := by
  induction subs generalizing i with
  | nil => cases hi
  | cons d subs ih =>
    rw [List.map_cons, List.nodup_cons] at hn
    cases i with
    | zero =>
      obtain rfl : d = e := by simpa using hi
      simp [subPosition]
    | succ i =>
      have hi' : subs[i]? = some e := by simpa using hi
      have hne : d.stream ≠ e.stream := fun h => hn.1 (h ▸ List.mem_map_of_mem (List.mem_of_getElem? hi'))
      have := ih hn.2 hi'
      simp only [subPosition] at this ⊢
      rw [List.takeWhile_cons_of_pos (by simpa using hne), List.length_cons, this]

section
variable {s : State} {cmd : Cmd}

theorem subscribeReply_of_large (h : 15 < (cmd.op 3).toNat) : subscribeReply cmd s = refuse .badOperand [] s := by
  simp only [subscribeReply, asStream_of_large h]

theorem unsubscribeReply_of_large (h : 15 < (cmd.op 3).toNat) : unsubscribeReply cmd s = refuse .badOperand [] s := by
  simp only [unsubscribeReply, asStream_of_large h]

theorem subscribeReply_of_free (hx : (cmd.op 3).toNat ≤ 15) (hst : s.asStation (cmd.op 2) = none) :
    subscribeReply cmd s = refuse .unknownStation [] s := by
  have hx' : asStream (cmd.op 3) = some ⟨(cmd.op 3).toNat, by omega⟩ := asStream_of_val rfl
  simp only [subscribeReply, hx', hst]

theorem unsubscribeReply_of_free (hx : (cmd.op 3).toNat ≤ 15) (hst : s.asStation (cmd.op 2) = none) :
    unsubscribeReply cmd s = refuse .unknownStation [] s := by
  have hx' : asStream (cmd.op 3) = some ⟨(cmd.op 3).toNat, by omega⟩ := asStream_of_val rfl
  simp only [unsubscribeReply, hx', hst]

section
variable {x : StreamId} (hx : (cmd.op 3).toNat = x.val) {st : Station} (hst : s.asStation (cmd.op 2) = some st)
include hx hst

theorem subscribeReply_of_closed (hs : ∀ info, (s.stream x).state ≠ .live info) :
    subscribeReply cmd s = refuse .streamClosed [.bytes 1 (streamStateCode (s.stream x).state)] s := by
  simp only [subscribeReply, asStream_of_val hx, hst]
  split
  · next h => rw [h]
  · next h => rw [h]
  · next h => exact absurd h (hs _)

theorem subscribeReply_of_live {info : StreamInfo} (hs : (s.stream x).state = .live info) :
    subscribeReply cmd s = subscribeStation cmd (cmd.op 2).toNat st x s := by
  simp only [subscribeReply, asStream_of_val hx, hst, hs]

theorem unsubscribeReply_of_none (hf : findSub st.subs x = none) :
    unsubscribeReply cmd s = refuse .notSubscribed [] s := by
  simp only [unsubscribeReply, asStream_of_val hx, hst, hf]

theorem unsubscribeReply_of_some {e : Subscription} (hf : findSub st.subs x = some e) :
    unsubscribeReply cmd s = ⟨.ok, subStateItems e.state, s.leaveAndRemove (cmd.op 2).toNat x cmd.tag⟩ := by
  simp only [unsubscribeReply, asStream_of_val hx, hst, hf]

end

end

theorem findSub_of_not_mem {subs : List Subscription} {x : StreamId} (h : x ∉ subs.map (·.stream)) :
    findSub subs x = none := by
  rw [← Option.not_isSome_iff_eq_none, findSub_isSome, decide_eq_true_eq]
  exact h

/-- The entry that a SUBSCRIBE appends, after the evaluation of the list: at the end, and standing as its checks decide it. -/
theorem evaluateWith_appendSub {s : State} {h : Handle} {st : Station} {x : StreamId}
    (hn : (st.subs.map (·.stream)).Nodup) (hx : x ∉ st.subs.map (·.stream)) (tag : Tag) :
    let u := s.appendSub h st x
    let t := u.evaluateWith h tag true (some x)
    (∃ st' e, t.station? h = some st' ∧ st'.subs[st.subs.length]? = some e ∧ e.stream = x ∧
      t.subStateOf h x = e.state ∧ t.activeOf h = countActive st'.subs) ∧ t.evaluatedAt h ∧
      SubscriptionFrame (· = h) (carriagesOf { st with subs := st.subs ++ [⟨x, .suspended .lingering⟩] }) u t := by
  intro u t
  have live : u.station? h = some { st with subs := st.subs ++ [⟨x, .suspended .lingering⟩] } :=
    station?_setStation_self s h _
  have nodup : ((st.subs ++ [(⟨x, .suspended .lingering⟩ : Subscription)]).map (·.stream)).Nodup := by
    rw [List.map_append, List.nodup_append]
    refine ⟨hn, by simp, fun y hy z hz => ?_⟩
    obtain rfl : z = x := by simpa using hz
    exact fun heq => hx (heq ▸ hy)
  have unique : ∀ a, u.station? h = some a → a = { st with subs := st.subs ++ [⟨x, .suspended .lingering⟩] } :=
    fun a ha => Option.some.inj (ha.symm.trans live)
  have frame : SubscriptionFrame (· = h) (carriagesOf { st with subs := st.subs ++ [⟨x, .suspended .lingering⟩] }) u t :=
    evaluateWith_frame (hs := (· = h)) u rfl tag true (some x) fun a ha c y hc => unique a ha ▸ hc
  refine ⟨?_, evaluateWith_decides u h tag true (some x) fun a ha => unique a ha ▸ nodup, frame⟩
  obtain ⟨st', hst', same⟩ := frame.own h _ live
  have streams : st'.subs.map (·.stream) = st.subs.map (·.stream) ++ [x] := same.streams.trans List.map_append
  have last : (st'.subs.map (·.stream))[st.subs.length]? = some x := by
    rw [streams, List.getElem?_append_right (by simp), List.length_map, Nat.sub_self]
    rfl
  rw [List.getElem?_map, Option.map_eq_some_iff] at last
  obtain ⟨e, he, rfl⟩ := last
  have hf : findSub st'.subs e.stream = some e :=
    findSub_of_mem (same.streams ▸ nodup) (List.mem_of_getElem? he)
  refine ⟨st', e, hst', he, rfl, ?_, ?_⟩
  · simp only [State.subStateOf, hst', hf]
  · simp only [State.activeOf, hst']

/-- A frame holds between two states with the same entry taken off the same list. -/
theorem SubscriptionFrame.taken {cs : CellId → StreamId → Prop} {s t : State}
    (f : SubscriptionFrame (fun _ => False) cs s t) (h : Handle) (st : Station) (x : StreamId) :
    SubscriptionFrame (fun _ => False) cs ((s.setStation h st).subHeld x) ((t.setStation h st).subHeld x) := by
  have same : ∀ g, ((t.setStation h st).subHeld x).station? g = ((s.setStation h st).subHeld x).station? g := fun g => by
    change (t.setStation h st).station? g = (s.setStation h st).station? g
    by_cases hg : g = h
    · rw [hg, station?_setStation_self, station?_setStation_self]
    · rw [station?_setStation_of_ne t st hg, station?_setStation_of_ne s st hg, f.stations g id]
  exact { f with
    stations := fun g _ => same g
    own := fun g a ha => ⟨a, (same g).trans ha, .refl a⟩
    free := fun g hg => (same g).trans hg
    streams := fun y => by
      by_cases hy : y = x
      · subst hy
        rw [State.subHeld, State.subHeld, stream_setStream_self, stream_setStream_self]
        exact ⟨(f.streams y).1, congrArg (· - 1) (f.streams y).2⟩
      · rw [State.subHeld, State.subHeld, stream_setStream_of_ne _ _ hy, stream_setStream_of_ne _ _ hy]
        exact f.streams y
    totals := fun y hout => by
      by_cases hy : y = x
      · subst hy
        rw [State.subHeld, State.subHeld, stream_setStream_self, stream_setStream_self]
        exact congrArg (fun v : Stream => { v with held := v.held - 1 }) (f.totals y hout)
      · rw [State.subHeld, State.subHeld, stream_setStream_of_ne _ _ hy, stream_setStream_of_ne _ _ hy]
        exact f.totals y hout }

theorem leaveAndRemove_eq {s : State} {h : Handle} {st : Station} (hst : s.station? h = some st) {x : StreamId}
    {e : Subscription} (hf : findSub st.subs x = some e) (tag : Tag) :
    s.leaveAndRemove h x tag =
      ((if e.state = .active then s.leave st.serving x st.level tag else s).setStation h
        { st with subs := st.subs.filter fun d => decide (d.stream ≠ x) }).subHeld x := by
  have live : (if e.state = .active then s.leave st.serving x st.level tag else s).station? h = some st := by
    split
    · rw [station?_leave, hst]
    · exact hst
  simp only [State.leaveAndRemove, hst, hf]
  exact removeSub_eq live x

/-! ### The statements -/

section
variable {s : State} {cmd : Cmd}

/-- A handle operand that names a live station is read as that station. -/
theorem asStation_of_not_free {w : Word} (h : ¬∀ g, w.toNat = g → g < 65536 → s.station? g = none) :
    ∃ st, s.asStation w = some st := by
  simp only [not_forall] at h
  obtain ⟨g, hw, hlt, hlive⟩ := h
  rw [asStation_of_lt hw hlt]
  exact Option.ne_none_iff_exists'.1 hlive

section
variable {h : Handle} {st : Station} {x : StreamId} (hn : (st.subs.map (·.stream)).Nodup)

theorem subscribeStation_of_new (hx : x ∉ st.subs.map (·.stream)) (hroom : st.subs.length < 2) :
    subscribeStation cmd h st x s =
      let t := (s.appendSub h st x).evaluateWith h cmd.tag true (some x)
      ⟨.ok, [.bytes 1 st.subs.length] ++ subStateItems (t.subStateOf h x) ++ [.bytes 1 (t.activeOf h)], t⟩ := by
  simp only [subscribeStation, findSub_of_not_mem hx, if_neg (show ¬2 ≤ st.subs.length by omega)]

theorem subscribeStation_of_full (hx : x ∉ st.subs.map (·.stream)) (hfull : 2 ≤ st.subs.length) :
    subscribeStation cmd h st x s = refuse .subLimit (st.subs.map fun e => .bytes 1 e.stream.val) s := by
  simp only [subscribeStation, findSub_of_not_mem hx, if_pos hfull]

include hn in
theorem subscribeStation_of_listed {i : Nat} {e : Subscription} (hi : st.subs[i]? = some e) :
    subscribeStation cmd h st e.stream s = refuse .already (.bytes 1 i :: subStateItems e.state) s := by
  simp only [subscribeStation, findSub_of_mem hn (List.mem_of_getElem? hi), subPosition_eq hn hi]

end

end

end Sys2Proof.Machine

open Sys2Proof Sys2Proof.Machine

/-- Settles O43, by the cases of the two commands and, for one entry of an evaluation, by the checks it fails first. -/
theorem subscribeAppendsAndUnsubscribeRemoves : Obligations.SubscribeAppendsAndUnsubscribeRemoves := by
  have subscribed : ∀ {s : State} {p : PortId} {cmd : Cmd} {r : Reply}, s.passes p .subscribe cmd →
      subscribeReply cmd s = r → exec (.subscribe p) s = .next (finishCommand p cmd r) := fun hpass hr =>
    (exec_rowOf_of_passes hpass 0).trans (by rw [bodyOf, hr])
  have unsubscribed : ∀ {s : State} {p : PortId} {cmd : Cmd} {r : Reply}, s.passes p .unsubscribe cmd →
      unsubscribeReply cmd s = r → exec (.unsubscribe p) s = .next (finishCommand p cmd r) := fun hpass hr =>
    (exec_rowOf_of_passes hpass 0).trans (by rw [bodyOf, hr])
  refine ⟨fun s p cmd => ⟨fun hpass => ⟨fun hbad => subscribed hpass (subscribeReply_of_large hbad),
      fun hx hfree => subscribed hpass (subscribeReply_of_free hx (asStation_eq_none hfree)), fun x hx hlive hs => ?_⟩,
    fun hpass => ⟨fun hbad => unsubscribed hpass (unsubscribeReply_of_large hbad),
      fun hx hfree => unsubscribed hpass (unsubscribeReply_of_free hx (asStation_eq_none hfree))⟩⟩,
    fun s p cmd h st x hh hlt hx hst hn => ?_, fun s h st tag joined fresh hst hn => ?_⟩
  · obtain ⟨st, hst⟩ := asStation_of_not_free hlive
    exact subscribed hpass (subscribeReply_of_closed hx hst hs)
  · have hst' : s.asStation (cmd.op 2) = some st := (asStation_of_lt hh hlt).trans hst
    refine ⟨fun hpass info hs => ?_, fun hpass => ⟨fun e he hex => ?_, fun hout =>
      unsubscribed hpass (unsubscribeReply_of_none hx hst' (findSub_of_not_mem hout))⟩⟩
    · have accepted : ∀ {r : Reply}, subscribeStation cmd h st x s = r →
          exec (.subscribe p) s = .next (finishCommand p cmd r) := fun hr =>
        subscribed hpass ((subscribeReply_of_live hx hst' hs).trans (hh ▸ hr))
      refine ⟨fun hout hroom => ?_, fun i e hi hex => ?_, fun hout hfull => accepted (subscribeStation_of_full hout hfull)⟩
      · obtain ⟨⟨st', e, hlive, he, hex, hstate, hactive⟩, hevaluated, hframe⟩ :=
          evaluateWith_appendSub (s := s) (h := h) hn hout cmd.tag
        refine ⟨_, st', e, (accepted (subscribeStation_of_new hout hroom)).trans ?_, rfl, hlive, he, hex, hevaluated, hframe⟩
        dsimp only
        rw [hstate, hactive]
        rfl
      · subst hex
        exact accepted (subscribeStation_of_listed hn hi)
    · subst hex
      have hf := findSub_of_mem hn he
      refine ⟨_, unsubscribed hpass (unsubscribeReply_of_some hx hst' hf), by rw [hh], ?_, ?_⟩
      · rw [hh]
        exact leaveAndRemove_eq hst hf cmd.tag
      · rw [hh, leaveAndRemove_eq hst hf]
        refine SubscriptionFrame.taken ?_ h _ e.stream
        split
        · exact leave_frame s ⟨rfl, rfl⟩ _ _
        · exact .refl s
  · refine ⟨rfl, by simp only [State.evaluateWith, hst, List.foldl_map], fun e info he hs => ?_⟩
    intro x c lingers entitled seated room passes fails put told t
    have hinfo : streamInfo? (s.stream x).state = some info := by
      rcases hs with hs | ⟨g, f, hs⟩
      · rw [hs]; rfl
      · rw [hs]; rfl
    have hf : findSub st.subs x = some e := findSub_of_mem hn he
    have hlingers : isLingering st.state = true ↔ lingers := isLingering_iff st.state
    have hentitled : s.entitled st x = true ↔ entitled := entitled_iff hinfo
    have hseated : s.seated st x = true ↔ seated := seated_iff hinfo
    have hset : ∀ {v : State}, v.station? h = some st → ∀ state, v.setSubState h x state = put v state := fun hv state =>
      setSubState_eq hv x state
    have joined_ : ∀ state, (s.join c x st.level tag).setSubState h x state = put (s.join c x st.level tag) state :=
      hset (by rw [station?_join, hst])
    have hactive : passes → s.verdict st x = .active := fun ⟨hl, hent, hseat, hroom⟩ =>
      verdict_of_room (Bool.eq_false_iff.2 fun h => hl (hlingers.1 h)) (hentitled.2 hent) (hseated.2 hseat) hroom
    have hsuspended : ∀ r, fails r → s.verdict st x = .suspended r := by
      intro r hr
      cases r with
      | lingering => exact verdict_of_lingering (hlingers.2 hr)
      | entitlement =>
        exact verdict_of_not_entitled (Bool.eq_false_iff.2 fun h => hr.1 (hlingers.1 h))
          (Bool.eq_false_iff.2 fun h => hr.2 (hentitled.1 h))
      | away =>
        obtain ⟨hl, hent, hseat⟩ := hr
        exact verdict_of_not_seated (Bool.eq_false_iff.2 fun h => hl (hlingers.1 h)) (hentitled.2 hent)
          (Bool.eq_false_iff.2 fun h => hseat (hseated.1 h))
      | noCarriage =>
        obtain ⟨hl, hent, hseat, hroom⟩ := hr
        exact verdict_of_full (Bool.eq_false_iff.2 fun h => hl (hlingers.1 h)) (hentitled.2 hent) (hseated.2 hseat) hroom
    refine ⟨fun hpass hstate => ?_, fun hpass r hstate => ?_, fun r hr => ⟨fun hstate => ?_, fun r' hstate => ?_⟩⟩
    · rw [← joined_]
      exact evalEntry_of_active hst hf tag joined fresh hstate (hactive hpass)
    · refine (evalEntry_of_resumed hst hf tag joined fresh hstate (hactive hpass)).trans ?_
      rw [← joined_]
    · refine (evalEntry_of_suspended hst hf tag joined fresh hstate (hsuspended r hr)).trans ?_
      rw [← hset]
      split
      · rw [station?_leave, hst]
      · exact hst
    · refine (evalEntry_of_still hst hf tag joined fresh hstate (hsuspended r hr)).trans ?_
      rw [← hset hst]
end

section
namespace Sys2Proof.Machine

open Sys2Proof

/-! ## What every step keeps of the subscription lists (R86, R98) -/

/-! ### What the checks of an entry read -/

/-- What the checks of R98 read of a stream: its class and its seat-bound flag; none for an IDLE one. -/
def State.terms (s : State) (x : StreamId) : Option (StreamClass × Bool) :=
  (streamInfo? (s.stream x).state).map fun i => (i.cls, i.seatBound)

/-- What the checks of R98 read of a ticket. -/
def Ticket.merits (k : Ticket) : EntryState × TicketClass × Option Seat := (k.entry, k.cls, k.seat)

/-- What the checks of R98 read of a station's bound ticket. -/
def State.bond (s : State) (st : Station) : Option (EntryState × TicketClass × Option Seat) :=
  (s.boundTicket st).map Ticket.merits

theorem terms_of_state {s t : State} {x : StreamId} (h : (t.stream x).state = (s.stream x).state) : t.terms x = s.terms x := by
  rw [State.terms, State.terms, h]

theorem terms_eq_none {s : State} {x : StreamId} : s.terms x = none ↔ (s.stream x).state = .idle := by
  rw [State.terms, Option.map_eq_none_iff]
  cases (s.stream x).state <;> simp [streamInfo?]

section
variable {s t : State} {a b : Station} {x : StreamId}

theorem classOf_congr (hx : t.terms x = s.terms x) : t.classOf x = s.classOf x := by
  have read : ∀ u : State, u.classOf x = ((u.terms x).map Prod.fst).getD .anyone := fun u => by
    unfold State.classOf State.terms
    cases streamInfo? (u.stream x).state <;> rfl
  rw [read, read, hx]

theorem seatBoundOf_congr (hx : t.terms x = s.terms x) : t.seatBoundOf x = s.seatBoundOf x := by
  have read : ∀ u : State, u.seatBoundOf x = ((u.terms x).map Prod.snd).getD false := fun u => by
    unfold State.seatBoundOf State.terms
    cases streamInfo? (u.stream x).state <;> rfl
  rw [read, read, hx]

theorem entitled_congr (hx : t.terms x = s.terms x) (hb : t.bond b = s.bond a) : t.entitled b x = s.entitled a x := by
  have read : ∀ (u : State) (c : Station), u.entitled c x = (decide (u.classOf x = .anyone) ||
      (u.bond c).elim false fun m => decide (m.1 = .admitted) && classCovers m.2.1 (u.classOf x)) := fun u c => by
    unfold State.entitled State.bond
    cases u.boundTicket c <;> rfl
  rw [read, read, hb, classOf_congr hx]

theorem seated_congr (hx : t.terms x = s.terms x) (hb : t.bond b = s.bond a) (hs : b.serving = a.serving) :
    t.seated b x = s.seated a x := by
  have read : ∀ (u : State) (c : Station), u.seated c x = (!u.seatBoundOf x ||
      ((u.bond c).bind fun m => m.2.2).elim false fun q => decide (sectorOf c.serving = q.sector)) := fun u c => by
    unfold State.seated State.bond
    cases hk : u.boundTicket c with
    | none => rfl
    | some k => cases hq : k.seat <;> simp [Ticket.merits, hq]
  rw [read, read, hb, seatBoundOf_congr hx, hs]

end

/-- A bound ticket written with the same merits is worth what it was. -/
theorem bond_setTicket {s : State} {n : TicketHandle} {k k' : Ticket} (hk : s.ticket? n = some k)
    (hm : k'.merits = k.merits) (st : Station) : (s.setTicket n k').bond st = s.bond st := by
  unfold State.bond State.boundTicket
  cases st.ticket with
  | none => rfl
  | some m =>
    by_cases h : m = n
    · simp only [h, ticket?_setTicket_self, hk, Option.map_some, hm]
    · simp only [ticket?_setTicket_of_ne s k' h]

/-- A ticket written is not seen by a station that is not bound to it. -/
theorem bond_setTicket_of_ne (s : State) {n : TicketHandle} (k : Ticket) {st : Station} (hn : st.ticket ≠ some n) :
    (s.setTicket n k).bond st = s.bond st := by
  unfold State.bond State.boundTicket
  cases hst : st.ticket with
  | none => rfl
  | some m =>
    have h : m ≠ n := fun h => hn (hst.trans (congrArg some h))
    simp only [ticket?_setTicket_of_ne s k h]

/-! ### The invariant -/

/-- A list holds at most two streams, none twice and none IDLE (R86). -/
def State.listOk (s : State) (st : Station) : Prop :=
  st.subs.length ≤ 2 ∧ (st.subs.map (·.stream)).Nodup ∧ ∀ e ∈ st.subs, s.terms e.stream ≠ none

/-- No entry is ACTIVE on the list of a LINGERING station, nor, where the tickets are looked at too, one to which the station
is not entitled (R98). -/
def State.activeOk (strict : Prop) (s : State) (st : Station) : Prop :=
  ∀ e ∈ st.subs, e.state = .active →
    isLingering st.state = false ∧ (strict → s.entitled st e.stream = true ∧ s.seated st e.stream = true)

/-- All lists are in order, and so are their ACTIVE entries but for those of the station `but`, whose list is about to be
evaluated. -/
structure State.listsAgree (strict : Prop) (but : Option Handle) (s : State) : Prop where
  lists : ∀ h st, s.station? h = some st → s.listOk st
  actives : ∀ h st, s.station? h = some st → but ≠ some h → s.activeOk strict st

theorem subscriptionsOk_iff (s : State) : s.subscriptionsOk ↔ s.ticketsOk ∧ s.listsAgree True none := by
  unfold State.subscriptionsOk State.listsOk State.activeEntitled
  refine and_congr_right fun _ => ⟨fun ⟨lists, actives⟩ => ⟨fun h st hst => ?_, fun h st hst _ e he ha => ?_⟩,
    fun agree => ⟨fun h st hst => ?_, fun h st e hst he ha => ?_⟩⟩
  · obtain ⟨hlen, hn, hidle⟩ := lists h st hst
    exact ⟨hlen, hn, fun e he hx => hidle e he (terms_eq_none.1 hx)⟩
  · obtain ⟨hlingers, hentitled, hseated⟩ := actives h st e hst he ha
    exact ⟨hlingers, fun _ => ⟨hentitled, hseated⟩⟩
  · obtain ⟨hlen, hn, hidle⟩ := agree.lists h st hst
    exact ⟨hlen, hn, fun e he hx => hidle e he (terms_eq_none.2 hx)⟩
  · obtain ⟨hlingers, hstrict⟩ := agree.actives h st hst (by simp) e he ha
    exact ⟨hlingers, hstrict trivial⟩

section
variable {strict : Prop} {but : Option Handle} {s t : State}

/-- A list that has lost entries, whose streams stand on their terms. -/
theorem State.listOk.of_sublist {a b : Station} (h : s.listOk a) (hsub : b.subs.Sublist a.subs)
    (hx : ∀ e ∈ b.subs, t.terms e.stream = s.terms e.stream) : t.listOk b := by
  obtain ⟨hlen, hn, hidle⟩ := h
  exact ⟨hsub.length_le.trans hlen, hn.sublist (hsub.map _), fun e he => hx e he ▸ hidle e (hsub.subset he)⟩

theorem State.listOk.of_streams {a b : Station} (h : s.listOk a) (hsub : b.subs.map (·.stream) = a.subs.map (·.stream))
    (hx : ∀ x, t.terms x = s.terms x) : t.listOk b := by
  obtain ⟨hlen, hn, hidle⟩ := h
  refine ⟨?_, hsub ▸ hn, fun e he => ?_⟩
  · simpa using (congrArg List.length hsub).le.trans (by simpa using hlen)
  · obtain ⟨d, hd, hde⟩ := List.mem_map.1 (hsub ▸ List.mem_map_of_mem he)
    rw [hx, ← hde]
    exact hidle d hd

/-- Fewer entries, each with the grounds on which it stood. -/
theorem State.activeOk.of_sublist {a b : Station} (h : s.activeOk strict a) (hsub : b.subs.Sublist a.subs)
    (hx : ∀ e ∈ b.subs, t.terms e.stream = s.terms e.stream) (hstate : isLingering b.state = isLingering a.state)
    (hserving : b.serving = a.serving) (hbond : strict → t.bond b = s.bond a) : t.activeOk strict b := by
  intro e he ha
  obtain ⟨hlingers, hstrict⟩ := h e (hsub.subset he) ha
  refine ⟨hstate.trans hlingers, fun hs => ?_⟩
  rw [entitled_congr (hx e he) (hbond hs), seated_congr (hx e he) (hbond hs) hserving]
  exact hstrict hs

/-- Lists that have lost entries, where each entry that remains stands on the grounds on which it stood. -/
theorem State.listsAgree.of_fewer (H : s.listsAgree strict but) (but' : Option Handle)
    (each : ∀ h b, t.station? h = some b → ∃ a, s.station? h = some a ∧ b.subs.Sublist a.subs ∧
      (∀ e ∈ b.subs, t.terms e.stream = s.terms e.stream) ∧
      (but' ≠ some h → but ≠ some h ∧ isLingering b.state = isLingering a.state ∧ b.serving = a.serving ∧
        (strict → t.bond b = s.bond a))) : t.listsAgree strict but' := by
  refine ⟨fun h b hb => ?_, fun h b hb hne => ?_⟩
  · obtain ⟨a, ha, hsub, hx, _⟩ := each h b hb
    exact (H.lists h a ha).of_sublist hsub hx
  · obtain ⟨a, ha, hsub, hx, hrest⟩ := each h b hb
    obtain ⟨hbut, hstate, hserving, hbond⟩ := hrest hne
    exact (H.actives h a ha hbut).of_sublist hsub hx hstate hserving hbond

/-- Stations, tickets and terms decide it all. -/
theorem State.listsAgree.congr (H : s.listsAgree strict but) (hst : t.stations = s.stations) (htk : t.tickets = s.tickets)
    (hx : ∀ x, t.terms x = s.terms x) : t.listsAgree strict but :=
  H.of_fewer but fun h b hb => ⟨b, by rwa [State.station?, ← hst], .refl _, fun e _ => hx e.stream, fun hne =>
    ⟨hne, rfl, rfl, fun _ => by simp only [State.bond, State.boundTicket, State.ticket?, htk]⟩⟩

/-- A list about to be evaluated need not stand. -/
theorem State.listsAgree.reopen (H : s.listsAgree strict none) (h : Handle) : s.listsAgree strict (some h) :=
  ⟨H.lists, fun g st hst _ => H.actives g st hst (by simp)⟩

/-- A record written whose list is in order, and whose ACTIVE entries are too. -/
theorem State.listsAgree.set (H : s.listsAgree strict but) {h : Handle} {b : Station} (hb : s.listOk b)
    (ha : but ≠ some h → s.activeOk strict b) : (s.setStation h b).listsAgree strict but := by
  refine ⟨fun g c hc => ?_, fun g c hc hne => ?_⟩
  · by_cases hg : g = h
    · subst hg
      rw [station?_setStation_self] at hc
      cases hc
      exact hb
    · rw [station?_setStation_of_ne s b hg] at hc
      exact H.lists g c hc
  · by_cases hg : g = h
    · subst hg
      rw [station?_setStation_self] at hc
      cases hc
      exact ha hne
    · rw [station?_setStation_of_ne s b hg] at hc
      exact H.actives g c hc hne

theorem State.listsAgree.notify (H : s.listsAgree strict but) (dest : PortUnit → Bool) (n : Notice) (tag : Tag) :
    (s.notify dest n tag).listsAgree strict but := H.congr rfl rfl fun _ => rfl

section
variable {hs : Handle → Prop} {cs : CellId → StreamId → Prop}

theorem SubscriptionFrame.terms (f : SubscriptionFrame hs cs s t) (x : StreamId) : t.terms x = s.terms x :=
  terms_of_state (f.streams x).1

/-- Joins, leaves, level moves and the states of the entries of the station `but` leave the other lists. -/
theorem State.listsAgree.frame (H : s.listsAgree strict but) (f : SubscriptionFrame hs cs s t)
    (hbut : ∀ h, hs h → but = some h) : t.listsAgree strict but := by
  have tickets : ∀ st, t.bond st = s.bond st := fun st => by
    simp only [State.bond, State.boundTicket, State.ticket?, f.tickets]
  refine ⟨fun h b hb => ?_, fun h b hb hne => ?_⟩
  · cases ha : s.station? h with
    | none => rw [f.free h ha] at hb; cases hb
    | some a =>
      obtain ⟨c, hc, hac⟩ := f.own h a ha
      cases hb.symm.trans hc
      exact (H.lists h a ha).of_streams hac.streams f.terms
  · rw [f.stations h fun hh => hne (hbut h hh)] at hb
    exact (H.actives h b hb hne).of_sublist (.refl _) (fun e _ => f.terms e.stream) rfl rfl fun _ => tickets b

/-- An evaluation puts the list of its station in order (R98, R100). -/
theorem State.listsAgree.evaluateWith {h : Handle} (H : s.listsAgree strict (some h)) (tag : Tag) (joined : Bool)
    (fresh : Option StreamId) : (s.evaluateWith h tag joined fresh).listsAgree strict none := by
  have f : SubscriptionFrame (· = h) (fun _ _ => True) s (s.evaluateWith h tag joined fresh) :=
    evaluateWith_frame (hs := (· = h)) s rfl tag joined fresh fun _ _ _ _ _ => trivial
  have kept := H.frame f fun g hg => by rw [hg]
  refine ⟨kept.lists, fun g st hst _ => ?_⟩
  by_cases hg : g = h
  · subst hg
    intro e he ha
    have decided := evaluateWith_decides s g tag joined fresh (fun a ha => (H.lists g a ha).2.1) st e hst he
    unfold State.decided at decided
    split at decided
    · rw [ha] at decided; cases decided
    · next hl =>
      split at decided
      · rw [ha] at decided; cases decided
      · next hent =>
        split at decided
        · rw [ha] at decided; cases decided
        · next hseat => exact ⟨by simpa using hl, fun _ => ⟨by simpa using hent, by simpa using hseat⟩⟩
  · exact kept.actives g st hst fun heq => hg (Option.some.inj heq).symm

theorem State.listsAgree.evaluate {h : Handle} (H : s.listsAgree strict (some h)) (tag : Tag) :
    (s.evaluate h tag).listsAgree strict none := H.evaluateWith tag true none

end

/-! ### The records written -/

/-- An entry taken off a list (R89). -/
theorem State.listsAgree.removeSub (H : s.listsAgree strict but) (h : Handle) (x : StreamId) :
    (s.removeSub h x).listsAgree strict but := by
  have terms : ∀ y, (s.removeSub h x).terms y = s.terms y := fun y => terms_of_state (streamState_removeSub s h x y)
  have bond : ∀ st, (s.removeSub h x).bond st = s.bond st := fun st => by
    obtain ⟨_, _, hr⟩ := removeSub_rest s h x
    rw [hr]
    rfl
  refine H.of_fewer but fun g b hb => ?_
  by_cases hg : g = h
  · subst hg
    rw [station?_removeSub_self, Option.map_eq_some_iff] at hb
    obtain ⟨a, ha, rfl⟩ := hb
    exact ⟨a, ha, List.filter_sublist, fun e _ => terms e.stream, fun hne => ⟨hne, rfl, rfl, fun _ => bond a⟩⟩
  · rw [station?_removeSub_of_ne s hg] at hb
    exact ⟨b, hb, .refl _, fun e _ => terms e.stream, fun hne => ⟨hne, rfl, rfl, fun _ => bond b⟩⟩

theorem State.listsAgree.leaveAndRemove (H : s.listsAgree strict but) (h : Handle) (x : StreamId) (tag : Tag) :
    (s.leaveAndRemove h x tag).listsAgree strict but := by
  unfold State.leaveAndRemove
  split
  · exact H
  · split
    · exact H
    · dsimp only
      refine State.listsAgree.removeSub ?_ h x
      split
      · exact H.frame (leave_frame (hs := fun _ => False) (cs := fun _ _ => True) s trivial _ tag) fun _ => False.elim
      · exact H

theorem State.listsAgree.removeTicketed (H : s.listsAgree strict but) (h : Handle) (tag : Tag) (gone : List Subscription) :
    (s.removeTicketed h tag gone).listsAgree strict but := by
  unfold State.removeTicketed
  induction gone generalizing s with
  | nil => exact H
  | cons e gone ih => exact ih ((H.leaveAndRemove h e.stream tag).notify _ _ _)

/-- A record written whose list is in order, and about to be evaluated. -/
theorem State.listsAgree.put {h : Handle} (H : s.listsAgree strict (some h)) {b : Station} (hb : s.listOk b) :
    (s.setStation h b).listsAgree strict (some h) := H.set hb fun hne => absurd rfl hne

/-- A station that another cell, state, level or ticket is written to, whose list is about to be evaluated. -/
theorem State.listsAgree.rewrite {h : Handle} (H : s.listsAgree strict (some h)) {a b : Station}
    (ha : s.station? h = some a) (hsubs : b.subs = a.subs) : (s.setStation h b).listsAgree strict (some h) :=
  H.put ((H.lists h a ha).of_sublist (hsubs ▸ .refl _) fun _ _ => rfl)

/-- A ticket written to with its merits as they were. -/
theorem State.listsAgree.setTicket (H : s.listsAgree strict but) {n : TicketHandle} {k k' : Ticket}
    (hk : s.ticket? n = some k) (hm : k'.merits = k.merits) : (s.setTicket n k').listsAgree strict but :=
  H.of_fewer but fun _ b hb => ⟨b, hb, .refl _, fun _ _ => rfl, fun hne => ⟨hne, rfl, rfl, fun _ => bond_setTicket hk hm b⟩⟩

/-- A ticket written to is seen by the station bound to it alone (R92). -/
theorem State.listsAgree.changeTicket (H : s.listsAgree strict none) (hg : strict → s.bindingsOk) {n : TicketHandle}
    {k : Ticket} (hk : s.ticket? n = some k) (k' : Ticket) : (s.setTicket n k').listsAgree strict k.station := by
  refine H.of_fewer k.station fun g b hb => ⟨b, hb, .refl _, fun _ _ => rfl, fun hne =>
    ⟨by simp, rfl, rfl, fun hs => bond_setTicket_of_ne s k' fun hn => ?_⟩⟩
  obtain ⟨k₁, hk₁, hstation⟩ := (hg hs).1 g b n hb hn
  cases hk.symm.trans hk₁
  exact hne hstation

/-- A binding cleared is seen by the list of its station (R92). -/
theorem State.listsAgree.clearBinding {h : Handle} (H : s.listsAgree strict (some h)) (n : TicketHandle)
    (cause : UnbindCause) (tag : Tag) : (s.clearBinding h n cause tag).listsAgree strict (some h) := by
  have ticket : ∀ u : State, u.listsAgree strict (some h) → (match u.ticket? n with
      | none => u
      | some k => u.setTicket n { k with station := none }).listsAgree strict (some h) := fun u hu => by
    split
    · exact hu
    · next hk => exact hu.setTicket hk rfl
  unfold State.clearBinding
  refine (ticket _ ?_).notify _ _ _
  split
  · exact H
  · next hst => exact H.rewrite hst rfl

theorem State.listsAgree.makeBinding {h : Handle} (H : s.listsAgree strict (some h)) (n : TicketHandle) (tag : Tag) :
    (s.makeBinding h n tag).listsAgree strict none := by
  have ticket : ∀ u : State, u.listsAgree strict (some h) → (match u.ticket? n with
      | none => u
      | some k => u.setTicket n { k with station := some h }).listsAgree strict (some h) := fun u hu => by
    split
    · exact hu
    · next hk => exact hu.setTicket hk rfl
  unfold State.makeBinding
  refine (ticket _ ?_).evaluate tag
  split
  · exact H
  · next hst => exact H.rewrite hst rfl

theorem State.listsAgree.evaluateBound {k : Ticket} (H : s.listsAgree strict k.station) (tag : Tag) :
    (s.evaluateBound k tag).listsAgree strict none := by
  unfold State.evaluateBound
  split
  · next hk => rwa [hk] at H
  · next g hg => exact State.listsAgree.evaluate (hg ▸ H) tag

end

end Sys2Proof.Machine
end

section
namespace Sys2Proof.Machine

open Sys2Proof

/-! ### Every change of the records -/

/-- The Station Table keeps its form through every change. -/
theorem RecordChange.wf {s t : State} (c : RecordChange s t) (hw : tableWf s.stations = true) :
    tableWf t.stations = true := by
  have stored : ∀ (g : Handle) (b : Station), tableWf (s.setStation g b).stations = true := fun g b => tableWf_store hw g b
  have evaluated : ∀ {u : State} (g : Handle) (tag : Tag), tableWf u.stations = true →
      tableWf (u.evaluate g tag).stations = true := fun g tag => (StationsFrame.evaluate _ g tag).wf
  cases c with
  | beside h => rwa [h.stations]
  | cleared hst => rw [hst]; rfl
  | created hnone rest a c l => exact stored _ _
  | revived hst hs c l tag => exact evaluated _ tag (stored _ _)
  | lingers hst hs tag => exact evaluated _ tag (stored _ _)
  | handedOver hst hs by_ => exact (RecordFrame.completeHandover (fresh := fun _ => True) trivial s _ by_).wf hw
  | abandoned hst hs lapsed => exact (RecordFrame.abandonClaim (fresh := fun _ => True) trivial s _ lapsed).wf hw
  | claimed hst hs c tag => exact stored _ _
  | @releveled g st hst l tag =>
    cases hs : isLingering st.state with
    | true => rw [replaceLevel_of_lingering hs]; exact stored _ _
    | false =>
      rw [replaceLevel_of_served hs]
      refine (StationsFrame.foldl (fun v (e : Subscription) => ?_) st.subs _).wf (stored _ _)
      split
      · exact .moveLevel v _ _ _ l tag
      · exact .refl v
  | expired hst hs => exact (RecordFrame.expireLinger (fresh := fun _ => True) s _).wf hw
  | loaded ts => rwa [loadAll_rest]
  | admitted hk g tag => exact (StationsFrame.evaluateBound _ _ tag).wf hw
  | exited hk tag => exact (StationsFrame.evaluateBound _ _ tag).wf hw
  | @voided n k hk tag =>
    have marked : tableWf (s.markVoid n k).stations = true := by
      rw [markVoid_eq, vacate_rest]
      exact hw
    unfold State.voidRecord
    dsimp only
    split
    · exact marked
    · next g _ =>
      refine evaluated g tag ((StationsFrame.foldl (fun v (e : Subscription) => ?_) _ _).wf
        ((StationsFrame.clearBinding _ g n .voiding tag).wf marked))
      exact (StationsFrame.leaveAndRemove v g e.stream tag).trans (.notify _ _ _ _)
  | rebound g tag => exact evaluated g tag hw
  | bound hst hk hunbound tag => exact (StationsFrame.makeBinding s _ _ tag).wf hw
  | @moved g earlier st n k hst hk hearlier hne tag =>
    exact (StationsFrame.makeBinding _ g n tag).wf (evaluated earlier tag ((StationsFrame.clearBinding s _ n _ tag).wf hw))
  | @unbound g n k hk hg tag => exact evaluated g tag ((StationsFrame.clearBinding s g n .unbind tag).wf hw)
  | opened hs info => exact hw
  | rated hs rate tag => exact (StationsFrame.adjustCarriages _ _ tag).wf hw
  | closed hs tag f => exact hw
  | drained hs => exact (StationsFrame.completeDrain s _).wf hw
  | subscribed hst hnew hroom hs tag => exact (StationsFrame.evaluateWith _ _ tag true _).wf (stored _ _)
  | unsubscribed g x tag => exact (StationsFrame.leaveAndRemove s g x tag).wf hw

section
variable {strict : Prop} {s : State}

theorem State.listsAgree.beside {but : Option Handle} {t : State} (H : s.listsAgree strict but) (b : Beside s t) :
    t.listsAgree strict but :=
  H.congr b.stations b.tickets fun x => by rw [State.terms, State.stream, b.streams, State.terms, State.stream]

/-- Terms that change are of streams on no list (R86). -/
theorem State.listsAgree.setStream {but : Option Handle} (H : s.listsAgree strict but) {x : StreamId} {v : Stream}
    (hv : (streamInfo? v.state).map (fun i => (i.cls, i.seatBound)) = s.terms x ∨ s.terms x = none) :
    (s.setStream x v).listsAgree strict but := by
  refine H.of_fewer but fun h b hb => ⟨b, hb, .refl _, fun e he => ?_, fun hne => ⟨hne, rfl, rfl, fun _ => rfl⟩⟩
  by_cases hx : e.stream = x
  · rcases hv with hv | hnone
    · rw [hx, State.terms, stream_setStream_self, hv]
    · exact absurd (hx ▸ hnone) ((H.lists h b hb).2.2 e he)
  · exact terms_of_state (congrArg Stream.state (stream_setStream_of_ne s v hx))

/-- A station written to without a change of its entries or of the grounds on which they stand. -/
theorem State.listsAgree.keepEntries (H : s.listsAgree strict none) {g : Handle} {a b : Station} (ha : s.station? g = some a)
    (hsubs : b.subs = a.subs) (hstate : isLingering b.state = isLingering a.state) (hserving : b.serving = a.serving)
    (hticket : strict → b.ticket = a.ticket) : (s.setStation g b).listsAgree strict none := by
  refine H.set ((H.lists g a ha).of_sublist (hsubs ▸ .refl _) fun _ _ => rfl) fun _ =>
    (H.actives g a ha (by simp)).of_sublist (hsubs ▸ .refl _) (fun _ _ => rfl) hstate hserving fun hs => ?_
  simp only [State.bond, State.boundTicket, hticket hs]

section
variable {g : Handle} {st : Station} {c : CellId} {deadline : FrameNo} {tag : Tag}

/-- A completed handover evaluates the list at the new cell (R43). -/
theorem State.listsAgree.completeHandover (H : s.listsAgree strict none) (hst : s.station? g = some st)
    (hs : st.state = .inHandover c deadline tag) (by_ : Completion) : (s.completeHandover g by_).listsAgree strict none := by
  rw [completeHandover_eq hst hs]
  have written := (H.reopen g).rewrite
    (b := { st with serving := c, state := .associated, sequence := st.sequence + 1 }) hst rfl
  have moved : (s.moveStation g st c).listsAgree strict (some g) := written.congr rfl rfl fun _ => rfl
  exact ((moved.frame (leaveOld_frame (hs := fun _ => False) (cs := fun _ _ => True) _ _ tag fun _ _ => trivial)
    fun _ => False.elim).evaluateWith tag false none).notify _ _ _

/-- An abandoned claim leaves the list where it stands (R47). -/
theorem State.listsAgree.abandonClaim (H : s.listsAgree strict none) (hst : s.station? g = some st)
    (hs : st.state = .inHandover c deadline tag) (lapsed : Bool) : (s.abandonClaim g lapsed).listsAgree strict none := by
  have written := H.keepEntries (b := { st with state := .associated }) hst rfl (by rw [hs]; rfl) rfl fun _ => rfl
  simp only [State.abandonClaim, hst, hs]
  exact written.congr rfl rfl fun _ => rfl

end

theorem State.listsAgree.expireClaim (H : s.listsAgree strict none) (g : Handle) :
    (s.expireClaim g).listsAgree strict none := by
  rcases expireClaim_cases s g with he | ⟨st, c, deadline, tag, hst, hs, he⟩
  · rwa [he]
  · rw [he]
    split
    · exact H.abandonClaim hst hs true
    · exact H.completeHandover hst hs .deadline

/-- A completed drain takes its stream off every list (R83). -/
theorem State.listsAgree.drained (H : s.listsAgree strict none) (hw : tableWf s.stations = true) (x : StreamId) :
    (s.drained x).listsAgree strict none := by
  have bond : ∀ b, (s.drained x).bond b = s.bond b := fun b => by
    rw [drained_rest]
    rfl
  refine H.of_fewer none fun h b hb => ?_
  rw [station?_drained hw, Option.map_eq_some_iff] at hb
  obtain ⟨a, ha, rfl⟩ := hb
  refine ⟨a, ha, List.filter_sublist, fun e he => ?_, fun _ => ⟨by simp, rfl, rfl, fun _ => bond a⟩⟩
  have hx : e.stream ≠ x := by simpa using (List.mem_filter.1 he).2
  exact terms_of_state (by rw [stream_drained hw, if_neg hx])

theorem State.listsAgree.completeDrain (H : s.listsAgree strict none) (hw : tableWf s.stations = true) (x : StreamId) :
    (s.completeDrain x).listsAgree strict none := by
  cases hs : (s.stream x).state with
  | idle => simpa only [State.completeDrain, hs] using H
  | live i => simpa only [State.completeDrain, hs] using H
  | draining i tag f =>
    rw [completeDrain_of_draining hs, drainStream_eq]
    exact (H.drained hw x).notify _ _ _

/-- A freed record leaves the other lists (R30). -/
theorem State.listsAgree.freeLingering (H : s.listsAgree strict none) {g : Handle} {st : Station} {deadline : FrameNo}
    {tag : Tag} (hst : s.station? g = some st) (hs : st.state = .lingering deadline tag) :
    (s.expireLinger g).listsAgree strict none := by
  rw [expireLinger_eq hst hs]
  refine State.listsAgree.notify ?_ _ _ _
  have terms : ∀ x, (s.emptyRecord g st tag).terms x = s.terms x := fun x => terms_of_state (by
    rw [stream_emptyRecord hst (H.lists g st hst).2.1]
    split <;> rfl)
  have bond : ∀ b, (s.emptyRecord g st tag).bond b = s.bond b := fun b => by
    unfold State.bond State.boundTicket
    cases b.ticket with
    | none => rfl
    | some n =>
      simp only [ticket?_emptyRecord]
      split
      · cases s.ticket? n <;> rfl
      · rfl
  refine H.of_fewer none fun h b hb => ?_
  by_cases hg : h = g
  · subst hg
    exact absurd (hb.symm.trans (tableFind_erase_self _ h)) (by simp)
  · have hb' : (s.emptyRecord g st tag).station? h = some b := (tableFind_erase_of_ne _ hg).symm.trans hb
    rw [station?_emptyRecord_of_ne hg] at hb'
    exact ⟨b, hb', .refl _, fun e _ => terms e.stream, fun _ => ⟨by simp, rfl, rfl, fun _ => bond b⟩⟩

theorem State.listsAgree.expireLinger (H : s.listsAgree strict none) (g : Handle) :
    (s.expireLinger g).listsAgree strict none := by
  cases hst : s.station? g with
  | none => simpa only [State.expireLinger, hst] using H
  | some st =>
    cases hs : st.state with
    | associated => simpa only [State.expireLinger, hst, hs] using H
    | inHandover c deadline tag => simpa only [State.expireLinger, hst, hs] using H
    | lingering deadline tag => exact H.freeLingering hst hs

theorem listsAgree_of_noStations (hst : s.stations = []) : s.listsAgree strict none := by
  have hnone : ∀ h, s.station? h = none := fun h => by
    rw [State.station?, hst]
    rfl
  exact ⟨fun h st hh => absurd (hh.symm.trans (hnone h)) (by simp),
    fun h st hh => absurd (hh.symm.trans (hnone h)) (by simp)⟩

/-- Tickets loaded are bound to no station yet (R56, R59). -/
theorem State.listsAgree.loadAll (H : s.listsAgree strict none) (hg : strict → s.gatesAgree) (ts : List Ticket) :
    (s.loadAll ts).listsAgree strict none := by
  have terms : ∀ x, (s.loadAll ts).terms x = s.terms x := fun x => by rw [loadAll_rest]; rfl
  have stations : ∀ h, (s.loadAll ts).station? h = s.station? h := fun h => by rw [loadAll_rest]; rfl
  refine H.of_fewer none fun h b hb => ⟨b, stations h ▸ hb, .refl _, fun e _ => terms e.stream, fun _ =>
    ⟨by simp, rfl, rfl, fun hs => ?_⟩⟩
  unfold State.bond State.boundTicket
  cases hn : b.ticket with
  | none => rfl
  | some n =>
    obtain ⟨⟨_, _, _, hloaded, _⟩, hbindings, _⟩ := hg hs
    obtain ⟨k, hk, _⟩ := hbindings.1 h b n (stations h ▸ hb) hn
    have hlt : n < s.loaded := (hloaded n).1 (by rw [hk]; rfl)
    simp only [ticket?_loadAll, if_neg fun hle : s.loaded ≤ n ∧ n < s.loaded + ts.length => absurd hlt (Nat.not_lt.2 hle.1)]

/-- A VOID is seen by the station bound to its ticket alone (R70). -/
theorem State.listsAgree.voidRecord (H : s.listsAgree strict none) (hg : strict → s.gatesAgree) {n : TicketHandle}
    {k : Ticket} (hk : s.ticket? n = some k) (tag : Tag) : (s.voidRecord n k tag).listsAgree strict none := by
  have marked : (s.markVoid n k).listsAgree strict k.station := by
    rw [markVoid_eq, vacate_rest]
    exact State.listsAgree.congr (H.changeTicket (fun hs => (hg hs).2.1) hk _) rfl rfl fun _ => rfl
  unfold State.voidRecord
  dsimp only
  split
  · next hunbound => rwa [hunbound] at marked
  · next g hbound =>
    rw [hbound] at marked
    exact ((marked.clearBinding n .voiding tag).removeTicketed g tag _).evaluate tag

/-- A list with room takes a stream that it does not hold and that is not IDLE (R86, R88). -/
theorem State.listOk.append {st : Station} (h : s.listOk st) {x : StreamId} (hnew : findSub st.subs x = none)
    (hroom : st.subs.length < 2) (hx : s.terms x ≠ none) :
    s.listOk { st with subs := st.subs ++ [⟨x, .suspended .lingering⟩] } := by
  obtain ⟨_, hn, hidle⟩ := h
  have hout : x ∉ st.subs.map (·.stream) := by
    rw [← decide_eq_false_iff_not, ← findSub_isSome, hnew]
    rfl
  refine ⟨?_, ?_, fun e he => ?_⟩
  · rw [List.length_append]
    exact hroom
  · rw [List.map_append, List.nodup_append]
    refine ⟨hn, by simp, fun y hy z hz => ?_⟩
    obtain rfl : z = x := by simpa using hz
    exact fun heq => hout (heq ▸ hy)
  · rcases List.mem_append.1 he with he | he
    · exact hidle e he
    · obtain rfl : e = ⟨x, .suspended .lingering⟩ := by simpa using he
      exact hx

/-- Every change of the records keeps the lists in order, and their ACTIVE entries entitled where the tickets are known to
agree. -/
theorem RecordChange.listsAgree {t : State} (c : RecordChange s t) (hw : tableWf s.stations = true)
    (hg : strict → s.gatesAgree) (H : s.listsAgree strict none) : t.listsAgree strict none := by
  cases c with
  | beside h => exact H.beside h
  | cleared hst => exact listsAgree_of_noStations hst
  | @created g hnone rest a c l =>
    have blank := H.set (h := g) (b := ⟨a, .associated, c, 0, l, none, []⟩) ⟨by simp, by simp, by simp⟩
      fun _ e he => absurd he (by simp)
    exact blank.congr rfl rfl fun _ => rfl
  | @revived g st hst hs c l tag =>
    have written := (H.reopen g).rewrite (b := { st with state := .associated, serving := c, level := l }) hst rfl
    refine State.listsAgree.evaluate (h := g) ?_ tag
    exact written.congr rfl rfl fun _ => rfl
  | @lingers g st hst hs tag =>
    have written := (H.reopen g).rewrite
      (b := { st with state := .lingering (s.clock.frame + BitVec.ofNat 32 s.venue.lingerTime) tag }) hst rfl
    refine State.listsAgree.evaluate (h := g) ?_ tag
    exact written.congr rfl rfl fun _ => rfl
  | handedOver hst hs by_ => exact H.completeHandover hst hs by_
  | abandoned hst hs lapsed => exact H.abandonClaim hst hs lapsed
  | @claimed g st hst hs c tag =>
    have written := H.keepEntries
      (b := { st with state := .inHandover c (s.clock.frame + BitVec.ofNat 32 s.venue.handoverWindow) tag }) hst rfl
      (by rw [hs]; rfl) rfl fun _ => rfl
    exact written.congr rfl rfl fun _ => rfl
  | @releveled g st hst l tag =>
    have written := H.keepEntries (b := { st with level := l }) hst rfl rfl rfl fun _ => rfl
    exact written.frame (replaceLevel_frame s g st l tag) fun _ => False.elim
  | expired hst hs => exact H.freeLingering hst hs
  | loaded ts => exact H.loadAll hg ts
  | @admitted n k hk g tag =>
    have written := H.changeTicket (fun hs => (hg hs).2.1) hk (admittedTicket k g s.clock.frame)
    refine State.listsAgree.evaluateBound ?_ tag
    exact written.congr rfl rfl fun _ => rfl
  | @exited n k hk tag =>
    have written := H.changeTicket (fun hs => (hg hs).2.1) hk { k with entry := .exited }
    refine State.listsAgree.evaluateBound ?_ tag
    exact written.congr rfl rfl fun _ => rfl
  | voided hk tag => exact H.voidRecord hg hk tag
  | rebound g tag => exact (H.reopen g).evaluate tag
  | bound hst hk hunbound tag => exact (H.reopen _).makeBinding _ tag
  | moved hst hk hearlier hne tag => exact ((((H.reopen _).clearBinding _ .move tag).evaluate tag).reopen _).makeBinding _ tag
  | unbound hk hg' tag => exact ((H.reopen _).clearBinding _ .unbind tag).evaluate tag
  | opened hs info => exact H.setStream (.inr (terms_eq_none.2 hs))
  | @rated x info hs rate tag =>
    refine State.listsAgree.frame (H.setStream (.inl ?_)) (adjustAll_frame (hs := fun _ => False)
      (cs := fun _ _ => True) ⟨_, 0, 0⟩ fun _ => trivial) fun _ => False.elim
    rw [State.terms, hs]
    rfl
  | closed hs tag f =>
    refine H.setStream (.inl ?_)
    rw [State.terms, hs]
    rfl
  | drained hs => exact H.completeDrain hw _
  | @subscribed g st x info hst hnew hroom hs tag =>
    have appended := (H.lists g st hst).append hnew hroom (by rw [State.terms, hs]; simp [streamInfo?])
    have listed := (H.reopen g).put appended
    refine State.listsAgree.evaluateWith (h := g) ?_ tag true (some x)
    exact listed.setStream (v := { s.stream x with held := (s.stream x).held + 1 }) (.inl rfl)
  | unsubscribed g x tag => exact H.leaveAndRemove g x tag

/-- Every row keeps the lists in order. -/
theorem Effect.keepsLists {i : Instr} {t : State} (he : Effect s i t) (hr : s.recordsAgree)
    (hg : strict → s.settle.gatesAgree) (H : tableWf s.stations = true ∧ s.listsAgree strict none) :
    tableWf t.stations = true ∧ t.listsAgree strict none := by
  have engine : ∀ {cells : CellId → Prop} {u v : State}, EngineFrame cells u v →
      tableWf u.stations = true ∧ u.listsAgree strict none → tableWf v.stations = true ∧ v.listsAgree strict none := by
    rintro cells u v f ⟨hw, H⟩
    obtain ⟨ca, pl, se, pa, st, po, rfl⟩ := f.rest
    exact ⟨hw, H.congr rfl rfl fun _ => rfl⟩
  refine he.keeps (I := fun u => tableWf u.stations = true ∧ u.listsAgree strict none) hr (fun b ⟨hw, H⟩ => ?_)
    (fun u => ⟨rfl, listsAgree_of_noStations rfl⟩) (fun u g x ⟨hw, H⟩ => ?_)
    (fun u H => ⟨engine (.planBoundary u) H, engine (.finishBuild u) H⟩) (fun u c ⟨hw, H⟩ => ⟨c.wf hw, c.listsAgree hw hg H⟩) H
  · exact ⟨b.stations ▸ hw, H.beside b⟩
  · exact ⟨⟨(change_expireClaim u g).wf hw, H.expireClaim g⟩, ⟨(change_expireLinger u g).wf hw, H.expireLinger g⟩,
      (change_completeDrain u x).wf hw, H.completeDrain hw x⟩

end

end Sys2Proof.Machine

open Sys2Proof Sys2Proof.Machine

/-- Settles O56, by the kinds of change that a row can make to the records: an evaluation ends every change that could leave an
ACTIVE entry without its grounds. -/
theorem stepKeepsSubscriptionsOk : Obligations.StepKeepsSubscriptionsOk := by
  intro s t hs ht
  obtain ⟨htickets, hlists⟩ := (subscriptionsOk_iff s).1 hs
  refine (subscriptionsOk_iff t).2 ⟨stepKeepsTicketsOk s t htickets ht, ?_⟩
  obtain ⟨hstations, hgates⟩ := (ticketsOk_iff s).1 htickets
  obtain ⟨_, hrecords⟩ := (stationsOk_iff s).1 hstations
  unfold step at ht
  split at ht
  · cases ht
    exact hlists
  · next c rest _ =>
    have places : StationsFrame s { s with pending := rest } := .beside rfl rfl rfl rfl rfl
    have waiting : TicketsFrame s { s with pending := rest } := .beside id rfl rfl rfl rfl rfl
    have agree := waiting.gatesAgree hgates
    exact ((effect_of_exec ht).keepsLists (places.recordsAgree hrecords)
      (fun _ => gatesAgree_settle agree) ⟨hrecords.1.1, hlists.congr rfl rfl fun _ => rfl⟩).2
end

section
namespace Sys2Proof.Machine

open Sys2Proof

/-! ## Tables: sums, and equality of two with the same records -/

section
variable {α β : Type}

theorem tableFind_of_lt {lo k : Nat} {t : Table α} (hw : keysRiseFrom lo t = true) (hk : k < lo) : tableFind t k = none := by
  cases hf : tableFind t k with
  | none => rfl
  | some v => exact absurd (key_le_of_mem hw (mem_of_find hf)) (Nat.not_le.2 hk)

theorem table_ext_from {lo : Nat} {t u : Table α} (ht : keysRiseFrom lo t = true) (hu : keysRiseFrom lo u = true)
    (h : ∀ k, tableFind t k = tableFind u k) : t = u := by
  induction t generalizing lo u with
  | nil =>
    cases u with
    | nil => rfl
    | cons e u => simpa [tableFind] using h e.1
  | cons e t ih =>
    obtain ⟨j, v⟩ := e
    cases u with
    | nil => simpa [tableFind] using h j
    | cons d u =>
      obtain ⟨i, w⟩ := d
      simp only [keysRiseFrom, Bool.and_eq_true, decide_eq_true_eq] at ht hu
      obtain ⟨_, ht⟩ := ht
      obtain ⟨_, hu⟩ := hu
      have hij : i = j := by
        rcases Nat.lt_trichotomy i j with hlt | heq | hlt
        · have := h i
          rw [tableFind_cons, if_neg (by omega), tableFind_of_lt ht (by omega), tableFind_cons, if_pos rfl] at this
          cases this
        · exact heq
        · have := h j
          rw [tableFind_cons, if_pos rfl, tableFind_cons, if_neg (by omega), tableFind_of_lt hu (by omega)] at this
          cases this
      subst hij
      have hv : v = w := by simpa [tableFind] using h i
      subst hv
      congr 1
      refine ih ht hu fun k => ?_
      by_cases hk : i = k
      · subst hk
        rw [tableFind_of_lt ht (Nat.lt_succ_self i), tableFind_of_lt hu (Nat.lt_succ_self i)]
      · simpa [tableFind, hk] using h k

/-- Two tables in canonical form that hold the same records are one. -/
theorem table_ext {t u : Table α} (ht : tableWf t = true) (hu : tableWf u = true)
    (h : ∀ k, tableFind t k = tableFind u k) : t = u := table_ext_from ht hu h

/-- Tables whose records have the same images have the same image. -/
theorem tableMap_ext {f : α → β} {t u : Table α} (ht : tableWf t = true) (hu : tableWf u = true)
    (h : ∀ k, (tableFind t k).map f = (tableFind u k).map f) : tableMap f t = tableMap f u :=
  table_ext (by rwa [tableWf_map]) (by rwa [tableWf_map]) fun k => by rw [tableFind_map, tableFind_map, h]

/-- The sum over a table of what `w` makes of a key and its record. -/
def tableSum (w : Nat → α → Nat) (t : Table α) : Nat := (t.map fun e => w e.1 e.2).sum

variable (w : Nat → α → Nat)

theorem tableSum_cons (k : Nat) (v : α) (t : Table α) : tableSum w ((k, v) :: t) = w k v + tableSum w t := by
  rw [tableSum, List.map_cons, List.sum_cons, tableSum]

theorem tableSum_place (t : Table α) (k : Nat) (v : α) : tableSum w (tablePlace t k v) = tableSum w t + w k v := by
  induction t with
  | nil => rw [tablePlace, tableSum_cons, Nat.add_comm]
  | cons e t ih =>
    rw [tablePlace]
    split
    · rw [tableSum_cons, Nat.add_comm]
    · rw [tableSum_cons, ih, tableSum_cons, Nat.add_assoc]

theorem tableSum_erase_from {lo : Nat} {t : Table α} (hw : keysRiseFrom lo t = true) (k : Nat) :
    tableSum w (tableErase t k) + (tableFind t k).elim 0 (w k) = tableSum w t := by
  induction t generalizing lo with
  | nil => rfl
  | cons e t ih =>
    obtain ⟨j, v⟩ := e
    simp only [keysRiseFrom, Bool.and_eq_true, decide_eq_true_eq] at hw
    by_cases hj : j = k
    · subst hj
      rw [tableErase, if_pos rfl, tableErase_of_lt hw.2 (Nat.lt_succ_self j), tableFind_cons, if_pos rfl, tableSum_cons,
        Nat.add_comm]
      rfl
    · rw [tableErase, if_neg hj, tableFind_cons, if_neg hj, tableSum_cons, tableSum_cons, ← ih hw.2, Nat.add_assoc]

/-- A record taken out leaves the sum of the others. -/
theorem tableSum_erase {t : Table α} (hw : tableWf t = true) (k : Nat) :
    tableSum w (tableErase t k) + (tableFind t k).elim 0 (w k) = tableSum w t := tableSum_erase_from w hw k

/-- A record stored is summed in the place of the one that stood under its key. -/
theorem tableSum_store {t : Table α} (hw : tableWf t = true) (k : Nat) (v : α) :
    tableSum w (tableStore t k v) + (tableFind t k).elim 0 (w k) = tableSum w t + w k v := by
  rw [tableStore, tableSum_place, Nat.add_right_comm, tableSum_erase w hw]

theorem tableSum_map (f : β → α) (t : Table β) : tableSum w (tableMap f t) = tableSum (fun k v => w k (f v)) t := by
  rw [tableSum, tableMap, List.map_map, tableSum]
  rfl

theorem length_eq_tableSum (t : Table α) : t.length = tableSum (fun _ _ => 1) t := by
  induction t with
  | nil => rfl
  | cons e t ih => rw [tableSum_cons, ← ih, List.length_cons, Nat.add_comm]

theorem countP_eq_tableSum (p : Nat → α → Bool) (t : Table α) :
    t.countP (fun e => p e.1 e.2) = tableSum (fun k v => bit (p k v)) t := by
  induction t with
  | nil => rfl
  | cons e t ih =>
    rw [tableSum_cons, ← ih, List.countP_cons, Nat.add_comm]
    rfl

end

/-- The records that meet `p` are those of each level that do. -/
theorem countP_eq_sum_levels {α : Type} (l : List α) (p : α → Bool) (f : α → Level) :
    l.countP p = ∑ i : Level, l.countP fun a => p a && decide (f a = i) := by
  induction l with
  | nil => simp
  | cons a l ih =>
    simp only [List.countP_cons, Finset.sum_add_distrib, ← ih]
    congr 1
    cases p a with
    | false => simp
    | true => simp

/-! ## One carriage -/

/-- The record of a carriage is consistent in itself: it counts the members of its histogram, of which there is one, and its min
level is the lowest of theirs (R107, R112). -/
structure Carriage.sound (k : Carriage) : Prop where
  count : k.count = ∑ l : Level, k.hist.getD l.val 0
  member : 1 ≤ k.count
  length : k.hist.length = 8
  minLevel : k.minLevel = lowestLevel k.hist

/-- The balance and the starved flag of a carriage are in range at a demand (R131, R134). -/
def Carriage.balanceOk (d : Nat) (k : Carriage) : Prop :=
  if k.mode = .multicast then -4 * (d : Int) ≤ k.balance ∧ k.balance < (payload k.minLevel : Int)
  else k.balance = 0 ∧ k.starved = false

theorem payload_pos (l : Level) : 0 < payload l := by
  revert l
  decide

theorem Carriage.balanceOk.of_zero {d : Nat} {k : Carriage} (hb : k.balance = 0) (hs : k.starved = false) :
    k.balanceOk d := by
  have := payload_pos k.minLevel
  unfold Carriage.balanceOk
  split
  · omega
  · exact ⟨hb, hs⟩

section
variable {k : Carriage} {d : Nat} {hist : List Nat}

theorem Carriage.balanceOk.relevel (h : k.balanceOk d) (hlen : hist.length = 8) : (relevel k hist).balanceOk d := by
  obtain ⟨_, hmode, hstarved, _, hbalance⟩ := relevel_spec k hlen
  have := payload_pos (Machine.relevel k hist).minLevel
  unfold Carriage.balanceOk at h ⊢
  rw [hmode, hstarved, hbalance]
  by_cases hm : k.mode = .multicast
  · simp only [hm, if_true, true_and] at h ⊢
    split
    · omega
    · next hp => rwa [not_not.1 hp]
  · simpa only [hm, if_false, false_and] using h

theorem Carriage.balanceOk.evaluated (h : k.balanceOk d) (threshold cap others d' : Nat) :
    (evaluatedCarriage threshold cap others d' k).balanceOk d := by
  rcases evaluatedCarriage_balance threshold cap others d' k with same | ⟨h0, hleft, hstarved⟩
  · rwa [same]
  · refine .of_zero h0 ?_
    rcases hstarved with hs | ⟨hm, hs⟩
    · exact hs
    · unfold Carriage.balanceOk at h
      rw [if_neg hm] at h
      rw [hs, h.2]

theorem Carriage.sound.evaluated (h : k.sound) (threshold cap others d' : Nat) :
    (evaluatedCarriage threshold cap others d' k).sound := by
  obtain ⟨hcount, hhist, hmin, _⟩ := evaluatedCarriage_members threshold cap others d' k
  exact ⟨by rw [hcount, hhist, h.count], by rw [hcount]; exact h.member, by rw [hhist, h.length],
    by rw [hmin, hhist, h.minLevel]⟩

theorem sum_levels_add (f : Level → Nat) (l : Level) :
    (∑ i : Level, (f i + if i = l then 1 else 0)) = (∑ i : Level, f i) + 1 := by
  rw [Finset.sum_add_distrib, Finset.sum_ite_eq' Finset.univ l, if_pos (Finset.mem_univ l)]

/-- One level's count taken down. -/
theorem sum_levels_sub {f : Level → Nat} {l : Level} (hl : 1 ≤ f l) :
    (∑ i : Level, (f i - if i = l then 1 else 0)) + 1 = ∑ i : Level, f i := by
  rw [← sum_levels_add _ l]
  refine Finset.sum_congr rfl fun i _ => ?_
  by_cases hi : i = l
  · subst hi
    simp only [if_true]
    omega
  · simp [hi]

theorem Carriage.sound.up (h : k.sound) (l : Level) :
    (Machine.relevel { k with count := k.count + 1 } (histUp k.hist l)).sound where
  count := by
    simp only [Machine.relevel, getD_histUp h.length, sum_levels_add, h.count]
  member := Nat.le_add_left 1 k.count
  length := (length_histUp ..).trans h.length
  minLevel := rfl

theorem Carriage.sound.down (h : k.sound) {l : Level} (hl : 1 ≤ k.hist.getD l.val 0) (hmany : 2 ≤ k.count) :
    (Machine.relevel { k with count := k.count - 1 } (histDown k.hist l)).sound where
  count := by
    have := sum_levels_sub (f := fun i => k.hist.getD i.val 0) hl
    simp only [Machine.relevel, getD_histDown h.length]
    have := h.count
    omega
  member := Nat.le_sub_of_add_le hmany
  length := (length_histDown ..).trans h.length
  minLevel := rfl

theorem Carriage.sound.move (h : k.sound) {old : Level} (hl : 1 ≤ k.hist.getD old.val 0) (new : Level) :
    (Machine.relevel k (histUp (histDown k.hist old) new)).sound where
  count := by
    have := sum_levels_sub (f := fun i => k.hist.getD i.val 0) hl
    simp only [Machine.relevel, getD_histUp ((length_histDown ..).trans h.length), getD_histDown h.length, sum_levels_add]
    have := h.count
    omega
  member := h.member
  length := (length_histUp ..).trans ((length_histDown ..).trans h.length)
  minLevel := rfl

/-- The only member of a carriage is at the level at which it counts one. -/
theorem Carriage.sound.only (h : k.sound) {l : Level} (hl : 1 ≤ k.hist.getD l.val 0) (hone : k.count ≤ 1) (i : Level) :
    k.hist.getD i.val 0 = if i = l then 1 else 0 := by
  have hsum := sum_levels_sub (f := fun i => k.hist.getD i.val 0) hl
  have hcount := h.count
  have hzero : (∑ i : Level, (k.hist.getD i.val 0 - if i = l then 1 else 0)) = 0 := by omega
  have := (Finset.sum_eq_zero_iff.1 hzero) i (Finset.mem_univ i)
  by_cases hi : i = l
  · subst hi
    simp only [if_true] at this ⊢
    omega
  · simpa [hi] using this

/-- A carriage has its first member (R110). -/
theorem sound_created (l : Level) :
    (⟨1, (List.range 8).map fun i => if i = l.val then 1 else 0, l, .unicast, 0, false, 0⟩ : Carriage).sound := by
  rw [← relevel_created]
  refine ⟨?_, le_rfl, length_histUp .., rfl⟩
  simp only [Machine.relevel, getD_histUp (hist := List.replicate 8 0) rfl, sum_levels_add, Nat.add_right_cancel_iff]
  refine (Finset.sum_eq_zero fun i _ => ?_).symm
  revert i
  decide

theorem hist_created (l i : Level) :
    ((List.range 8).map fun i => if i = l.val then 1 else 0).getD i.val 0 = if i = l then 1 else 0 := by
  revert l i
  decide

end

end Sys2Proof.Machine
end

section
namespace Sys2Proof.Machine

open Sys2Proof

/-! ## The Carriage Table in itself -/

/-- The Carriage Table and the cells' lists agree, each carriage is sound and of a stream that is not IDLE, and the totals of
the streams sum it up (R77, R107 to R109, R112). -/
structure State.booked (s : State) : Prop where
  lists : s.carriageListsOk
  sound : ∀ c x k, s.carriage? c x = some k → k.sound ∧ (s.stream x).state ≠ .idle
  wf : tableWfDefault {} s.streams = true
  subscribers : ∀ x, (s.stream x).subscribers = s.sumCounts x
  carriages : ∀ x, (s.stream x).carriages = s.carriages.countP fun e => decide (e.1 % 16 = x.val)

/-- The number of members of the carriage of a cell and a stream at a level; 0 when it is absent. -/
def State.members (s : State) (c : CellId) (x : StreamId) (l : Level) : Nat :=
  (s.carriage? c x).elim 0 fun k => k.hist.getD l.val 0

/-- What the carriage stored under a key adds to the count of a stream's subscribers. -/
def countWeight (x : StreamId) (key : Nat) (k : Carriage) : Nat := if key % 16 = x.val then k.count else 0

theorem sumCounts_eq (s : State) (x : StreamId) : s.sumCounts x = tableSum (countWeight x) s.carriages := by
  have from_ : ∀ (t : Table Carriage) (n : Nat),
      t.foldl (fun n e => if e.1 % 16 = x.val then n + e.2.count else n) n = n + tableSum (countWeight x) t := by
    intro t
    induction t with
    | nil => exact fun n => rfl
    | cons e t ih =>
      intro n
      rw [List.foldl_cons, ih, tableSum_cons, countWeight]
      split
      · rw [Nat.add_assoc]
      · rw [Nat.zero_add]
  rw [State.sumCounts, from_, Nat.zero_add]

theorem carriageCount_eq (s : State) (x : StreamId) : s.carriages.countP (fun e => decide (e.1 % 16 = x.val)) =
    tableSum (fun key _ => bit (decide (key % 16 = x.val))) s.carriages :=
  countP_eq_tableSum (fun key _ => decide (key % 16 = x.val)) s.carriages

theorem carriageKey_mod (c : CellId) (x y : StreamId) : carriageKey c x % 16 = y.val ↔ y = x := by
  rw [carriageKey, Fin.ext_iff]
  omega

theorem carriageKey_lt (c : CellId) (x : StreamId) : carriageKey c x < 16384 := by
  rw [carriageKey]
  omega

/-- What the charges of a cell's list and the comparisons of two streams' places read of the streams. -/
theorem grantsBefore_congr {s t : State} (h : ∀ x, (t.stream x).state = (s.stream x).state) (x y : StreamId) :
    t.grantsBefore x y = s.grantsBefore x y := by
  have priority : ∀ z, t.priorityOf z = s.priorityOf z := fun z => by simp only [State.priorityOf, h]
  simp only [State.grantsBefore, priority]

theorem demand_congr {s t : State} {x : StreamId} (h : (t.stream x).state = (s.stream x).state) : t.demand x = s.demand x := by
  simp only [State.demand, h]

section
variable {s t : State} {c : CellId} {x : StreamId}

theorem carriage?_store {k : Carriage} (hca : t.carriages = tableStore s.carriages (carriageKey c x) k) (d : CellId)
    (y : StreamId) : t.carriage? d y = if d = c ∧ y = x then some k else s.carriage? d y := by
  have h : t.carriage? d y = (s.setCarriage c x k).carriage? d y := by rw [State.carriage?, hca]; rfl
  rw [h]
  split
  · next he => rw [he.1, he.2, carriage?_setCarriage_self]
  · next he => exact carriage?_setCarriage_of_ne s k he

/-- A carriage stored, with the totals of its stream and its place on its cell's list. -/
theorem State.booked.store (H : s.booked) {k : Carriage} (hk : k.sound) (hlive : (s.stream x).state ≠ .idle)
    (hroom : s.carriage? c x ≠ none ∨ s.carriages.length < 4096)
    (hca : t.carriages = tableStore s.carriages (carriageKey c x) k)
    (hlist : ∀ d, (∀ y, y ∈ (t.rosterEntry d).carriages ↔ (d = c ∧ y = x) ∨ y ∈ (s.rosterEntry d).carriages) ∧
      (t.rosterEntry d).carriages.Pairwise fun y z => s.grantsBefore y z = true)
    (hwf : tableWfDefault {} t.streams = true) (hstate : ∀ y, (t.stream y).state = (s.stream y).state)
    (hsub : ∀ y, (t.stream y).subscribers + (if y = x then (s.carriage? c x).elim 0 (·.count) else 0) =
      (s.stream y).subscribers + if y = x then k.count else 0)
    (hcar : ∀ y, (t.stream y).carriages + (if y = x then (s.carriage? c x).elim 0 (fun _ => 1) else 0) =
      (s.stream y).carriages + if y = x then 1 else 0) : t.booked := by
  obtain ⟨⟨htable, hkeys, hlen, hlists⟩, hsound, _, hsubs, hcars⟩ := H
  have hfind : ∀ d y, t.carriage? d y = if d = c ∧ y = x then some k else s.carriage? d y := carriage?_store hca
  have summed : ∀ w : Nat → Carriage → Nat, tableSum w t.carriages + (s.carriage? c x).elim 0 (w (carriageKey c x)) =
      tableSum w s.carriages + w (carriageKey c x) k := fun w => by
    rw [hca]
    exact tableSum_store w htable _ k
  refine ⟨⟨?_, fun e he => ?_, ?_, fun d => ⟨fun y => ?_, ?_⟩⟩, fun d y k' hk' => ?_, hwf, fun y => ?_, fun y => ?_⟩
  · rw [hca]
    exact tableWf_store htable _ _
  · rw [hca] at he
    rcases mem_store he with rfl | he
    · exact carriageKey_lt c x
    · exact hkeys e he
  · have := summed fun _ _ => 1
    rw [← length_eq_tableSum, ← length_eq_tableSum] at this
    cases hold : s.carriage? c x with
    | none =>
      rcases hroom with hroom | hroom
      · exact absurd hold hroom
      · rw [hold] at this
        simp only [Option.elim_none] at this
        omega
    | some old =>
      rw [hold] at this
      simp only [Option.elim_some] at this
      omega
  · rw [(hlist d).1 y, hfind d y]
    by_cases he : d = c ∧ y = x
    · simp [he]
    · rw [if_neg he, (hlists d).1 y]
      simp [he]
  · simpa only [grantsBefore_congr hstate] using (hlist d).2
  · rw [hstate]
    rw [hfind] at hk'
    split at hk'
    · next he =>
      cases hk'
      rw [he.2]
      exact ⟨hk, hlive⟩
    · exact hsound d y k' hk'
  · have change := summed (countWeight y)
    have stored := hsub y
    rw [hsubs, sumCounts_eq] at stored
    rw [sumCounts_eq]
    have at_ : ∀ v : Carriage, countWeight y (carriageKey c x) v = if y = x then v.count else 0 := fun v => by
      simp only [countWeight, carriageKey_mod]
    cases hold : s.carriage? c x with
    | none =>
      simp only [hold, Option.elim_none, at_, ite_self] at change stored
      omega
    | some old =>
      simp only [hold, Option.elim_some, at_] at change stored
      omega
  · have change := summed fun key _ => bit (decide (key % 16 = y.val))
    have stored := hcar y
    rw [hcars, carriageCount_eq] at stored
    rw [carriageCount_eq]
    simp only [carriageKey_mod] at change
    have at_ : bit (decide (y = x)) = if y = x then 1 else 0 := by by_cases hy : y = x <;> simp [hy, bit]
    cases hold : s.carriage? c x with
    | none =>
      simp only [hold, Option.elim_none, at_, ite_self] at change stored
      omega
    | some old =>
      simp only [hold, Option.elim_some, at_] at change stored
      omega

end

end Sys2Proof.Machine
end

section
namespace Sys2Proof.Machine

open Sys2Proof

/-! ## Joins, leaves, level moves and mode evaluations, on the Carriage Table in itself -/

/-- `t` is `s` with the members of the carriage of a cell and a stream changed to `m`, and no station changed. -/
structure Rebooked (s t : State) (c : CellId) (x : StreamId) (m : Level → Nat) : Prop where
  booked : t.booked
  balances : t.balancesOk
  members : ∀ d y l, t.members d y l = if d = c ∧ y = x then m l else s.members d y l
  stations : t.stations = s.stations
  states : ∀ y, (t.stream y).state = (s.stream y).state

theorem stream_setTotals (s : State) (x y : StreamId) (a b : Nat) : (s.setTotals x a b).stream y =
    if y = x then { s.stream x with subscribers := a, carriages := b } else s.stream y := by
  split
  · next h => rw [h]; exact stream_setStream_self s x _
  · next h => exact stream_setStream_of_ne s _ h

section
variable {s t : State} {c : CellId} {x : StreamId} {k : Carriage}

theorem members_of_some (hk : s.carriage? c x = some k) (l : Level) : s.members c x l = k.hist.getD l.val 0 := by
  rw [State.members, hk]
  rfl

theorem members_of_none (hk : s.carriage? c x = none) (l : Level) : s.members c x l = 0 := by
  rw [State.members, hk]
  rfl

/-- A carriage's members are among the subscribers of its stream, and it is among its carriages. -/
theorem State.booked.count_le (H : s.booked) (hk : s.carriage? c x = some k) :
    k.count ≤ (s.stream x).subscribers ∧ 1 ≤ (s.stream x).carriages := by
  obtain ⟨htable, _⟩ := H.lists
  have hf : tableFind s.carriages (carriageKey c x) = some k := hk
  have counted := tableSum_erase (countWeight x) htable (carriageKey c x)
  have listed := tableSum_erase (fun key (_ : Carriage) => bit (decide (key % 16 = x.val))) htable (carriageKey c x)
  have hmod : carriageKey c x % 16 = x.val := (carriageKey_mod c x x).2 rfl
  simp only [hf, Option.elim_some, countWeight, hmod, if_true, decide_true] at counted listed
  rw [H.subscribers, H.carriages, sumCounts_eq, carriageCount_eq]
  exact ⟨counted ▸ Nat.le_add_left _ _, listed ▸ Nat.le_add_left _ _⟩

/-- The balances stand where a carriage in range is stored and the demands stay. -/
theorem balancesOk_store (B : s.balancesOk) (hb : k.balanceOk (s.demand x))
    (hca : t.carriages = tableStore s.carriages (carriageKey c x) k)
    (hstate : ∀ y, (t.stream y).state = (s.stream y).state) : t.balancesOk := by
  intro d y k' hk'
  rw [carriage?_store hca] at hk'
  rw [demand_congr (hstate y)]
  split at hk'
  · next he =>
    cases hk'
    rw [he.2]
    exact hb
  · exact B d y k' hk'

/-- A carriage that stands replaced by another, with the change of its count in its stream's total. -/
theorem Rebooked.replace (H : s.booked) (B : s.balancesOk) (hold : s.carriage? c x = some k) {k' : Carriage} (hk : k'.sound)
    (hb : k'.balanceOk (s.demand x)) (hca : t.carriages = tableStore s.carriages (carriageKey c x) k')
    (hroster : t.roster = s.roster) (hst : t.stations = s.stations) {n : Nat}
    (hstreams : ∀ y, t.stream y = if y = x then { s.stream x with subscribers := n } else s.stream y)
    (hwf : tableWfDefault {} t.streams = true) (hn : n + k.count = (s.stream x).subscribers + k'.count) :
    Rebooked s t c x fun l => k'.hist.getD l.val 0 := by
  have hstate : ∀ y, (t.stream y).state = (s.stream y).state := fun y => by
    rw [hstreams]
    split
    · next h => rw [h]
    · rfl
  have hlists : ∀ d, t.rosterEntry d = s.rosterEntry d := fun d => by rw [State.rosterEntry, hroster, State.rosterEntry]
  obtain ⟨_, _, _, lists⟩ := H.lists
  refine ⟨H.store hk (H.sound c x k hold).2 (.inl (by simp [hold])) hca (fun d => ⟨fun y => ?_, ?_⟩) hwf hstate (fun y => ?_)
    fun y => ?_, balancesOk_store B hb hca hstate, fun d y l => ?_, hst, hstate⟩
  · rw [hlists, (lists d).1 y]
    refine ⟨.inr, fun h => h.elim (fun he => ?_) id⟩
    rw [he.1, he.2, hold]
    rfl
  · rw [hlists]
    exact (lists d).2
  · rw [hold, hstreams]
    by_cases hy : y = x
    · simpa only [hy, if_true, Option.elim_some] using hn
    · simp only [hy, if_false]
  · rw [hold, hstreams]
    by_cases hy : y = x
    · simp only [hy, if_true, Option.elim_some]
    · simp only [hy, if_false]
  · rw [State.members, carriage?_store hca]
    split
    · rfl
    · rfl

theorem grantsBefore_trans {s : State} {x y z : StreamId} (hxy : s.grantsBefore x y = true) (hyz : s.grantsBefore y z = true) :
    s.grantsBefore x z = true := by
  simp only [State.grantsBefore, Bool.or_eq_true, Bool.and_eq_true, decide_eq_true_eq, Fin.lt_def] at *
  omega

theorem grantsBefore_total {s : State} {x y : StreamId} (hne : x ≠ y) (hxy : s.grantsBefore x y = false) :
    s.grantsBefore y x = true := by
  have hv : x.val ≠ y.val := fun h => hne (Fin.ext h)
  simp only [State.grantsBefore, Bool.or_eq_false_iff, Bool.and_eq_false_iff, decide_eq_false_iff_not, Bool.or_eq_true,
    Bool.and_eq_true, decide_eq_true_eq, Fin.lt_def] at hxy ⊢
  omega

/-- A stream placed in a list in grant order leaves it in grant order (R109). -/
theorem placeInOrder_pairwise {s : State} {x : StreamId} {l : List StreamId}
    (hl : l.Pairwise fun y z => s.grantsBefore y z = true) (hx : x ∉ l) :
    (s.placeInOrder x l).Pairwise fun y z => s.grantsBefore y z = true := by
  induction l with
  | nil => exact List.pairwise_singleton _ _
  | cons y l ih =>
    rw [List.pairwise_cons] at hl
    rw [List.mem_cons, not_or] at hx
    obtain ⟨hy, hl⟩ := hl
    obtain ⟨hne, hx⟩ := hx
    rw [State.placeInOrder]
    split
    · next hxy =>
      refine List.pairwise_cons.2 ⟨fun z hz => ?_, List.pairwise_cons.2 ⟨hy, hl⟩⟩
      rcases List.mem_cons.1 hz with rfl | hz
      · exact hxy
      · exact grantsBefore_trans hxy (hy z hz)
    · next hxy =>
      refine List.pairwise_cons.2 ⟨fun z hz => ?_, ih hl hx⟩
      rcases (mem_placeInOrder s x z l).1 hz with rfl | hz
      · exact grantsBefore_total hne (by simpa using hxy)
      · exact hy z hz

/-- A carriage that is absent created. -/
theorem Rebooked.create (H : s.booked) (B : s.balancesOk) (hold : s.carriage? c x = none)
    (hroom : s.carriages.length < 4096) (hlive : (s.stream x).state ≠ .idle) (hk : k.sound) (hone : k.count = 1)
    (hb : k.balanceOk (s.demand x)) (hca : t.carriages = tableStore s.carriages (carriageKey c x) k)
    (hroster : ∀ d, (t.rosterEntry d).carriages = if d = c then s.placeInOrder x (s.rosterEntry c).carriages
      else (s.rosterEntry d).carriages) (hst : t.stations = s.stations)
    (hstreams : ∀ y, t.stream y = if y = x then { s.stream x with
      subscribers := (s.stream x).subscribers + 1, carriages := (s.stream x).carriages + 1 } else s.stream y)
    (hwf : tableWfDefault {} t.streams = true) : Rebooked s t c x fun l => k.hist.getD l.val 0 := by
  have hstate : ∀ y, (t.stream y).state = (s.stream y).state := fun y => by
    rw [hstreams]
    split
    · next h => rw [h]
    · rfl
  obtain ⟨_, _, _, lists⟩ := H.lists
  refine ⟨H.store hk hlive (.inr hroom) hca (fun d => ⟨fun y => ?_, ?_⟩) hwf hstate (fun y => ?_)
    fun y => ?_, balancesOk_store B hb hca hstate, fun d y l => ?_, hst, hstate⟩
  · rw [hroster]
    split
    · next hd => rw [mem_placeInOrder, hd]; simp
    · next hd => simp [hd]
  · rw [hroster]
    split
    · exact placeInOrder_pairwise (lists c).2 (fun hx => by simpa [hold] using ((lists c).1 x).1 hx)
    · exact (lists d).2
  · rw [hold, hstreams]
    by_cases hy : y = x
    · simp only [hy, if_true, Option.elim_none, hone, Nat.add_zero]
    · simp only [hy, if_false]
  · rw [hold, hstreams]
    by_cases hy : y = x
    · simp only [hy, if_true, Option.elim_none, Nat.add_zero]
    · simp only [hy, if_false]
  · rw [State.members, carriage?_store hca]
    split
    · rfl
    · rfl

/-- The last member of a carriage takes it out of the table and off its cell's list. -/
theorem Rebooked.drop (H : s.booked) (B : s.balancesOk) (hold : s.carriage? c x = some k) (hone : k.count = 1)
    (hca : t.carriages = tableErase s.carriages (carriageKey c x))
    (hroster : ∀ d, (t.rosterEntry d).carriages = if d = c
      then (s.rosterEntry c).carriages.filter fun y => decide (y ≠ x) else (s.rosterEntry d).carriages)
    (hst : t.stations = s.stations)
    (hstreams : ∀ y, t.stream y = if y = x then { s.stream x with
      subscribers := (s.stream x).subscribers - 1, carriages := (s.stream x).carriages - 1 } else s.stream y)
    (hwf : tableWfDefault {} t.streams = true) : Rebooked s t c x fun _ => 0 := by
  have hstate : ∀ y, (t.stream y).state = (s.stream y).state := fun y => by
    rw [hstreams]
    split
    · next h => rw [h]
    · rfl
  obtain ⟨hcount, hcarriage⟩ := H.count_le hold
  obtain ⟨⟨htable, hkeys, hlen, lists⟩, hsound, _, hsubs, hcars⟩ := H
  have hf : tableFind s.carriages (carriageKey c x) = some k := hold
  have hfind : ∀ d y, t.carriage? d y = if d = c ∧ y = x then none else s.carriage? d y := fun d y => by
    have h : t.carriage? d y = (s.eraseCarriage c x).carriage? d y := by rw [State.carriage?, hca]; rfl
    rw [h]
    split
    · next he => rw [he.1, he.2, carriage?_eraseCarriage_self]
    · next he => exact carriage?_eraseCarriage_of_ne s he
  have summed : ∀ w : Nat → Carriage → Nat, tableSum w t.carriages + w (carriageKey c x) k = tableSum w s.carriages := fun w => by
    have := tableSum_erase w htable (carriageKey c x)
    rw [hf, Option.elim_some] at this
    rw [hca, this]
  refine ⟨⟨⟨?_, fun e he => ?_, ?_, fun d => ⟨fun y => ?_, ?_⟩⟩, fun d y k' hk' => ?_, hwf, fun y => ?_, fun y => ?_⟩,
    fun d y k' hk' => ?_, fun d y l => ?_, hst, hstate⟩
  · rw [hca]
    exact tableWf_erase htable _
  · rw [hca] at he
    exact hkeys e (mem_erase he).1
  · have := summed fun _ _ => 1
    rw [← length_eq_tableSum, ← length_eq_tableSum] at this
    omega
  · rw [hroster, hfind]
    by_cases hd : d = c
    · subst hd
      by_cases hy : y = x
      · simp [hy]
      · simp only [if_true, List.mem_filter, hy, ne_eq, not_false_eq_true, decide_true, and_true, and_false, if_false]
        exact (lists d).1 y
    · simp only [hd, if_false, false_and]
      exact (lists d).1 y
  · simp only [grantsBefore_congr hstate]
    rw [hroster]
    split
    · exact (lists c).2.filter _
    · exact (lists d).2
  · rw [hstate]
    rw [hfind] at hk'
    split at hk'
    · cases hk'
    · exact hsound d y k' hk'
  · have change := summed (countWeight y)
    simp only [countWeight, carriageKey_mod] at change
    rw [sumCounts_eq, hstreams]
    have before := hsubs y
    rw [sumCounts_eq] at before
    by_cases hy : y = x
    · subst hy
      simp only [if_true] at change ⊢
      change _ - 1 = _
      omega
    · simp only [hy, if_false] at change ⊢
      omega
  · have change := summed fun key _ => bit (decide (key % 16 = y.val))
    have at_ : bit (decide (y = x)) = if y = x then 1 else 0 := by by_cases hy : y = x <;> simp [hy, bit]
    simp only [carriageKey_mod, at_] at change
    rw [carriageCount_eq, hstreams]
    have before := hcars y
    rw [carriageCount_eq] at before
    by_cases hy : y = x
    · subst hy
      simp only [if_true] at change ⊢
      change _ - 1 = _
      omega
    · simp only [hy, if_false] at change ⊢
      omega
  · rw [hfind] at hk'
    rw [demand_congr (hstate y)]
    split at hk'
    · cases hk'
    · exact B d y k' hk'
  · rw [State.members, hfind]
    split
    · rfl
    · rfl

/-- A mode evaluation stores what it makes of the carriage (R114). -/
theorem evalMode_store (hw : tableWf s.carriages = true) (hk : s.carriage? c x = some k) (tag : Tag) :
    ∃ po, s.evalMode c x tag = { s with
      carriages := tableStore s.carriages (carriageKey c x)
        (evaluatedCarriage s.venue.threshold (s.admissionCap c) (s.multicastSum c) (s.demand x) k), ports := po } := by
  simp only [State.evalMode, hk, evaluatedCarriage]
  split
  · split
    · exact ⟨_, rfl⟩
    · split
      · exact ⟨_, rfl⟩
      · exact ⟨_, rfl⟩
  · split
    · exact ⟨_, rfl⟩
    · exact ⟨s.ports, by rw [tableStore_of_find hw hk]⟩

/-- A mode evaluation changes no member. -/
theorem Rebooked.evalMode {m : Level → Nat} (R : Rebooked s t c x m) (tag : Tag) :
    Rebooked s (t.evalMode c x tag) c x m := by
  cases hk : t.carriage? c x with
  | none => simpa only [State.evalMode, hk] using R
  | some k =>
    obtain ⟨po, he⟩ := evalMode_store R.booked.lists.1 hk tag
    have hsound := (R.booked.sound c x k hk).1
    have evaluated : Rebooked t (t.evalMode c x tag) c x fun l => k.hist.getD l.val 0 := by
      rw [he]
      have replaced := Rebooked.replace (t := { t with
          carriages := tableStore t.carriages (carriageKey c x)
            (evaluatedCarriage t.venue.threshold (t.admissionCap c) (t.multicastSum c) (t.demand x) k), ports := po })
        R.booked R.balances hk (hsound.evaluated _ _ _ _)
        (Carriage.balanceOk.evaluated (R.balances c x k hk) _ _ _ _) rfl rfl rfl (n := (t.stream x).subscribers)
        (fun y => by split <;> simp_all [State.stream]) R.booked.wf (by rw [(evaluatedCarriage_members _ _ _ _ k).1])
      rwa [(evaluatedCarriage_members _ _ _ _ k).2.1] at replaced
    refine ⟨evaluated.booked, evaluated.balances, fun d y l => ?_, evaluated.stations.trans R.stations,
      fun y => (evaluated.states y).trans (R.states y)⟩
    rw [evaluated.members, ← members_of_some hk, R.members, R.members]
    by_cases h : d = c ∧ y = x
    · rw [if_pos h, if_pos ⟨rfl, rfl⟩, if_pos h]
    · rw [if_neg h]

/-! ### The three moves -/

variable (H : s.booked) (B : s.balancesOk) (l : Level) (tag : Tag)
include H B

/-- A join adds one member at its level (R110). -/
theorem join_rebooked (hlive : (s.stream x).state ≠ .idle)
    (hroom : s.carriage? c x ≠ none ∨ s.carriages.length < 4096) :
    Rebooked s (s.join c x l tag) c x fun i => s.members c x i + if i = l then 1 else 0 := by
  have wf := tableWfDefault_write H.wf x.val
  cases hk : s.carriage? c x with
  | none =>
    rw [join_absent hk]
    have created := Rebooked.create (k := ⟨1, (List.range 8).map fun i => if i = l.val then 1 else 0, l, .unicast, 0, false, 0⟩)
      (t := ((s.setCarriage c x
          ⟨1, (List.range 8).map fun i => if i = l.val then 1 else 0, l, .unicast, 0, false, 0⟩).setRoster c
        { s.rosterEntry c with carriages := s.placeInOrder x (s.rosterEntry c).carriages }).setTotals x
          ((s.stream x).subscribers + 1) ((s.stream x).carriages + 1))
      H B hk (hroom.resolve_left (absurd hk)) hlive (sound_created l) rfl (.of_zero rfl rfl) rfl (fun d => ?_) rfl
      (fun y => stream_setTotals s x y _ _) (wf _)
    · simp only [hist_created] at created
      simpa only [members_of_none hk, Nat.zero_add] using created.evalMode tag
    · have listed : ∀ e, ((s.setRoster c e).rosterEntry d).carriages =
          if d = c then e.carriages else (s.rosterEntry d).carriages := fun e => by
        by_cases hd : d = c
        · simp [hd]
        · simp [hd]
      exact listed _
  | some k =>
    obtain ⟨hsound, _⟩ := H.sound c x k hk
    rw [join_eq hk]
    have joined := Rebooked.replace (t := (s.setCarriage c x (relevel { k with count := k.count + 1 }
        (histUp k.hist l))).setTotals x ((s.stream x).subscribers + 1) (s.stream x).carriages)
      H B hk (hsound.up l) (Carriage.balanceOk.relevel (B c x k hk) ((length_histUp ..).trans hsound.length)) rfl rfl rfl
      (n := (s.stream x).subscribers + 1) (fun y => stream_setTotals s x y _ _) (wf _) (by simp only [relevel]; omega)
    simp only [relevel, getD_histUp hsound.length, ← members_of_some hk] at joined
    exact joined.evalMode tag

/-- A leave takes one member at its level away (R111). -/
theorem leave_rebooked (hl : 1 ≤ s.members c x l) :
    Rebooked s (s.leave c x l tag) c x fun i => s.members c x i - if i = l then 1 else 0 := by
  have wf := tableWfDefault_write H.wf x.val
  cases hk : s.carriage? c x with
  | none => rw [members_of_none hk] at hl; omega
  | some k =>
    obtain ⟨hsound, _⟩ := H.sound c x k hk
    have hin : 1 ≤ k.hist.getD l.val 0 := by rwa [← members_of_some hk]
    by_cases hmany : 2 ≤ k.count
    · rw [leave_eq_of_many hk hmany]
      obtain ⟨hle, _⟩ := H.count_le hk
      have left := Rebooked.replace (t := (s.setTotals x ((s.stream x).subscribers - 1) (s.stream x).carriages).setCarriage
          c x (relevel { k with count := k.count - 1 } (histDown k.hist l)))
        H B hk (hsound.down hin hmany) (Carriage.balanceOk.relevel (B c x k hk) ((length_histDown ..).trans hsound.length))
        rfl rfl rfl (n := (s.stream x).subscribers - 1) (fun y => stream_setTotals s x y _ _) (wf _)
        (by simp only [relevel]; omega)
      simp only [relevel, getD_histDown hsound.length, ← members_of_some hk] at left
      exact left.evalMode tag
    · have hone : k.count = 1 := by have := hsound.member; omega
      have gone : ∀ i, (s.members c x i - if i = l then 1 else 0) = 0 := fun i => by
        rw [members_of_some hk, hsound.only hin (by omega)]
        exact Nat.sub_self _
      have dropped := Rebooked.drop (t := (s.dropCarriage c x).setTotals x ((s.stream x).subscribers - 1)
          ((s.stream x).carriages - 1)) H B hk hone rfl (fun d => ?_) rfl (fun y => stream_setTotals s x y _ _) (wf _)
      · simp only [leave_eq_of_last hk (by omega : k.count ≤ 1), gone]
        split
        · exact dropped
        · exact ⟨⟨dropped.booked.lists, dropped.booked.sound, dropped.booked.wf, dropped.booked.subscribers,
            dropped.booked.carriages⟩, dropped.balances, dropped.members, dropped.stations, dropped.states⟩
      · have listed : ∀ e, ((s.setRoster c e).rosterEntry d).carriages =
            if d = c then e.carriages else (s.rosterEntry d).carriages := fun e => by
          by_cases hd : d = c
          · simp [hd]
          · simp [hd]
        exact listed _

/-- A level move takes one member at the old level to the new one (R112). -/
theorem moveLevel_rebooked {old : Level} (hl : 1 ≤ s.members c x old) :
    Rebooked s (s.moveLevel c x old l tag) c x fun i =>
      (s.members c x i - if i = old then 1 else 0) + if i = l then 1 else 0 := by
  cases hk : s.carriage? c x with
  | none => rw [members_of_none hk] at hl; omega
  | some k =>
    obtain ⟨hsound, _⟩ := H.sound c x k hk
    have hin : 1 ≤ k.hist.getD old.val 0 := by rwa [← members_of_some hk]
    have hlen : (histDown k.hist old).length = 8 := (length_histDown ..).trans hsound.length
    rw [moveLevel_eq hk]
    have moved := Rebooked.replace (t := s.setCarriage c x (relevel k (histUp (histDown k.hist old) l)))
      H B hk (hsound.move hin l) (Carriage.balanceOk.relevel (B c x k hk) ((length_histUp ..).trans hlen)) rfl rfl rfl
      (n := (s.stream x).subscribers) (fun y => by split <;> simp_all [State.stream]) H.wf rfl
    simp only [relevel, getD_histUp hlen, getD_histDown hsound.length, ← members_of_some hk] at moved
    exact moved.evalMode tag

end

end Sys2Proof.Machine
end

section
namespace Sys2Proof.Machine

open Sys2Proof

/-! ## What the Plan Engine keeps of the carriages (R127 to R134, R145, R146) -/

/-- What the stations determine of a carriage. -/
def Carriage.membership (k : Carriage) : Nat × List Nat × Level := (k.count, k.hist, k.minLevel)

/-- `t` is `s` but for grants, charges and what does not concern stations, streams and lists: every carriage keeps its members,
and balances in range stay in range. -/
structure Charged (s t : State) : Prop where
  stations : t.stations = s.stations
  streams : t.streams = s.streams
  roster : t.roster = s.roster
  members : tableMap Carriage.membership t.carriages = tableMap Carriage.membership s.carriages
  balances : s.balancesOk → t.balancesOk

/-- What the charges of a cell rest on: a table in form, and lists that name no stream twice. -/
def State.chargeable (s : State) : Prop :=
  tableWf s.carriages = true ∧ ∀ c, (s.rosterEntry c).carriages.Nodup

section
variable {s t u : State}

theorem Charged.refl (s : State) : Charged s s := ⟨rfl, rfl, rfl, rfl, id⟩

theorem Charged.trans (f : Charged s t) (f' : Charged t u) : Charged s u :=
  ⟨f'.stations.trans f.stations, f'.streams.trans f.streams, f'.roster.trans f.roster, f'.members.trans f.members,
    fun h => f'.balances (f.balances h)⟩

/-- A change beside the stations, the streams, the carriages and the lists. -/
theorem Charged.beside (hst : t.stations = s.stations) (hs : t.streams = s.streams) (hr : t.roster = s.roster)
    (hc : t.carriages = s.carriages) : Charged s t := by
  refine ⟨hst, hs, hr, by rw [hc], fun h c x k hk => ?_⟩
  have := h c x k (by rwa [State.carriage?, ← hc])
  rwa [← demand_congr (s := s) (t := t) (by rw [State.stream, hs, State.stream])] at this

theorem Charged.demand (f : Charged s t) (x : StreamId) : t.demand x = s.demand x :=
  demand_congr (by rw [State.stream, f.streams, State.stream])

theorem Charged.rosterEntry (f : Charged s t) (c : CellId) : t.rosterEntry c = s.rosterEntry c := by
  rw [State.rosterEntry, f.roster, State.rosterEntry]

theorem Charged.chargeable (f : Charged s t) (h : s.chargeable) : t.chargeable := by
  obtain ⟨hw, hn⟩ := h
  exact ⟨by rwa [← tableWf_map Carriage.membership, f.members, tableWf_map], fun c => by rw [f.rosterEntry]; exact hn c⟩

theorem Charged.foldl {α : Type} {act : State → α → State} (h : ∀ u a, u.chargeable → Charged u (act u a)) (l : List α)
    (hs : s.chargeable) : Charged s (l.foldl act s) := by
  induction l generalizing s with
  | nil => exact .refl s
  | cons a l ih => exact (h s a hs).trans (ih ((h s a hs).chargeable hs))

/-- A carriage that stands written to with its members as they are. -/
theorem Charged.setCarriage {c : CellId} {x : StreamId} {k k' : Carriage} (hw : tableWf s.carriages = true)
    (hk : s.carriage? c x = some k) (hm : k'.membership = k.membership)
    (hb : k.balanceOk (s.demand x) → k'.balanceOk (s.demand x)) : Charged s (s.setCarriage c x k') :=
  ⟨rfl, rfl, rfl, tableMap_store hw hk hm, fun B => balancesOk_store B (hb (B c x k hk)) rfl fun _ => rfl⟩

/-! ### Charges -/

/-- A grant within the want leaves the balance below the payload (R127, R128). -/
theorem balance_lt_of_grant {demand pay g : Nat} {b : Int} (hpay : 0 < pay) (hb : b < pay) (hg : g ≤ want demand pay b) :
    b + (g : Int) * (pay : Int) - demand < pay := by
  have hmul : g * pay ≤ ((demand : Int) - b).toNat + pay - 1 :=
    (Nat.mul_le_mul_right pay hg).trans (Nat.div_mul_le_self _ _)
  have hcast : ((g * pay : Nat) : Int) = (g : Int) * (pay : Int) := Nat.cast_mul g pay
  by_cases hd : (demand : Int) ≤ b
  · have hzero : ((demand : Int) - b).toNat = 0 := Int.toNat_of_nonpos (by omega)
    have hg0 : g = 0 := by
      rw [hzero] at hmul
      by_contra hne
      have := Nat.le_mul_of_pos_left pay (Nat.pos_of_ne_zero hne)
      omega
    rw [hg0]
    omega
  · have hpos : (((demand : Int) - b).toNat : Int) = demand - b := Int.toNat_of_nonneg (by omega)
    omega

/-- A charge within the want keeps the balance of a MULTICAST carriage in range (R128 to R131). -/
theorem Carriage.balanceOk.charged {k : Carriage} {d g : Nat} (h : k.balanceOk d) (hm : k.mode = .multicast)
    (hg : g ≤ want d (payload k.minLevel) k.balance) :
    Carriage.balanceOk d { k with
      balance := (charge k.balance k.starved g (payload k.minLevel) d).balance
      starved := (charge k.balance k.starved g (payload k.minLevel) d).starved
      lastGrant := g } := by
  have hpay := payload_pos k.minLevel
  unfold Carriage.balanceOk at h ⊢
  rw [if_pos hm] at h ⊢
  have below := balance_lt_of_grant hpay h.2 hg
  obtain ⟨hcharge, _⟩ := charge_eq k.balance k.starved g (payload k.minLevel) d
  dsimp only
  rw [hcharge]
  omega

theorem Carriage.balanceOk.cleared {k : Carriage} {d : Nat} (h : k.balanceOk d) : Carriage.balanceOk d { k with lastGrant := 0 } :=
  h

theorem Charged.chargeCarriage {c : CellId} {x : StreamId} {k : Carriage} (hw : tableWf s.carriages = true)
    (hk : s.carriage? c x = some k) (hm : k.mode = .multicast) {g : Nat} (hg : g ≤ s.wantOf x k) (f : FrameNo) :
    Charged s (s.chargeCarriage c x k g f) := by
  have stored : Charged s (s.setCarriage c x { k with
      balance := (charge k.balance k.starved g (payload k.minLevel) (s.demand x)).balance
      starved := (charge k.balance k.starved g (payload k.minLevel) (s.demand x)).starved
      lastGrant := g }) :=
    .setCarriage hw hk rfl fun hb => hb.charged hm hg
  unfold State.chargeCarriage
  dsimp only
  split
  · exact stored
  · exact stored.trans (.beside rfl rfl rfl rfl)
  · exact stored.trans (.beside rfl rfl rfl rfl)

theorem Charged.clearGrant {c : CellId} {x : StreamId} {k : Carriage} (hw : tableWf s.carriages = true)
    (hk : s.carriage? c x = some k) : Charged s (s.clearGrant c x k) :=
  .setCarriage hw hk rfl Carriage.balanceOk.cleared

/-! ### A cell built -/

theorem Charged.grantNext {c : CellId} (f : FrameNo) (b : Building) (x : StreamId) (hw : tableWf b.state.carriages = true) :
    Charged b.state (grantNext c f b x).state := by
  unfold Machine.grantNext
  split
  · exact .refl _
  · next k hk =>
    split
    · next hm => exact .chargeCarriage hw hk hm (Nat.min_le_left _ _) f
    · exact .clearGrant hw hk

theorem Charged.buildCell (f : FrameNo) (s : State) (c : CellId) (hs : s.chargeable) :
    Charged s (State.buildCell f s c) := by
  have grants : ∀ (xs : List StreamId) (b : Building), b.state.chargeable →
      Charged b.state (xs.foldl (Machine.grantNext c f) b).state := by
    intro xs
    induction xs with
    | nil => exact fun b _ => .refl _
    | cons x xs ih =>
      intro b hb
      have first : Charged b.state (Machine.grantNext c f b x).state := .grantNext f b x hb.1
      exact first.trans (ih _ (first.chargeable hb))
  exact (grants _ ⟨_, [], s⟩ hs).trans (.beside rfl rfl rfl rfl)

/-! ### A cell held -/

/-- Runs none of which has more slots than `b` allows its stream. -/
def runsWithin (b : StreamId → Nat) (runs : List ReplayRun) : Prop := ∀ r ∈ runs, r.slots ≤ b r.stream

theorem runsWithin_takeFromRuns {b : StreamId → Nat} {runs : List ReplayRun} (h : runsWithin b runs) (n : Nat) :
    runsWithin b (takeFromRuns n runs) := by
  induction runs generalizing n with
  | nil => simpa [takeFromRuns] using h
  | cons r runs ih =>
    obtain ⟨hr, hruns⟩ := List.forall_mem_cons.1 h
    rw [takeFromRuns]
    split
    · exact List.forall_mem_cons.2 ⟨(Nat.sub_le _ _).trans hr, hruns⟩
    · exact ih hruns _

theorem runsWithin_takeFromEnd {b : StreamId → Nat} {runs : List ReplayRun} (h : runsWithin b runs) (n : Nat) :
    runsWithin b (takeFromEnd n runs) := by
  have reversed : runsWithin b runs.reverse := fun r hr => h r (List.mem_reverse.1 hr)
  exact fun r hr => runsWithin_takeFromRuns reversed n r (List.mem_reverse.1 hr)

theorem slotsOf_le {b : StreamId → Nat} {runs : List ReplayRun} (h : runsWithin b runs) (x : StreamId) :
    slotsOf runs x ≤ b x := by
  rw [slotsOf_eq]
  cases hf : runs.find? fun r => decide (r.stream = x) with
  | none => exact Nat.zero_le _
  | some r =>
    have hx : r.stream = x := by simpa using List.find?_some hf
    exact hx ▸ h r (List.mem_of_find?_eq_some hf)

/-- What a hold allows a stream's run in a cell: its carriage's want (R145). -/
def State.holdLimit (s : State) (c : CellId) (x : StreamId) : Nat := (s.carriage? c x).elim 0 (s.wantOf x)

/-- A held plan grants no carriage more than it wants (R145). -/
theorem runsWithin_heldPlan (s : State) (f : FrameNo) (c : CellId) (p : Plan) :
    runsWithin (s.holdLimit c) (s.heldPlan f c p).replays := by
  have trimmed : runsWithin (s.holdLimit c) (p.replays.filterMap (s.trimRun c)) := by
    intro r hr
    obtain ⟨r₀, _, hr₀⟩ := List.mem_filterMap.1 hr
    unfold State.trimRun at hr₀
    cases hk : s.carriage? c r₀.stream with
    | none => simp [hk] at hr₀
    | some k =>
      simp only [hk] at hr₀
      split at hr₀
      · split at hr₀
        · cases hr₀
        · cases hr₀
          simp only [State.holdLimit, hk, Option.elim_some]
          exact Nat.min_le_right _ _
      · cases hr₀
  have controlled : ∀ q : Plan, runsWithin (s.holdLimit c) q.replays →
      runsWithin (s.holdLimit c) (setControl (controlRun f) q).replays := fun q hq => by
    unfold setControl
    split
    · exact hq
    · exact runsWithin_takeFromEnd hq _
  have capped : ∀ (q : Plan) (cap : Nat), runsWithin (s.holdLimit c) q.replays →
      runsWithin (s.holdLimit c) (applyCap cap q).replays := fun q cap hq => by
    unfold applyCap
    dsimp only
    split
    · exact hq
    · exact runsWithin_takeFromEnd hq _
  exact capped _ _ (controlled _ trimmed)

/-- The charges of a held cell, each within the want of its carriage (R146). -/
theorem Charged.chargesHeld (c : CellId) (f : FrameNo) (runs : List ReplayRun) {xs : List StreamId} (hn : xs.Nodup)
    (hs : s.chargeable) (hruns : ∀ x ∈ xs, slotsOf runs x ≤ s.holdLimit c x) :
    Charged s (xs.foldl (chargeHeld c f runs) s) := by
  induction xs generalizing s with
  | nil => exact .refl s
  | cons x xs ih =>
    rw [List.nodup_cons] at hn
    obtain ⟨hout, hn⟩ := hn
    have first : Charged s (chargeHeld c f runs s x) := by
      unfold chargeHeld
      split
      · exact .refl s
      · next k hk =>
        split
        · next hm =>
          refine .chargeCarriage hs.1 hk hm ?_ f
          have := hruns x List.mem_cons_self
          rwa [State.holdLimit, hk] at this
        · exact .clearGrant hs.1 hk
    refine first.trans (ih hn (first.chargeable hs) fun y hy => ?_)
    have hne : y ≠ x := fun h => hout (h ▸ hy)
    have same : (chargeHeld c f runs s x).holdLimit c y = s.holdLimit c y := by
      unfold State.holdLimit State.wantOf
      rw [carriage?_chargeHeld_of_ne hne, first.demand]
    rw [same]
    exact hruns y (List.mem_cons_of_mem x hy)

theorem Charged.holdCell (f : FrameNo) (s : State) (c : CellId) (hs : s.chargeable) : Charged s (State.holdCell f s c) := by
  have planned : Charged s (s.setPlan c ⟨s.heldPlan f c (s.planEntry c).plan, some f, true⟩) := .beside rfl rfl rfl rfl
  exact planned.trans (.chargesHeld c f _ (hs.2 c) (planned.chargeable hs) fun x _ =>
    slotsOf_le (runsWithin_heldPlan s f c _) x)

/-! ### Sectors, passes and boundaries -/

theorem Charged.completeBuild (s : State) (f : FrameNo) (sec : SectorId) (hs : s.chargeable) :
    Charged s (s.completeBuild f sec) :=
  (Charged.foldl (fun u c => Charged.buildCell f u c) (s.cellsOf sec) hs).trans (.beside rfl rfl rfl rfl)

theorem Charged.holdSector (f : FrameNo) (s : State) (sec : SectorId) (hs : s.chargeable) :
    Charged s (State.holdSector f s sec) :=
  (Charged.foldl (fun u c => Charged.holdCell f u c) (s.cellsOf sec) hs).trans (.beside rfl rfl rfl rfl)

theorem Charged.startBuild (s : State) (f : FrameNo) (order : List SectorId) : Charged s (s.startBuild f order) := by
  have b := Beside.startBuild s f order
  exact .beside b.stations b.streams b.roster b.carriages

theorem Charged.endPass (s : State) (pass : Pass) (hs : s.chargeable) : Charged s (s.endPass pass) := by
  have late := Charged.completeBuild s pass.frame pass.building hs
  unfold State.endPass
  dsimp only
  split
  · exact late
  · exact (late.trans (.foldl (Charged.holdSector pass.frame) pass.rest (late.chargeable hs))).trans (.beside rfl rfl rfl rfl)

theorem Charged.planBoundary (s : State) (hs : s.chargeable) : Charged s s.planBoundary := by
  unfold State.planBoundary
  split
  · exact .startBuild s _ _
  · exact (Charged.endPass s _ hs).trans (.startBuild _ _ _)

theorem Charged.finishBuild (s : State) (hs : s.chargeable) : Charged s s.finishBuild := by
  unfold State.finishBuild
  split
  · exact .refl s
  · exact (Charged.completeBuild s _ _ hs).trans (.startBuild _ _ _)

end

end Sys2Proof.Machine
end

section
namespace Sys2Proof.Machine

open Sys2Proof

/-! ## The Carriage Table and the stations -/

section
variable {s t : State}

/-- A table whose carriages keep their members, with the lists, the totals, and the priorities of the streams that are not IDLE
as they were. -/
theorem State.booked.of_membership (H : s.booked)
    (hm : tableMap Carriage.membership t.carriages = tableMap Carriage.membership s.carriages)
    (hlist : ∀ d, (t.rosterEntry d).carriages = (s.rosterEntry d).carriages) (hwf : tableWfDefault {} t.streams = true)
    (htotals : ∀ y, (t.stream y).subscribers = (s.stream y).subscribers ∧ (t.stream y).carriages = (s.stream y).carriages)
    (hlive : ∀ y, (s.stream y).state ≠ .idle → (t.stream y).state ≠ .idle ∧ t.priorityOf y = s.priorityOf y) :
    t.booked ∧ ∀ c x l, t.members c x l = s.members c x l := by
  obtain ⟨⟨htable, hkeys, hlen, hlists⟩, hsound, _, hsubs, hcars⟩ := H
  have hfind : ∀ c x, (t.carriage? c x).map Carriage.membership = (s.carriage? c x).map Carriage.membership := fun c x => by
    simp only [State.carriage?, ← tableFind_map, hm]
  have hsame : ∀ c x k', t.carriage? c x = some k' → ∃ k, s.carriage? c x = some k ∧ k.membership = k'.membership :=
    fun c x k' hk' => by
      have := hfind c x
      rw [hk'] at this
      exact Option.map_eq_some_iff.1 this.symm
  have hkey : t.carriages.map Prod.fst = s.carriages.map Prod.fst := by
    have := congrArg (List.map Prod.fst) hm
    rwa [tableMap, tableMap, List.map_map, List.map_map] at this
  have summed : ∀ w : Nat → Nat → Nat, tableSum (fun key k => w key k.count) t.carriages =
      tableSum (fun key (k : Carriage) => w key k.count) s.carriages := fun w => by
    have := congrArg (tableSum fun key (m : Nat × List Nat × Level) => w key m.1) hm
    rwa [tableSum_map, tableSum_map] at this
  have listed : ∀ c x, x ∈ (s.rosterEntry c).carriages → (s.stream x).state ≠ .idle := fun c x hx => by
    obtain ⟨k, hk⟩ := Option.isSome_iff_exists.1 (((hlists c).1 x).1 hx)
    exact (hsound c x k hk).2
  refine ⟨⟨⟨by rwa [← tableWf_map Carriage.membership, hm, tableWf_map], fun e he => ?_, ?_, fun c => ⟨fun x => ?_, ?_⟩⟩,
    fun c x k' hk' => ?_, hwf, fun x => ?_, fun x => ?_⟩, fun c x l => ?_⟩
  · obtain ⟨d, hd, hde⟩ := List.mem_map.1 (hkey ▸ List.mem_map_of_mem (f := Prod.fst) he)
    exact hde ▸ hkeys d hd
  · have := congrArg List.length hkey
    rw [List.length_map, List.length_map] at this
    rwa [this]
  · rw [hlist, (hlists c).1 x, ← Option.isSome_map (f := Carriage.membership), ← hfind, Option.isSome_map]
  · rw [hlist]
    refine (hlists c).2.imp_of_mem fun {x y} hx hy hxy => ?_
    have hpx := (hlive x (listed c x hx)).2
    have hpy := (hlive y (listed c y hy)).2
    simpa only [State.grantsBefore, hpx, hpy] using hxy
  · obtain ⟨k, hk, hkk⟩ := hsame c x k' hk'
    simp only [Carriage.membership, Prod.mk.injEq] at hkk
    obtain ⟨hcount, hhist, hmin⟩ := hkk
    obtain ⟨hs, hidle⟩ := hsound c x k hk
    exact ⟨⟨by rw [← hcount, ← hhist, hs.count], hcount ▸ hs.member, hhist ▸ hs.length,
      by rw [← hmin, ← hhist, hs.minLevel]⟩, (hlive x hidle).1⟩
  · rw [(htotals x).1, hsubs, sumCounts_eq, sumCounts_eq]
    exact (summed fun key n => if key % 16 = x.val then n else 0).symm
  · rw [(htotals x).2, hcars, carriageCount_eq, carriageCount_eq]
    exact (summed fun key _ => bit (decide (key % 16 = x.val))).symm
  · have := hfind c x
    rw [State.members, State.members]
    cases hk' : t.carriage? c x with
    | none =>
      rw [hk', Option.map_none, eq_comm, Option.map_eq_none_iff] at this
      rw [this]
    | some k' =>
      obtain ⟨k, hk, hkk⟩ := hsame c x k' hk'
      simp only [Carriage.membership, Prod.mk.injEq] at hkk
      rw [hk, Option.elim_some, Option.elim_some, hkk.2.1]

theorem Charged.booked (f : Charged s t) (H : s.booked) : t.booked ∧ ∀ c x l, t.members c x l = s.members c x l := by
  have hstream : ∀ y, t.stream y = s.stream y := fun y => by rw [State.stream, f.streams, State.stream]
  exact H.of_membership f.members (fun d => by rw [f.rosterEntry]) (by rw [f.streams]; exact H.wf)
    (fun y => by rw [hstream]; exact ⟨rfl, rfl⟩)
    fun y hy => ⟨by rwa [hstream], by simp only [State.priorityOf, hstream]⟩

theorem State.booked.chargeable (H : s.booked) : s.chargeable :=
  ⟨H.lists.1, fun c => nodup_of_grantOrder (H.lists.2.2.2 c).2⟩

end

/-! ### What a station adds to the carriages -/

/-- The level at which a station's ACTIVE entry for a stream is counted; none without one. -/
def Station.lev (st : Station) (x : StreamId) : Option Level :=
  (findSub st.subs x).bind fun e => if e.state = .active then some st.level else none

/-- The number of stations that a cell serves whose subscription to a stream is ACTIVE, at a level. -/
def State.received (s : State) (c : CellId) (x : StreamId) (l : Level) : Nat :=
  s.stations.countP fun e => receives c x e.2 && decide (e.2.level = l)

/-- The same without the station `h`. -/
def State.others (s : State) (h : Handle) (c : CellId) (x : StreamId) (l : Level) : Nat :=
  (tableErase s.stations h).countP fun e => receives c x e.2 && decide (e.2.level = l)

/-- Every carriage counts, level by level, the stations that receive its stream in its cell. -/
def State.ledger (s : State) : Prop := ∀ c x l, s.members c x l = s.received c x l

theorem Station.lev_of_find {st : Station} {x : StreamId} {e : Subscription} (hf : findSub st.subs x = some e) :
    st.lev x = if e.state = .active then some st.level else none := by
  rw [Station.lev, hf, Option.bind_some]

theorem Station.lev_of_none {st : Station} {x : StreamId} (hf : findSub st.subs x = none) : st.lev x = none := by
  rw [Station.lev, hf, Option.bind_none]

/-- A station counts in its serving cell, for the streams of its ACTIVE entries. -/
theorem receives_iff_lev {st : Station} (hn : (st.subs.map (·.stream)).Nodup)
    (ha : ∀ e ∈ st.subs, e.state = .active → isLingering st.state = false) (c : CellId) (x : StreamId) (l : Level) :
    (receives c x st && decide (st.level = l)) = (decide (c = st.serving) && decide (st.lev x = some l)) := by
  rw [Bool.eq_iff_iff]
  simp only [receives, servedBy, Bool.and_eq_true, Bool.not_eq_true', List.any_eq_true, decide_eq_true_eq]
  constructor
  · rintro ⟨⟨⟨_, hc⟩, e, he, hx, hactive⟩, hl⟩
    refine ⟨hc.symm, ?_⟩
    rw [← hx, Station.lev_of_find (findSub_of_mem hn he), if_pos hactive, hl]
  · rintro ⟨hc, hlev⟩
    cases hf : findSub st.subs x with
    | none => rw [Station.lev_of_none hf] at hlev; cases hlev
    | some e =>
      rw [Station.lev_of_find hf] at hlev
      obtain ⟨hx, he⟩ := findSub_stream hf
      split at hlev
      · next hactive => exact ⟨⟨⟨ha e he hactive, hc.symm⟩, e, he, hx, hactive⟩, Option.some.inj hlev⟩
      · cases hlev

/-- The carriages count the stations other than `h`, and for `h` one member in the cell `c₀` for each stream at its level. -/
structure State.transit (h : Handle) (c₀ : CellId) (lev : StreamId → Option Level) (s : State) : Prop where
  booked : s.booked
  balances : s.balancesOk
  ledger : ∀ c x l, s.members c x l = s.others h c x l + bit (decide (c = c₀) && decide (lev x = some l))

section
variable {s t : State} {h : Handle} {st : Station} {c₀ : CellId} {lev : StreamId → Option Level}

/-- The station taken out of the count of all. -/
theorem received_eq (hw : tableWf s.stations = true) (hst : s.station? h = some st) (hn : (st.subs.map (·.stream)).Nodup)
    (ha : ∀ e ∈ st.subs, e.state = .active → isLingering st.state = false) (c : CellId) (x : StreamId) (l : Level) :
    s.received c x l = s.others h c x l + bit (decide (c = st.serving) && decide (st.lev x = some l)) := by
  have := countP_erase hw h fun v : Station => receives c x v && decide (v.level = l)
  rw [show tableFind s.stations h = some st from hst, tally_some, receives_iff_lev hn ha] at this
  exact this.symm

theorem transit_of_ledger (hw : tableWf s.stations = true) (hst : s.station? h = some st)
    (hn : (st.subs.map (·.stream)).Nodup) (ha : ∀ e ∈ st.subs, e.state = .active → isLingering st.state = false)
    (H : s.booked) (B : s.balancesOk) (L : s.ledger) : s.transit h st.serving st.lev :=
  ⟨H, B, fun c x l => by rw [L, received_eq hw hst hn ha]⟩

theorem State.transit.toLedger (T : s.transit h st.serving st.lev) (hw : tableWf s.stations = true)
    (hst : s.station? h = some st) (hn : (st.subs.map (·.stream)).Nodup)
    (ha : ∀ e ∈ st.subs, e.state = .active → isLingering st.state = false) : s.ledger := fun c x l => by
  rw [T.ledger, received_eq hw hst hn ha]

/-- What a transit reads: the other stations, the carriages, the lists, and the states and totals of the streams. -/
theorem State.transit.congr (T : s.transit h c₀ lev) (hst : tableErase t.stations h = tableErase s.stations h)
    (hca : t.carriages = s.carriages) (hlist : ∀ d, (t.rosterEntry d).carriages = (s.rosterEntry d).carriages)
    (hwf : tableWfDefault {} t.streams = true) (hstate : ∀ y, (t.stream y).state = (s.stream y).state)
    (htotals : ∀ y, (t.stream y).subscribers = (s.stream y).subscribers ∧
      (t.stream y).carriages = (s.stream y).carriages) : t.transit h c₀ lev := by
  obtain ⟨booked, members⟩ := T.booked.of_membership (by rw [hca]) hlist hwf htotals fun y hy =>
    ⟨by rwa [hstate], by simp only [State.priorityOf, hstate]⟩
  refine ⟨booked, fun c x k hk => ?_, fun c x l => ?_⟩
  · rw [demand_congr (hstate x)]
    exact T.balances c x k (by rwa [State.carriage?, ← hca])
  · rw [members, T.ledger, State.others, State.others, hst]

/-- A change beside the other stations, the carriages, the lists and the streams. -/
theorem State.transit.beside (T : s.transit h c₀ lev) (hst : tableErase t.stations h = tableErase s.stations h)
    (hca : t.carriages = s.carriages) (hlist : ∀ d, (t.rosterEntry d).carriages = (s.rosterEntry d).carriages)
    (hs : t.streams = s.streams) : t.transit h c₀ lev := by
  have hstream : ∀ y, t.stream y = s.stream y := fun y => by rw [State.stream, hs, State.stream]
  exact T.congr hst hca hlist (by rw [hs]; exact T.booked.wf) (fun y => by rw [hstream])
    fun y => by rw [hstream]; exact ⟨rfl, rfl⟩

theorem State.transit.setStation (T : s.transit h c₀ lev) (st : Station) : (s.setStation h st).transit h c₀ lev :=
  T.beside (tableErase_store s.stations h st) rfl (fun _ => rfl) rfl

theorem State.transit.notify (T : s.transit h c₀ lev) (dest : PortUnit → Bool) (n : Notice) (tag : Tag) :
    (s.notify dest n tag).transit h c₀ lev := T.beside rfl rfl (fun _ => rfl) rfl

/-- The held figures of the streams are no carriage's. -/
theorem State.transit.setHeld (T : s.transit h c₀ lev) (x : StreamId) (n : Nat) :
    (s.setStream x { s.stream x with held := n }).transit h c₀ lev := by
  refine T.congr rfl rfl (fun _ => rfl) (tableWfDefault_write T.booked.wf _ _) (fun y => ?_) fun y => ?_
  · by_cases hy : y = x
    · rw [hy, stream_setStream_self]
    · rw [stream_setStream_of_ne s _ hy]
  · by_cases hy : y = x
    · rw [hy, stream_setStream_self]
      exact ⟨rfl, rfl⟩
    · rw [stream_setStream_of_ne s _ hy]
      exact ⟨rfl, rfl⟩

/-- A station that counts nowhere may count nowhere in any cell. -/
theorem State.transit.elsewhere (T : s.transit h c₀ fun _ => none) (c₁ : CellId) : s.transit h c₁ fun _ => none :=
  ⟨T.booked, T.balances, fun c x l => by rw [T.ledger]; simp⟩

/-- The carriage of the station's cell and a stream rewritten. -/
theorem State.transit.rebook (T : s.transit h c₀ lev) {x : StreamId} {m : Level → Nat} (R : Rebooked s t c₀ x m)
    (v : Option Level)
    (hm : ∀ l, m l + bit (decide (lev x = some l)) = s.members c₀ x l + bit (decide (v = some l))) :
    t.transit h c₀ (Function.update lev x v) := by
  refine ⟨R.booked, R.balances, fun d y l => ?_⟩
  have hothers : t.others h d y l = s.others h d y l := by rw [State.others, R.stations, State.others]
  have before := T.ledger d y l
  rw [R.members, hothers]
  by_cases he : d = c₀ ∧ y = x
  · obtain ⟨rfl, rfl⟩ := he
    have := hm l
    rw [before] at this
    simp only [and_self, if_true, decide_true, Bool.true_and, Function.update_self] at this ⊢
    omega
  · rw [if_neg he, before]
    by_cases hd : d = c₀
    · have hy : y ≠ x := fun h => he ⟨hd, h⟩
      rw [Function.update_of_ne hy]
    · simp [hd]

section
variable (T : s.transit h c₀ lev) {x : StreamId} (l : Level) (tag : Tag)
include T

theorem State.transit.join (hx : lev x = none) (hlive : (s.stream x).state ≠ .idle)
    (hroom : s.carriage? c₀ x ≠ none ∨ s.carriages.length < 4096) :
    (s.join c₀ x l tag).transit h c₀ (Function.update lev x (some l)) := by
  refine T.rebook (join_rebooked T.booked T.balances l tag hlive hroom) (some l) fun i => ?_
  simp [hx, bit, eq_comm]

/-- Where the station counts for a stream, the carriage has a member at its level. -/
theorem State.transit.member (hx : lev x = some l) : 1 ≤ s.members c₀ x l := by
  rw [T.ledger]
  simp [hx, bit]

theorem State.transit.leave (hx : lev x = some l) : (s.leave c₀ x l tag).transit h c₀ (Function.update lev x none) := by
  have hin := T.member l hx
  refine T.rebook (leave_rebooked T.booked T.balances l tag hin) none fun i => ?_
  by_cases hi : i = l
  · subst hi
    simp only [hx, if_true, decide_true, bit, reduceCtorEq, decide_false, Bool.false_eq_true, if_false]
    omega
  · simp [hx, hi, bit, Ne.symm hi]

theorem State.transit.moveLevel {old : Level} (hx : lev x = some old) :
    (s.moveLevel c₀ x old l tag).transit h c₀ (Function.update lev x (some l)) := by
  have hin := T.member old hx
  refine T.rebook (moveLevel_rebooked T.booked T.balances l tag hin) (some l) fun i => ?_
  simp only [hx, Option.some.injEq, bit, eq_comm (a := old), eq_comm (a := l), decide_eq_true_eq]
  by_cases hi : i = old
  · subst hi
    simp only [if_true]
    omega
  · simp only [hi, if_false]
    omega

end

end

end Sys2Proof.Machine
end

section
namespace Sys2Proof.Machine

open Sys2Proof

/-! ### Evaluations, moves and removals of a station's entries -/

theorem findSub_map {f : Subscription → Subscription} (hf : ∀ e, (f e).stream = e.stream) (subs : List Subscription)
    (x : StreamId) : findSub (subs.map f) x = (findSub subs x).map f := by
  rw [findSub, findSub, List.find?_map]
  congr 2
  funext e
  simp only [Function.comp, hf]

theorem findSub_filter_of_ne {subs : List Subscription} {x y : StreamId} (h : y ≠ x) :
    findSub (subs.filter fun e => decide (e.stream ≠ x)) y = findSub subs y := by
  rw [findSub, findSub, List.find?_filter]
  congr 1
  funext e
  by_cases he : e.stream = y
  · simp [he, h]
  · simp [he]

/-- The station's record after a visit of one entry, and what it counts in its carriages: the visited entry's state decides its
stream, and the other entries stand. -/
structure Visited (h : Handle) (st : Station) (x : StreamId) (lev : StreamId → Option Level) (t : State) (st' : Station) :
    Prop where
  live : t.station? h = some st'
  serving : st'.serving = st.serving
  streams : st'.subs.map (·.stream) = st.subs.map (·.stream)
  others : ∀ y, y ≠ x → st'.lev y = st.lev y
  transit : t.transit h st.serving (Function.update lev x (st'.lev x))

section
variable {s : State} {h : Handle} {st : Station} {lev : StreamId → Option Level} {x : StreamId} {e : Subscription}

theorem Visited.notify {st' : Station} (V : Visited h st x lev s st') (dest : PortUnit → Bool) (n : Notice) (tag : Tag) :
    Visited h st x lev (s.notify dest n tag) st' :=
  ⟨V.live, V.serving, V.streams, V.others, V.transit.notify _ _ _⟩

/-- The entry given its state, once its carriage counts it as the state asks. -/
theorem Visited.setSubState (hst : s.station? h = some st) (hf : findSub st.subs x = some e) (v : SubState)
    (T : s.transit h st.serving (Function.update lev x (if v = .active then some st.level else none))) :
    ∃ st', Visited h st x lev (s.setSubState h x v) st' := by
  rw [setSubState_eq hst]
  have keeps : ∀ d : Subscription, (if d.stream = x then { d with state := v } else d).stream = d.stream := fun d => by
    split <;> rfl
  have find := findSub_map keeps st.subs
  refine ⟨_, station?_setStation_self s h _, rfl, ?_, fun y hy => ?_, ?_⟩
  · rw [List.map_map]
    exact List.map_congr_left fun d _ => keeps d
  · rw [Station.lev, Station.lev, find]
    cases hd : findSub st.subs y with
    | none => rfl
    | some d =>
      have hdy : d.stream ≠ x := by rw [(findSub_stream hd).1]; exact hy
      simp only [Option.map_some, Option.bind_some, if_neg hdy]
  · have visited : Station.lev { st with subs := st.subs.map fun d => if d.stream = x then { d with state := v } else d } x =
        if v = .active then some st.level else none := by
      rw [Station.lev, find, hf]
      simp only [Option.map_some, Option.bind_some, if_pos (findSub_stream hf).1]
    rw [visited]
    exact T.setStation _

/-- The visit of one entry leaves its carriage counting it exactly if it is ACTIVE (R100, R110, R111). -/
theorem State.transit.evalEntry (T : s.transit h st.serving lev) (hst : s.station? h = some st)
    (hf : findSub st.subs x = some e) (hlive : (s.stream x).state ≠ .idle) (tag : Tag) (joined : Bool)
    (fresh : Option StreamId) (hlev : lev x = if joined then st.lev x else none) :
    ∃ st', Visited h st x lev (s.evalEntry h tag joined fresh x) st' := by
  have own := Station.lev_of_find hf
  have stay : st.lev x = lev x → Visited h st x lev s st := fun heq =>
    ⟨hst, rfl, rfl, fun _ _ => rfl, by rwa [heq, Function.update_eq_self]⟩
  have room : s.verdict st x = .active → s.carriage? st.serving x ≠ none ∨ s.carriages.length < 4096 := fun hv => by
    by_contra hfull
    unfold State.verdict at hv
    obtain ⟨hnone, hlen⟩ := not_or.1 hfull
    have hfree : s.freeCarriages = 0 := by rw [State.freeCarriages]; omega
    rw [not_not.1 hnone, hfree] at hv
    split at hv
    · cases hv
    · split at hv
      · cases hv
      · split at hv
        · cases hv
        · simp at hv
  have rejoined : lev x = none → s.verdict st x = .active →
      ∃ st', Visited h st x lev ((s.join st.serving x st.level tag).setSubState h x .active) st' := fun hnone hv =>
    Visited.setSubState ((station?_join ..).trans hst) hf .active (T.join st.level tag hnone hlive (room hv))
  have unjoined : lev x = none → Function.update lev x none = lev := fun hnone => by
    conv_lhs => rw [← hnone]
    exact Function.update_eq_self x lev
  cases he : e.state with
  | active =>
    rw [he, if_pos rfl] at own
    cases hv : s.verdict st x with
    | active =>
      rw [evalEntry_of_active hst hf tag joined fresh he hv]
      cases joined with
      | true => exact ⟨st, stay hlev.symm⟩
      | false => exact rejoined hlev hv
    | suspended r =>
      rw [evalEntry_of_suspended hst hf tag joined fresh he hv]
      cases joined with
      | true =>
        obtain ⟨st', V⟩ := Visited.setSubState ((station?_leave ..).trans hst) hf (.suspended r)
          (T.leave st.level tag (hlev.trans own))
        exact ⟨st', V.notify _ _ _⟩
      | false =>
        obtain ⟨st', V⟩ := Visited.setSubState (lev := lev) hst hf (.suspended r)
          (by rw [if_neg (by simp), unjoined hlev]; exact T)
        exact ⟨st', V.notify _ _ _⟩
  | suspended r' =>
    rw [he, if_neg (by simp)] at own
    have hnone : lev x = none := by rw [hlev, own, ite_self]
    cases hv : s.verdict st x with
    | active =>
      rw [evalEntry_of_resumed hst hf tag joined fresh he hv]
      obtain ⟨st', V⟩ := rejoined hnone hv
      dsimp only
      split
      · exact ⟨st', V⟩
      · exact ⟨st', V.notify _ _ _⟩
    | suspended r =>
      rw [evalEntry_of_still hst hf tag joined fresh he hv]
      split
      · exact ⟨st, stay (own.trans hnone.symm)⟩
      · obtain ⟨st', V⟩ := Visited.setSubState (lev := lev) hst hf (.suspended r)
          (by rw [if_neg (by simp), unjoined hnone]; exact T)
        dsimp only
        split
        · exact ⟨st', V⟩
        · exact ⟨st', V.notify _ _ _⟩

/-- The visits of some entries of a list, each of which the carriages count as an evaluation finds it. -/
theorem State.transit.visits {xs : List StreamId} (hn : xs.Nodup) (T : s.transit h st.serving lev)
    (hst : s.station? h = some st) (hl : s.listOk st) (hxs : ∀ x ∈ xs, x ∈ st.subs.map (·.stream)) (tag : Tag) (joined : Bool)
    (fresh : Option StreamId)
    (hlev : ∀ x, lev x = if x ∈ xs then if joined then st.lev x else none else st.lev x) :
    ∃ st', (xs.foldl (fun s x => s.evalEntry h tag joined fresh x) s).station? h = some st' ∧
      (xs.foldl (fun s x => s.evalEntry h tag joined fresh x) s).transit h st'.serving st'.lev := by
  induction xs generalizing s st lev with
  | nil =>
    obtain rfl : lev = st.lev := funext fun x => by simpa using hlev x
    exact ⟨st, hst, T⟩
  | cons x xs ih =>
    rw [List.nodup_cons] at hn
    obtain ⟨hout, hn⟩ := hn
    have hx := hxs x List.mem_cons_self
    obtain ⟨e, hf⟩ : ∃ e, findSub st.subs x = some e := Option.isSome_iff_exists.1 (by
      rw [findSub_isSome]
      exact decide_eq_true hx)
    have hlive : (s.stream x).state ≠ .idle := fun hidle => by
      obtain ⟨rfl, he⟩ := findSub_stream hf
      exact hl.2.2 e he (terms_eq_none.2 hidle)
    obtain ⟨st', V⟩ := T.evalEntry hst hf hlive tag joined fresh (by rw [hlev, if_pos List.mem_cons_self])
    have frame : SubscriptionFrame (· = h) (fun _ _ => True) s (s.evalEntry h tag joined fresh x) :=
      evalEntry_frame (hs := (· = h)) s rfl tag joined fresh x fun _ _ => trivial
    refine ih hn (V.serving ▸ V.transit) V.live (hl.of_streams V.streams frame.terms)
      (fun y hy => V.streams ▸ hxs y (List.mem_cons_of_mem x hy)) fun y => ?_
    by_cases hy : y = x
    · subst hy
      rw [Function.update_self, if_neg hout]
    · rw [Function.update_of_ne hy, hlev, V.others y hy]
      simp only [List.mem_cons, hy, false_or]

/-- After an evaluation the carriages count the ACTIVE entries of its station (R100). -/
theorem State.transit.evaluateWith (T : s.transit h st.serving lev) (hst : s.station? h = some st) (hl : s.listOk st)
    (tag : Tag) (joined : Bool) (fresh : Option StreamId) (hlev : ∀ x, lev x = if joined then st.lev x else none) :
    ∃ st', (s.evaluateWith h tag joined fresh).station? h = some st' ∧
      (s.evaluateWith h tag joined fresh).transit h st'.serving st'.lev := by
  simp only [State.evaluateWith, hst]
  refine T.visits hl.2.1 hst hl (fun _ => id) tag joined fresh fun x => ?_
  split
  · exact hlev x
  · next hx =>
    have hnone := Station.lev_of_none (findSub_of_not_mem hx)
    rw [hlev, hnone, ite_self]

/-- The first pass of a move leaves every carriage of the old cell in which the list has an ACTIVE entry (R43). -/
theorem State.transit.leaveOld {c : CellId} {l : Level} {subs : List Subscription} (T : s.transit h c lev)
    (hn : (subs.map (·.stream)).Nodup) (hlev : ∀ e ∈ subs, e.state = .active → lev e.stream = some l) (tag : Tag) :
    (s.leaveOld c l tag subs).transit h c fun x =>
      if ∃ e ∈ subs, e.stream = x ∧ e.state = .active then none else lev x := by
  unfold State.leaveOld
  induction subs generalizing s lev with
  | nil => simpa using T
  | cons e subs ih =>
    rw [List.map_cons, List.nodup_cons] at hn
    obtain ⟨hout, hn⟩ := hn
    have hne : ∀ d ∈ subs, d.stream ≠ e.stream := fun d hd heq => hout (heq ▸ List.mem_map_of_mem hd)
    rw [List.foldl_cons]
    by_cases ha : e.state = .active
    · rw [if_pos ha]
      have := ih (T.leave l tag (hlev e List.mem_cons_self ha)) hn fun d hd hda => by
        rw [Function.update_of_ne (hne d hd)]
        exact hlev d (List.mem_cons_of_mem e hd) hda
      convert this using 2 with x
      by_cases hx : x = e.stream
      · subst hx
        simp [ha]
      · simp [Function.update_of_ne hx, Ne.symm hx]
    · rw [if_neg ha]
      have := ih T hn fun d hd hda => hlev d (List.mem_cons_of_mem e hd) hda
      convert this using 2 with x
      simp [ha]

/-- The level moves of a list's ACTIVE entries (R33). -/
theorem State.transit.moveEntries {c : CellId} {old new : Level} {subs : List Subscription} (T : s.transit h c lev)
    (hn : (subs.map (·.stream)).Nodup) (hlev : ∀ e ∈ subs, e.state = .active → lev e.stream = some old) (tag : Tag) :
    (s.moveEntries c old new tag subs).transit h c fun x =>
      if ∃ e ∈ subs, e.stream = x ∧ e.state = .active then some new else lev x := by
  unfold State.moveEntries
  induction subs generalizing s lev with
  | nil => simpa using T
  | cons e subs ih =>
    rw [List.map_cons, List.nodup_cons] at hn
    obtain ⟨hout, hn⟩ := hn
    have hne : ∀ d ∈ subs, d.stream ≠ e.stream := fun d hd heq => hout (heq ▸ List.mem_map_of_mem hd)
    rw [List.foldl_cons]
    by_cases ha : e.state = .active
    · rw [if_pos ha]
      have := ih (T.moveLevel new tag (hlev e List.mem_cons_self ha)) hn fun d hd hda => by
        rw [Function.update_of_ne (hne d hd)]
        exact hlev d (List.mem_cons_of_mem e hd) hda
      convert this using 2 with x
      by_cases hx : x = e.stream
      · subst hx
        simp [ha]
      · simp [Function.update_of_ne hx, Ne.symm hx]
    · rw [if_neg ha]
      have := ih T hn fun d hd hda => hlev d (List.mem_cons_of_mem e hd) hda
      convert this using 2 with x
      simp [ha]

/-- The ACTIVE entries of a list that holds no stream twice are those that its station counts by. -/
theorem exists_active_iff (hn : (st.subs.map (·.stream)).Nodup) (x : StreamId) :
    (∃ e ∈ st.subs, e.stream = x ∧ e.state = .active) ↔ st.lev x = some st.level := by
  constructor
  · rintro ⟨e, he, rfl, ha⟩
    rw [Station.lev_of_find (findSub_of_mem hn he), if_pos ha]
  · intro hlev
    cases hf : findSub st.subs x with
    | none => rw [Station.lev_of_none hf] at hlev; cases hlev
    | some e =>
      rw [Station.lev_of_find hf] at hlev
      obtain ⟨hx, he⟩ := findSub_stream hf
      split at hlev
      · next ha => exact ⟨e, he, hx, ha⟩
      · cases hlev

/-- A station counts at its level or not at all. -/
theorem Station.lev_cases (st : Station) (x : StreamId) : st.lev x = some st.level ∨ st.lev x = none := by
  unfold Station.lev
  cases findSub st.subs x with
  | none => exact .inr rfl
  | some e =>
    rw [Option.bind_some]
    split
    · exact .inl rfl
    · exact .inr rfl

/-- An entry that leaves its carriage and its list (R89). -/
theorem State.transit.leaveAndRemove (T : s.transit h st.serving st.lev) (hst : s.station? h = some st)
    (hf : findSub st.subs x = some e) (tag : Tag) :
    (s.leaveAndRemove h x tag).transit h st.serving (st.without x).lev := by
  have left : (if e.state = .active then s.leave st.serving x st.level tag else s).transit h st.serving
      (st.without x).lev := by
    have gone : (st.without x).lev = Function.update st.lev x none := funext fun y => by
      by_cases hy : y = x
      · subst hy
        rw [Function.update_self]
        exact Station.lev_of_none (findSub_of_not_mem fun hmem => by
          obtain ⟨d, hd, hdy⟩ := List.mem_map.1 hmem
          simpa [hdy] using (List.mem_filter.1 hd).2)
      · rw [Function.update_of_ne hy, Station.lev, Station.without, findSub_filter_of_ne hy]
        rfl
    rw [gone]
    have own := Station.lev_of_find hf
    split
    · next ha => exact T.leave st.level tag (by rw [own, if_pos ha])
    · next ha =>
      rw [if_neg ha] at own
      conv => arg 3; rw [← own]
      rwa [Function.update_eq_self]
  rw [leaveAndRemove_eq hst hf]
  exact (left.setStation _).setHeld x _

end

end Sys2Proof.Machine
end

section
namespace Sys2Proof.Machine

open Sys2Proof

/-! ## The held figures of the streams (R91) -/

/-- The streams on a station's list. -/
def Station.streams (st : Station) : List StreamId := st.subs.map (·.stream)

/-- A stream taken off a list leaves the others. -/
theorem mem_streams_without {a : Station} {x y : StreamId} : y ∈ (a.without x).streams ↔ y ≠ x ∧ y ∈ a.streams := by
  simp only [Station.streams, Station.without, List.mem_map, List.mem_filter, decide_eq_true_eq]
  constructor
  · rintro ⟨e, ⟨he, hne⟩, rfl⟩
    exact ⟨hne, e, he, rfl⟩
  · rintro ⟨hne, e, he, rfl⟩
    exact ⟨e, ⟨he, hne⟩, rfl⟩

/-- The Station Table is in form, and every held figure is the number of lists that hold its stream. -/
structure State.heldOk (s : State) : Prop where
  wf : tableWf s.stations = true
  held : ∀ x, (s.stream x).held = s.stations.countP fun e => decide (x ∈ e.2.streams)

section
variable {s t : State} {h : Handle} {a b : Station} {x : StreamId}

/-- Lists of the same streams, with the held figures as they were. -/
theorem State.heldOk.congr (H : s.heldOk) (hw : tableWf t.stations = true)
    (hst : tableMap Station.streams t.stations = tableMap Station.streams s.stations)
    (hh : ∀ x, (t.stream x).held = (s.stream x).held) : t.heldOk := by
  refine ⟨hw, fun x => ?_⟩
  have := congrArg (List.countP fun e : Nat × List StreamId => decide (x ∈ e.2)) hst
  rw [countP_map Station.streams t.stations fun v => decide (x ∈ v),
    countP_map Station.streams s.stations fun v => decide (x ∈ v)] at this
  rw [hh, H.held, this]

/-- A change beside the stations and the held figures. -/
theorem State.heldOk.beside (H : s.heldOk) (hst : t.stations = s.stations)
    (hh : ∀ x, (t.stream x).held = (s.stream x).held) : t.heldOk := H.congr (hst ▸ H.wf) (by rw [hst]) hh

theorem State.heldOk.frame {hs : Handle → Prop} {cs : CellId → StreamId → Prop} (H : s.heldOk)
    (f : SubscriptionFrame hs cs s t) (hw : tableWf t.stations = true) : t.heldOk := by
  refine H.congr hw (tableMap_ext hw H.wf fun g => ?_) fun x => (f.streams x).2
  change (t.station? g).map Station.streams = (s.station? g).map Station.streams
  cases ha : s.station? g with
  | none => rw [f.free g ha]
  | some a =>
    obtain ⟨b, hb, hab⟩ := f.own g a ha
    rw [hb, Option.map_some, Option.map_some, Station.streams, hab.streams, Station.streams]

/-- A station written to with the streams of its list as they were. -/
theorem State.heldOk.rewrite (H : s.heldOk) (ha : s.station? h = some a) (hb : b.streams = a.streams) :
    (s.setStation h b).heldOk :=
  H.congr (tableWf_store H.wf h b) (tableMap_store H.wf ha hb) fun _ => rfl

/-- A record written, with the held figures that go with it. -/
theorem State.heldOk.store (H : s.heldOk) (hst : t.stations = tableStore s.stations h b)
    (hh : ∀ x, (t.stream x).held + tally (fun v => decide (x ∈ v.streams)) (s.station? h) =
      (s.stream x).held + bit (decide (x ∈ b.streams))) : t.heldOk := by
  refine ⟨hst ▸ tableWf_store H.wf h b, fun x => ?_⟩
  have stored := countP_store H.wf h b fun v => decide (x ∈ v.streams)
  rw [← hst] at stored
  have change := hh x
  rw [H.held] at change
  exact Nat.add_right_cancel (change.trans stored.symm)

theorem State.heldOk.removeSub (H : s.heldOk) (h : Handle) (hx : ∀ a, s.station? h = some a → x ∈ a.streams) :
    (s.removeSub h x).heldOk := by
  cases ha : s.station? h with
  | none => simpa only [State.removeSub, ha] using H
  | some a =>
    have hin := hx a ha
    have counted := tally_le_countP H.wf h fun v => decide (x ∈ v.streams)
    rw [show tableFind s.stations h = some a from ha, ← H.held, tally_some] at counted
    rw [removeSub_eq ha]
    refine H.store (h := h) (b := a.without x) rfl fun y => ?_
    have removed := stream_removeSub ha x y
    rw [removeSub_eq ha] at removed
    rw [removed, ha, tally_some]
    by_cases hy : y = x
    · subst hy
      simp only [hin, decide_true, bit, if_true, mem_streams_without, ne_eq, not_true_eq_false, false_and, decide_false,
        Bool.false_eq_true, if_false] at counted ⊢
      omega
    · rw [if_neg hy]
      simp only [mem_streams_without, ne_eq, hy, not_false_eq_true, true_and]

theorem State.heldOk.leaveAndRemove (H : s.heldOk) (h : Handle) (x : StreamId) (tag : Tag) :
    (s.leaveAndRemove h x tag).heldOk := by
  unfold State.leaveAndRemove
  split
  · exact H
  · next a ha =>
    split
    · exact H
    · next e hf =>
      obtain ⟨rfl, he⟩ := findSub_stream hf
      dsimp only
      have frame : SubscriptionFrame (fun _ => False) (fun _ _ => True) s
          (if e.state = .active then s.leave a.serving e.stream a.level tag else s) := by
        split
        · exact leave_frame s trivial _ tag
        · exact .refl s
      have hw : tableWf (if e.state = .active then s.leave a.serving e.stream a.level tag else s).stations = true := by
        split
        · exact (StationsFrame.leave s _ _ _ tag).wf H.wf
        · exact H.wf
      refine (H.frame frame hw).removeSub h fun b hb => ?_
      rw [frame.stations h id, ha] at hb
      cases hb
      exact List.mem_map_of_mem he

end

/-! ## The accounts of the carriages -/

/-- The Carriage Table and the streams account for the stations' subscriptions. -/
structure State.accounts (s : State) : Prop where
  booked : s.booked
  balances : s.balancesOk
  ledger : s.ledger
  held : s.heldOk

/-- The lists are in order and the carriages account for them. -/
structure State.settledUp (s : State) : Prop where
  lists : s.listsAgree False none
  accounts : s.accounts

/-- The station `h` stands as `b` amid a change, where the carriages count it by `lev` in its serving cell. -/
structure State.underway (h : Handle) (b : Station) (lev : StreamId → Option Level) (s : State) : Prop where
  live : s.station? h = some b
  list : s.listOk b
  held : s.heldOk
  transit : s.transit h b.serving lev

section
variable {s t : State} {h : Handle} {a b : Station} {lev : StreamId → Option Level}

theorem State.settledUp.start (S : s.settledUp) (hst : s.station? h = some b) : s.underway h b b.lev := by
  have list := S.lists.lists h b hst
  exact ⟨hst, list, S.accounts.held, transit_of_ledger S.accounts.held.wf hst list.2.1
    (fun e he ha => (S.lists.actives h b hst (by simp) e he ha).1) S.accounts.booked S.accounts.balances S.accounts.ledger⟩

theorem State.underway.finish (U : s.underway h b b.lev) (H : s.listsAgree False none) : s.settledUp :=
  ⟨H, U.transit.booked, U.transit.balances, U.transit.toLedger U.held.wf U.live U.list.2.1
    fun e he ha => (H.actives h b U.live (by simp) e he ha).1, U.held⟩

/-- A change beside the stations, the carriages, the lists and the streams. -/
theorem State.underway.beside (U : s.underway h b lev) (hst : t.stations = s.stations) (hca : t.carriages = s.carriages)
    (hlist : ∀ d, (t.rosterEntry d).carriages = (s.rosterEntry d).carriages) (hs : t.streams = s.streams) :
    t.underway h b lev := by
  have hstream : ∀ x, t.stream x = s.stream x := fun x => by rw [State.stream, hs, State.stream]
  exact ⟨by rw [State.station?, hst]; exact U.live,
    U.list.of_streams rfl fun x => terms_of_state (by rw [hstream]),
    U.held.beside hst fun x => by rw [hstream], U.transit.beside (by rw [hst]) hca hlist hs⟩

theorem State.underway.notify (U : s.underway h b lev) (dest : PortUnit → Bool) (n : Notice) (tag : Tag) :
    (s.notify dest n tag).underway h b lev := U.beside rfl rfl (fun _ => rfl) rfl

/-- The station rewritten at the same cell with the same list. -/
theorem State.underway.rewrite (U : s.underway h a lev) (hsubs : b.subs = a.subs) (hserving : b.serving = a.serving) :
    (s.setStation h b).underway h b lev := by
  refine ⟨station?_setStation_self s h b, ?_, U.held.rewrite U.live (by rw [Station.streams, hsubs, Station.streams]), ?_⟩
  · exact U.list.of_streams (by rw [hsubs]) fun _ => rfl
  · rw [hserving]
    exact U.transit.setStation b

/-- A station that counts nowhere rewritten at any cell with the same list. -/
theorem State.underway.relocate (U : s.underway h a fun _ => none) (hsubs : b.subs = a.subs) :
    (s.setStation h b).underway h b fun _ => none :=
  ⟨station?_setStation_self s h b, U.list.of_streams (by rw [hsubs]) fun _ => rfl,
    U.held.rewrite U.live (by rw [Station.streams, hsubs, Station.streams]), (U.transit.setStation b).elsewhere _⟩

theorem State.underway.evaluateWith (U : s.underway h b lev) (tag : Tag) (joined : Bool) (fresh : Option StreamId)
    (hlev : ∀ x, lev x = if joined then b.lev x else none) :
    ∃ c, (s.evaluateWith h tag joined fresh).underway h c c.lev := by
  obtain ⟨c, hc, T⟩ := U.transit.evaluateWith U.live U.list tag joined fresh hlev
  have frame : SubscriptionFrame (· = h) (fun _ _ => True) s (s.evaluateWith h tag joined fresh) :=
    evaluateWith_frame (hs := (· = h)) s rfl tag joined fresh fun _ _ _ _ _ => trivial
  obtain ⟨d, hd, hbd⟩ := frame.own h b U.live
  cases hc.symm.trans hd
  exact ⟨c, hc, U.list.of_streams hbd.streams frame.terms,
    U.held.frame frame ((StationsFrame.evaluateWith s h tag joined fresh).wf U.held.wf), T⟩

theorem State.underway.evaluate (U : s.underway h b b.lev) (tag : Tag) : ∃ c, (s.evaluate h tag).underway h c c.lev :=
  U.evaluateWith tag true none fun _ => rfl

/-- A LINGERING station counts nowhere. -/
theorem State.settledUp.lev_of_lingering (S : s.settledUp) (hst : s.station? h = some a) (hs : isLingering a.state = true)
    {c : Station} (hc : c.subs = a.subs) : c.lev = fun _ => none := by
  funext x
  cases hf : findSub c.subs x with
  | none => exact Station.lev_of_none hf
  | some e =>
    rw [Station.lev_of_find hf, if_neg]
    intro ha
    have he := hc ▸ (findSub_stream hf).2
    rw [(S.lists.actives h a hst (by simp) e he ha).1] at hs
    cases hs

/-! ### Changes of one station -/

theorem State.settledUp.beside (S : s.settledUp) (b : Beside s t) : t.settledUp := by
  have hstream : ∀ x, t.stream x = s.stream x := fun x => by rw [State.stream, b.streams, State.stream]
  have charged : Charged s t := .beside b.stations b.streams b.roster b.carriages
  obtain ⟨booked, members⟩ := charged.booked S.accounts.booked
  exact ⟨S.lists.beside b, booked, charged.balances S.accounts.balances, fun c x l => by
    rw [members, S.accounts.ledger, State.received, State.received, b.stations],
    S.accounts.held.beside b.stations fun x => by rw [hstream]⟩

/-- Tickets are no part of the accounts. -/
theorem State.settledUp.tickets (S : s.settledUp) (H : t.listsAgree False none) (hst : t.stations = s.stations)
    (hca : t.carriages = s.carriages) (hro : t.roster = s.roster) (hs : t.streams = s.streams) : t.settledUp := by
  have hstream : ∀ x, t.stream x = s.stream x := fun x => by rw [State.stream, hs, State.stream]
  have charged : Charged s t := .beside hst hs hro hca
  obtain ⟨booked, members⟩ := charged.booked S.accounts.booked
  exact ⟨H, booked, charged.balances S.accounts.balances, fun c x l => by
    rw [members, S.accounts.ledger, State.received, State.received, hst],
    S.accounts.held.beside hst fun x => by rw [hstream]⟩

theorem State.settledUp.evaluate (S : s.settledUp) (h : Handle) (tag : Tag) : (s.evaluate h tag).settledUp := by
  cases hst : s.station? h with
  | none => simpa only [State.evaluate, State.evaluateWith, hst] using S
  | some b =>
    obtain ⟨c, U⟩ := (S.start hst).evaluate tag
    exact U.finish ((S.lists.reopen h).evaluate tag)

theorem State.settledUp.leaveAndRemove (S : s.settledUp) (h : Handle) (x : StreamId) (tag : Tag) :
    (s.leaveAndRemove h x tag).settledUp := by
  cases hst : s.station? h with
  | none => simpa only [State.leaveAndRemove, hst] using S
  | some b =>
    cases hf : findSub b.subs x with
    | none => simpa only [State.leaveAndRemove, hst, hf] using S
    | some e =>
      have H := S.lists.leaveAndRemove h x tag
      have live : (s.leaveAndRemove h x tag).station? h = some (b.without x) := by
        rw [leaveAndRemove_eq hst hf]
        exact station?_setStation_self _ h _
      exact State.underway.finish ⟨live, H.lists h _ live, S.accounts.held.leaveAndRemove h x tag,
        (S.start hst).transit.leaveAndRemove hst hf tag⟩ H

/-- A station given another bound ticket. -/
theorem State.settledUp.setBound (S : s.settledUp) (hst : s.station? h = some b) (n : Option TicketHandle) :
    (s.setStation h { b with ticket := n }).settledUp :=
  ((S.start hst).rewrite (b := { b with ticket := n }) rfl rfl).finish (S.lists.keepEntries hst rfl rfl rfl False.elim)

/-- A ticket written to. -/
theorem State.settledUp.setTicket (S : s.settledUp) (n : TicketHandle) (k : Ticket) : (s.setTicket n k).settledUp :=
  S.tickets (S.lists.of_fewer none fun _ c hc => ⟨c, hc, .refl _, fun _ _ => rfl, fun hne => ⟨hne, rfl, rfl, False.elim⟩⟩)
    rfl rfl rfl rfl

theorem State.settledUp.clearBinding (S : s.settledUp) (h : Handle) (n : TicketHandle) (cause : UnbindCause) (tag : Tag) :
    (s.clearBinding h n cause tag).settledUp := by
  have ticket : ∀ u : State, u.settledUp → (match u.ticket? n with
      | none => u
      | some k => u.setTicket n { k with station := none }).settledUp := fun u hu => by
    split
    · exact hu
    · exact hu.setTicket n _
  unfold State.clearBinding
  refine State.settledUp.beside (ticket _ ?_) (.notify _ _ _ _)
  split
  · exact S
  · next hst => exact S.setBound hst none

theorem State.settledUp.makeBinding (S : s.settledUp) (h : Handle) (n : TicketHandle) (tag : Tag) :
    (s.makeBinding h n tag).settledUp := by
  have ticket : ∀ u : State, u.settledUp → (match u.ticket? n with
      | none => u
      | some k => u.setTicket n { k with station := some h }).settledUp := fun u hu => by
    split
    · exact hu
    · exact hu.setTicket n _
  unfold State.makeBinding
  refine State.settledUp.evaluate (ticket _ ?_) h tag
  split
  · exact S
  · next hst => exact S.setBound hst (some n)

theorem State.settledUp.evaluateBound (S : s.settledUp) (k : Ticket) (tag : Tag) : (s.evaluateBound k tag).settledUp := by
  unfold State.evaluateBound
  split
  · exact S
  · exact S.evaluate _ tag

theorem State.settledUp.removeTicketed (S : s.settledUp) (h : Handle) (tag : Tag) (gone : List Subscription) :
    (s.removeTicketed h tag gone).settledUp := by
  unfold State.removeTicketed
  induction gone generalizing s with
  | nil => exact S
  | cons e gone ih => exact ih ((S.leaveAndRemove h e.stream tag).beside (.notify _ _ _ _))

theorem State.settledUp.voidRecord (S : s.settledUp) (n : TicketHandle) (k : Ticket) (tag : Tag) :
    (s.voidRecord n k tag).settledUp := by
  have marked : (s.markVoid n k).settledUp := by
    rw [markVoid_eq, vacate_rest]
    exact (S.setTicket n { k with entry := .voided }).beside ⟨rfl, rfl, rfl, rfl, rfl⟩
  unfold State.voidRecord
  dsimp only
  split
  · exact marked
  · next g _ => exact ((marked.clearBinding g n .voiding tag).removeTicketed g tag _).evaluate g tag

end

end Sys2Proof.Machine
end

section
namespace Sys2Proof.Machine

open Sys2Proof

/-! ### Changes of the stations that keep the accounts -/

/-- A station at another level counts there for the same streams. -/
theorem Station.lev_atLevel (st : Station) (l : Level) (x : StreamId) :
    Station.lev { st with level := l } x = (st.lev x).map fun _ => l := by
  unfold Station.lev
  cases findSub st.subs x with
  | none => rfl
  | some e =>
    rw [Option.bind_some, Option.bind_some]
    split <;> rfl

/-- A SUSPENDED entry at the end of a list counts nowhere. -/
theorem Station.lev_append (st : Station) (x : StreamId) (r : Reason) :
    Station.lev { st with subs := st.subs ++ [⟨x, .suspended r⟩] } = st.lev := by
  funext y
  unfold Station.lev findSub
  rw [List.find?_append]
  cases List.find? (fun e => decide (e.stream = y)) st.subs with
  | some e => rfl
  | none => by_cases hy : x = y <;> simp [hy]

theorem streamsWf_removeSub {s : State} (hw : tableWfDefault {} s.streams = true) (h : Handle) (x : StreamId) :
    tableWfDefault {} (s.removeSub h x).streams = true := by
  unfold State.removeSub
  split
  · exact hw
  · exact tableWfDefault_write hw _ _

theorem streamsWf_removeAllSubs {s : State} (hw : tableWfDefault {} s.streams = true) (h : Handle) (tag : Tag)
    (subs : List Subscription) : tableWfDefault {} (s.removeAllSubs h tag subs).streams = true := by
  unfold State.removeAllSubs
  induction subs generalizing s with
  | nil => exact hw
  | cons e subs ih => exact ih (streamsWf_removeSub hw h e.stream)

theorem streamsWf_emptyRecord {s : State} (hw : tableWfDefault {} s.streams = true) (h : Handle) (st : Station) (tag : Tag) :
    tableWfDefault {} (s.emptyRecord h st tag).streams = true := by
  have emptied := streamsWf_removeAllSubs hw h tag st.subs
  unfold State.emptyRecord
  split
  · exact emptied
  · next n _ =>
    obtain ⟨_, _, _, hc⟩ := clearBinding_rest (s.removeAllSubs h tag st.subs) h n .expiry tag
    rw [hc]
    exact emptied

/-- A cell's counts are no part of its carriage list. -/
theorem listOf_addCount (s : State) (c d : CellId) :
    ((s.addCount c).rosterEntry d).carriages = (s.rosterEntry d).carriages := by rw [rosterEntry_addCount]

theorem listOf_subPending (s : State) (c d : CellId) :
    ((s.subPending c).rosterEntry d).carriages = (s.rosterEntry d).carriages := by rw [rosterEntry_subPending]

theorem listOf_addPending (s : State) (c d : CellId) :
    ((s.addPending c).rosterEntry d).carriages = (s.rosterEntry d).carriages := by rw [rosterEntry_addPending]

section
variable {s t : State} {h : Handle} {a b st : Station} {lev : StreamId → Option Level} {x : StreamId} {c : CellId}
  {deadline : FrameNo} {tag : Tag}

/-- A station written whose carriages are then rewritten. -/
theorem underway_of_frame (hst : s.station? h = some b) (hl : s.listOk b) (hh : s.heldOk)
    {cs : CellId → StreamId → Prop} (f : SubscriptionFrame (fun _ => False) cs s t) (hw : tableWf t.stations = true)
    (T : t.transit h b.serving lev) : t.underway h b lev :=
  ⟨(f.stations h id).trans hst, hl.of_streams rfl f.terms, hh.frame f hw, T⟩

theorem State.settledUp.revive (S : s.settledUp) (hst : s.station? h = some a) (hs : isLingering a.state = true)
    (l : Level) (H : (s.reviveStation h a c l tag).listsAgree False none) : (s.reviveStation h a c l tag).settledUp := by
  have U := S.start hst
  rw [S.lev_of_lingering hst hs rfl] at U
  have placed := (U.relocate (b := { a with state := .associated, serving := c, level := l }) rfl).beside
    (t := (s.setStation h { a with state := .associated, serving := c, level := l }).addCount c) rfl rfl
    (listOf_addCount _ c) rfl
  rw [← S.lev_of_lingering hst hs (c := { a with state := .associated, serving := c, level := l }) rfl] at placed
  obtain ⟨_, V⟩ := placed.evaluate tag
  exact V.finish H

theorem State.settledUp.linger (S : s.settledUp) (hst : s.station? h = some a)
    (H : (s.enterLinger h a tag).listsAgree False none) : (s.enterLinger h a tag).settledUp := by
  have written := (S.start hst).rewrite
    (b := { a with state := .lingering (s.clock.frame + BitVec.ofNat 32 s.venue.lingerTime) tag }) rfl rfl
  have left := written.beside (t := State.subCount (s.setStation h _) a.serving) rfl rfl
    (fun d => by rw [rosterEntry_subCount]) rfl
  obtain ⟨_, V⟩ := left.evaluate tag
  exact V.finish H

/-- A completed handover leaves the carriages of the old cell, and the evaluation joins those of the new one (R43). -/
theorem State.settledUp.handOver (S : s.settledUp) (hst : s.station? h = some st)
    (hs : st.state = .inHandover c deadline tag) (by_ : Completion)
    (H : (s.completeHandover h by_).listsAgree False none) : (s.completeHandover h by_).settledUp := by
  have U := S.start hst
  have T : (s.moveStation h st c).transit h st.serving st.lev := (U.transit.setStation _).beside rfl rfl
    (fun d => by simp only [State.moveStation, rosterEntry_subPending, rosterEntry_addCount, rosterEntry_subCount]) rfl
  have left := T.leaveOld (l := st.level) U.list.2.1
    (fun e he ha => (exists_active_iff U.list.2.1 e.stream).1 ⟨e, he, rfl, ha⟩) tag
  have nowhere : (fun x => if ∃ e ∈ st.subs, e.stream = x ∧ e.state = .active then none else st.lev x) =
      fun _ => (none : Option Level) := funext fun x => by
    rw [if_congr (exists_active_iff U.list.2.1 x) rfl rfl]
    rcases st.lev_cases x with hx | hx <;> simp [hx]
  rw [nowhere] at left
  have held : (s.moveStation h st c).heldOk := (U.held.rewrite hst (b := { st with
    serving := c, state := .associated, sequence := st.sequence + 1 }) rfl).beside rfl fun _ => rfl
  have frame : SubscriptionFrame (fun _ => False) (fun _ _ => True) (s.moveStation h st c)
      ((s.moveStation h st c).leaveOld st.serving st.level tag st.subs) := leaveOld_frame _ _ tag fun _ _ => trivial
  have moved := underway_of_frame (s := s.moveStation h st c) (station?_setStation_self s h { st with
      serving := c, state := .associated, sequence := st.sequence + 1 }) (U.list.of_streams rfl fun _ => rfl) held frame
    ((StationsFrame.leaveOld _ _ _ tag st.subs).wf held.wf) (left.elsewhere c)
  rw [completeHandover_eq hst hs] at H ⊢
  obtain ⟨_, V⟩ := moved.evaluateWith tag false none fun _ => rfl
  exact (V.notify _ _ _).finish H

theorem State.settledUp.abandonClaim (S : s.settledUp) (hst : s.station? h = some st)
    (hs : st.state = .inHandover c deadline tag) (lapsed : Bool)
    (H : (s.abandonClaim h lapsed).listsAgree False none) : (s.abandonClaim h lapsed).settledUp := by
  rw [abandonClaim_eq hst hs] at H ⊢
  have written := (S.start hst).rewrite (b := { st with state := .associated }) rfl rfl
  have left := written.beside (t := State.subPending (s.setStation h _) c) rfl rfl (listOf_subPending _ c) rfl
  exact (left.notify _ _ _).finish H

theorem State.settledUp.acceptClaim (S : s.settledUp) (hst : s.station? h = some st)
    (H : (s.acceptClaim h st c tag).listsAgree False none) : (s.acceptClaim h st c tag).settledUp := by
  have written := (S.start hst).rewrite
    (b := { st with state := .inHandover c (s.clock.frame + BitVec.ofNat 32 s.venue.handoverWindow) tag }) rfl rfl
  exact (written.beside (t := s.acceptClaim h st c tag) rfl rfl
    (listOf_addPending (s.setStation h _) c) rfl).finish H

/-- A level replaced moves the station's members in its carriages' histograms (R33). -/
theorem State.settledUp.replaceLevel (S : s.settledUp) (hst : s.station? h = some st) (l : Level)
    (H : (s.replaceLevel h st l tag).listsAgree False none) : (s.replaceLevel h st l tag).settledUp := by
  have U := S.start hst
  cases hs : isLingering st.state with
  | true =>
    rw [replaceLevel_of_lingering hs] at H ⊢
    have written := U.rewrite (b := { st with level := l }) rfl rfl
    rw [S.lev_of_lingering hst hs rfl, ← S.lev_of_lingering hst hs (c := { st with level := l }) rfl] at written
    exact written.finish H
  | false =>
    have moved := (U.transit.setStation { st with level := l }).moveEntries (old := st.level) (new := l) U.list.2.1
      (fun e he ha => (exists_active_iff U.list.2.1 e.stream).1 ⟨e, he, rfl, ha⟩) tag
    have counted : (fun x => if ∃ e ∈ st.subs, e.stream = x ∧ e.state = .active then some l else st.lev x) =
        Station.lev { st with level := l } := funext fun x => by
      rw [if_congr (exists_active_iff U.list.2.1 x) rfl rfl, Station.lev_atLevel st l x]
      rcases st.lev_cases x with hx | hx <;> simp [hx]
    rw [counted, ← replaceLevel_of_served hs] at moved
    exact (underway_of_frame (station?_setStation_self s h { st with level := l }) (U.list.of_streams rfl fun _ => rfl)
      (U.held.rewrite hst (b := { st with level := l }) rfl) (replaceLevel_frame s h st l tag)
      ((RecordChange.releveled hst l tag).wf U.held.wf) moved).finish H

/-- A record created holds no stream. -/
theorem State.settledUp.createStation (S : s.settledUp) (hnone : s.station? h = none) (rest : HandleStack) (addr : BitVec 48)
    (l : Level) (H : (s.createStation h rest addr c l).listsAgree False none) :
    (s.createStation h rest addr c l).settledUp := by
  have hlist : ∀ d, ((s.createStation h rest addr c l).rosterEntry d).carriages = (s.rosterEntry d).carriages :=
    listOf_addCount _ c
  obtain ⟨booked, members⟩ := S.accounts.booked.of_membership (t := s.createStation h rest addr c l) rfl hlist
    S.accounts.booked.wf (fun _ => ⟨rfl, rfl⟩) fun _ hy => ⟨hy, rfl⟩
  refine ⟨H, booked, S.accounts.balances, fun d y i => ?_, S.accounts.held.store (h := h) rfl fun y => ?_⟩
  · have stored := countP_store S.accounts.held.wf h ⟨addr, .associated, c, 0, l, none, []⟩ fun v : Station =>
      receives d y v && decide (v.level = i)
    rw [show tableFind s.stations h = none from hnone] at stored
    have blank : receives d y ⟨addr, .associated, c, 0, l, none, []⟩ = false := Bool.and_false _
    rw [members, S.accounts.ledger]
    rw [tally_none, blank] at stored
    exact stored.symm
  · rw [hnone]
    rfl

/-- A LINGERING record freed counted nowhere; the streams of its list are held by one station less (R30, R91). -/
theorem State.settledUp.freeLingering (S : s.settledUp) (hst : s.station? h = some st)
    (hs : st.state = .lingering deadline tag) (H : (s.expireLinger h).listsAgree False none) :
    (s.expireLinger h).settledUp := by
  have U := S.start hst
  rw [S.lev_of_lingering hst (by rw [hs]; rfl) rfl] at U
  rw [expireLinger_eq hst hs] at H ⊢
  obtain ⟨sa, ti, sr, po, hr⟩ := emptyRecord_rest (s := s) (h := h) (st := st) (tag := tag)
  have hstream := stream_emptyRecord (tag := tag) hst U.list.2.1
  have erased : tableErase (s.emptyRecord h st tag).stations h = tableErase s.stations h :=
    table_ext (tableWf_erase ((StationsFrame.emptyRecord s h st tag).wf U.held.wf) h) (tableWf_erase U.held.wf h) fun g => by
      by_cases hg : g = h
      · rw [hg, tableFind_erase_self, tableFind_erase_self]
      · rw [tableFind_erase_of_ne _ hg, tableFind_erase_of_ne _ hg]
        exact station?_emptyRecord_of_ne hg
  have T : (((s.emptyRecord h st tag).freeStation h st.address).notify (fun u => ownsCell u st.serving)
      (.lingerExpired h st.serving) tag).transit h st.serving fun _ => none := by
    refine U.transit.congr ?_ (by rw [hr]; rfl) (fun d => by rw [hr]; rfl)
      (streamsWf_emptyRecord U.transit.booked.wf h st tag) (fun y => ?_) fun y => ?_
    · exact (tableErase_erase _ h).trans erased
    · refine (congrArg Stream.state (hstream y)).trans ?_
      split <;> rfl
    · refine Prod.mk.inj ((congrArg (fun v : Stream => (v.subscribers, v.carriages)) (hstream y)).trans ?_)
      split <;> rfl
  refine ⟨H, T.booked, T.balances, fun d y i => ?_, ?_, fun y => ?_⟩
  · have counted := T.ledger d y i
    simp only [reduceCtorEq, decide_false, Bool.and_false] at counted
    rw [counted, State.others]
    exact congrArg (List.countP _) (tableErase_erase _ h)
  · exact tableWf_erase ((StationsFrame.emptyRecord s h st tag).wf U.held.wf) h
  · have left := countP_erase U.held.wf h fun v => decide (y ∈ v.streams)
    rw [← erased, ← U.held.held, show tableFind s.stations h = some st from hst, tally_some] at left
    refine (congrArg Stream.held (hstream y)).trans (Eq.trans ?_ (Nat.eq_sub_of_add_eq left).symm)
    by_cases hy : y ∈ st.subs.map (·.stream)
    · rw [if_pos hy, show decide (y ∈ st.streams) = true from decide_eq_true hy]
      rfl
    · rw [if_neg hy, show decide (y ∈ st.streams) = false from decide_eq_false hy]
      rfl

end

end Sys2Proof.Machine
end

section
namespace Sys2Proof.Machine

open Sys2Proof

/-! ### Changes of the streams that keep the accounts -/

section
variable {s : State} {h : Handle} {st : Station} {x : StreamId} {v : Stream} {tag : Tag}

theorem not_mem_of_findSub {subs : List Subscription} (hf : findSub subs x = none) : x ∉ subs.map (·.stream) := by
  rw [← decide_eq_false_iff_not, ← findSub_isSome, hf]
  rfl

theorem stream_appendSub (s : State) (h : Handle) (st : Station) (x y : StreamId) : (s.appendSub h st x).stream y =
    if y = x then { s.stream x with held := (s.stream x).held + 1 } else s.stream y := by
  split
  · next hy =>
    rw [hy]
    exact stream_setStream_self _ x _
  · next hy => exact stream_setStream_of_ne _ _ hy

/-- A list that takes a stream holds it, and counts it when its evaluation finds it entitled (R88, R91). -/
theorem State.settledUp.subscribe (S : s.settledUp) (hst : s.station? h = some st) (hnew : findSub st.subs x = none)
    (hroom : st.subs.length < 2) (hlive : (s.stream x).state ≠ .idle)
    (H : ((s.appendSub h st x).evaluateWith h tag true (some x)).listsAgree False none) :
    ((s.appendSub h st x).evaluateWith h tag true (some x)).settledUp := by
  have U := S.start hst
  have counted := Station.lev_append st x .lingering
  have hout : x ∉ st.streams := not_mem_of_findSub hnew
  have grown : Station.streams { st with subs := st.subs ++ [⟨x, .suspended .lingering⟩] } = st.streams ++ [x] :=
    List.map_append
  have state : ∀ y, ((s.appendSub h st x).stream y).state = (s.stream y).state := fun y => by
    rw [stream_appendSub]
    split
    · next hy => rw [hy]
    · rfl
  have held : ∀ y, ((s.appendSub h st x).stream y).held + tally (fun v => decide (y ∈ v.streams)) (s.station? h) =
      (s.stream y).held + bit (decide (y ∈ Station.streams { st with subs := st.subs ++ [⟨x, .suspended .lingering⟩] })) :=
    fun y => by
    rw [hst, tally_some, grown, stream_appendSub]
    by_cases hy : y = x
    · subst hy
      simp [hout, bit]
    · simp [hy]
  have appended : (s.appendSub h st x).underway h { st with subs := st.subs ++ [⟨x, .suspended .lingering⟩] } st.lev :=
    ⟨station?_setStation_self s h _,
      (U.list.append hnew hroom (mt terms_eq_none.1 hlive)).of_streams rfl fun y => terms_of_state (state y),
      U.held.store rfl held, (U.transit.setStation _).setHeld x _⟩
  obtain ⟨_, V⟩ := appended.evaluateWith tag true (some x) fun y => by rw [counted]; rfl
  exact V.finish H

/-- A stream given another state under which the cells' lists stay in order. -/
theorem State.booked.setStream (B : s.booked) (hsub : v.subscribers = (s.stream x).subscribers)
    (hcar : v.carriages = (s.stream x).carriages)
    (hstate : (s.stream x).state ≠ .idle → v.state ≠ .idle ∧ (s.setStream x v).priorityOf x = s.priorityOf x) :
    (s.setStream x v).booked ∧ ∀ c y l, (s.setStream x v).members c y l = s.members c y l := by
  refine B.of_membership rfl (fun _ => rfl) (tableWfDefault_write B.wf _ _) (fun y => ?_) fun y hy => ?_
  · by_cases hyx : y = x
    · rw [hyx, stream_setStream_self]
      exact ⟨hsub, hcar⟩
    · rw [stream_setStream_of_ne s v hyx]
      exact ⟨rfl, rfl⟩
  · by_cases hyx : y = x
    · subst hyx
      rw [stream_setStream_self]
      exact hstate hy
    · simp only [State.priorityOf, stream_setStream_of_ne s v hyx]
      exact ⟨hy, trivial⟩

theorem State.heldOk.setStream (H : s.heldOk) (hheld : v.held = (s.stream x).held) : (s.setStream x v).heldOk :=
  H.beside rfl fun y => by
    by_cases hy : y = x
    · rw [hy, stream_setStream_self, hheld]
    · rw [stream_setStream_of_ne s v hy]

theorem streamInfo?_eq_none {w : StreamState} : streamInfo? w = none ↔ w = .idle := by
  cases w <;> simp [streamInfo?]

/-- A stream opened has no carriage, and one closed keeps its operands (R78, R81). -/
theorem State.settledUp.restate (S : s.settledUp) (hv : ∃ w, v = { s.stream x with state := w })
    (hinfo : (s.stream x).state = .idle ∨ streamInfo? v.state = streamInfo? (s.stream x).state)
    (H : (s.setStream x v).listsAgree False none) : (s.setStream x v).settledUp := by
  obtain ⟨w, rfl⟩ := hv
  have live : (s.stream x).state ≠ .idle → streamInfo? w = streamInfo? (s.stream x).state := fun hne =>
    hinfo.resolve_left hne
  obtain ⟨booked, members⟩ := S.accounts.booked.setStream (v := { s.stream x with state := w }) rfl rfl fun hne =>
    ⟨fun hw => hne (streamInfo?_eq_none.1 ((live hne).symm.trans (streamInfo?_eq_none.2 hw))),
      by simp only [State.priorityOf, stream_setStream_self, live hne]⟩
  refine ⟨H, booked, fun c y k hk => ?_, fun c y l => (members c y l).trans (S.accounts.ledger c y l),
    S.accounts.held.setStream rfl⟩
  have hbal := S.accounts.balances c y k hk
  have hne := (S.accounts.booked.sound c y k hk).2
  have demand : (s.setStream x { s.stream x with state := w }).demand y = s.demand y := by
    by_cases hy : y = x
    · subst hy
      simp only [State.demand, stream_setStream_self, live hne]
    · simp only [State.demand, stream_setStream_of_ne s _ hy]
  rwa [demand]

end

/-! ### A rate change -/

/-- A balance in range at one demand is brought into range at another (R80). -/
theorem Carriage.balanceOk.raised {k : Carriage} {d : Nat} (h : k.balanceOk d) (d' : Nat) :
    (raiseBalance k d').balanceOk d' := by
  have := payload_pos k.minLevel
  unfold Carriage.balanceOk at h ⊢
  rw [raiseBalance_eq]
  by_cases hm : k.mode = .multicast
  · simp only [if_pos hm] at h ⊢
    omega
  · simpa only [if_neg hm] using h

theorem membership_raiseBalance (k : Carriage) (d : Nat) : (raiseBalance k d).membership = k.membership := by
  unfold raiseBalance
  split <;> rfl

theorem membership_evaluatedCarriage (threshold cap others d : Nat) (k : Carriage) :
    (evaluatedCarriage threshold cap others d k).membership = k.membership := by
  obtain ⟨hcount, hhist, hmin, _⟩ := evaluatedCarriage_members threshold cap others d k
  rw [Carriage.membership, hcount, hhist, hmin, Carriage.membership]

section
variable {x : StreamId} {tag : Tag}

/-- An adjustment keeps the form of the table and the members of its carriages. -/
theorem adjustCarriage_membership {r : RateChange} (hw : tableWf r.state.carriages = true) (c : CellId) :
    tableWf (adjustCarriage x tag r c).state.carriages = true ∧
      tableMap Carriage.membership (adjustCarriage x tag r c).state.carriages =
        tableMap Carriage.membership r.state.carriages := by
  cases hk : r.state.carriage? c x with
  | none =>
    rw [adjustCarriage_of_none hk]
    exact ⟨hw, rfl⟩
  | some k =>
    have raised : tableWf (r.state.setCarriage c x (raiseBalance k (r.state.demand x))).carriages = true :=
      tableWf_store hw _ _
    have stands := carriage?_setCarriage_self r.state c x (raiseBalance k (r.state.demand x))
    obtain ⟨po, he⟩ := evalMode_store raised stands tag
    rw [adjustCarriage_of_some hk, he]
    refine ⟨tableWf_store raised _ _, (tableMap_store raised stands (membership_evaluatedCarriage _ _ _ _ _)).trans ?_⟩
    exact tableMap_store hw hk (membership_raiseBalance k _)

theorem adjustAll_membership (cells : List CellId) {r : RateChange} (hw : tableWf r.state.carriages = true) :
    tableMap Carriage.membership (cells.foldl (adjustCarriage x tag) r).state.carriages =
      tableMap Carriage.membership r.state.carriages := by
  induction cells generalizing r with
  | nil => rfl
  | cons c cells ih =>
    obtain ⟨hw', hm⟩ := adjustCarriage_membership (x := x) (tag := tag) hw c
    exact (ih hw').trans hm

/-- The carriages after a rate change: those of the stream adjusted, the others as they were. -/
theorem carriage?_adjustCarriages {u : State} (hw : tableWf u.carriages = true) (c : CellId) (y : StreamId) :
    (u.adjustCarriages x tag).state.carriage? c y =
      if y = x then (u.carriage? c x).map (u.adjusted c x) else u.carriage? c y := by
  have hn : (u.cellsWith x).Nodup := (cellsWith_sorted hw x).imp ne_of_lt
  unfold State.adjustCarriages
  by_cases hy : y = x
  · subst hy
    rw [if_pos rfl]
    by_cases hc : c ∈ u.cellsWith y
    · exact carriage?_adjustAll hn hc _
    · have hnone : u.carriage? c y = none := by simpa using (mem_cellsWith u y c).not.1 hc
      rw [carriage?_adjustAll_of_not (fun h => hc h.1), hnone, Option.map_none]
  · rw [if_neg hy]
    exact carriage?_adjustAll_of_not (fun h => hy h.2) _

/-- An adjustment accounts for the balances that are in range at the demand, or, of its own stream, at some other (R80). -/
theorem State.booked.adjust {u : State} (B : u.booked) (hh : u.heldOk) (L : u.ledger)
    (hbal : ∀ c y k, u.carriage? c y = some k → ∃ d, k.balanceOk d ∧ (y ≠ x → d = u.demand y)) :
    (u.adjustCarriages x tag).state.accounts := by
  obtain ⟨ca, po, hr⟩ := adjustAll_rest (x := x) (tag := tag) (u.cellsWith x) ⟨u, 0, 0⟩
  have hrest : (u.adjustCarriages x tag).state = { u with carriages := ca, ports := po } := hr
  have hstream : ∀ y, (u.adjustCarriages x tag).state.stream y = u.stream y := fun y => by rw [hrest]; rfl
  obtain ⟨booked, members⟩ := B.of_membership (t := (u.adjustCarriages x tag).state)
    (adjustAll_membership (u.cellsWith x) B.lists.1) (fun d => by rw [hrest]; rfl) (by rw [hrest]; exact B.wf)
    (fun y => by rw [hstream]; exact ⟨rfl, rfl⟩) fun y hy => by simpa only [State.priorityOf, hstream, and_true] using hy
  refine ⟨booked, fun c y k hk => ?_, fun c y l => ?_, hh.beside (by rw [hrest]) fun y => by rw [hstream]⟩
  · change k.balanceOk _
    rw [demand_congr (congrArg Stream.state (hstream y))]
    rw [carriage?_adjustCarriages B.lists.1] at hk
    split at hk
    · next hy =>
      subst hy
      obtain ⟨k₀, hk₀, rfl⟩ := Option.map_eq_some_iff.1 hk
      obtain ⟨d, hd, _⟩ := hbal c y k₀ hk₀
      exact (hd.raised _).evaluated _ _ _ _
    · next hy =>
      obtain ⟨d, hd, hdemand⟩ := hbal c y k hk
      exact hdemand hy ▸ hd
  · rw [members, L, State.received, State.received, hrest]

/-- A new rate changes no member, and brings the balances into range at the new demand (R79, R80). -/
theorem State.settledUp.rate {s : State} (S : s.settledUp) {info : StreamInfo} (hs : (s.stream x).state = .live info)
    (rate : Nat) (H : ((s.setStream x { s.stream x with state := .live { info with rate := rate } }).adjustCarriages x
      tag).state.listsAgree False none) :
    ((s.setStream x { s.stream x with state := .live { info with rate := rate } }).adjustCarriages x
      tag).state.settledUp := by
  obtain ⟨booked, members⟩ := S.accounts.booked.setStream
    (v := { s.stream x with state := .live { info with rate := rate } }) rfl rfl fun _ =>
      ⟨by simp, by simp only [State.priorityOf, stream_setStream_self, hs, streamInfo?]⟩
  refine ⟨H, booked.adjust (S.accounts.held.setStream rfl)
    (fun c y l => (members c y l).trans (S.accounts.ledger c y l)) fun c y k hk =>
      ⟨s.demand y, S.accounts.balances c y k hk, fun hy => ?_⟩⟩
  exact (demand_congr (congrArg Stream.state (stream_setStream_of_ne s _ hy))).symm

end

end Sys2Proof.Machine
end

section
namespace Sys2Proof.Machine

open Sys2Proof

/-! ### A drain that keeps the accounts -/

section
variable {α : Type}

theorem tableErase_sublist (t : Table α) (k : Nat) : (tableErase t k).Sublist t := by
  induction t with
  | nil => exact .slnil
  | cons e t ih =>
    rw [tableErase]
    split
    · exact ih.cons e
    · exact ih.cons_cons e

theorem tableSum_eq_zero {w : Nat → α → Nat} {t : Table α} (h : ∀ e ∈ t, w e.1 e.2 = 0) : tableSum w t = 0 :=
  List.sum_eq_zero fun n hn => by
    obtain ⟨e, he, rfl⟩ := List.mem_map.1 hn
    exact h e he

end

section
variable {s : State} {x : StreamId}

/-- The carriages of one stream dropped leave the sums that it adds nothing to. -/
theorem dropCarriages_table (hw : tableWf s.carriages = true) (cs : List CellId) :
    tableWf (s.dropCarriages x cs).carriages = true ∧ (s.dropCarriages x cs).carriages.Sublist s.carriages ∧
      ∀ w : Nat → Carriage → Nat, (∀ c k, w (carriageKey c x) k = 0) →
        tableSum w (s.dropCarriages x cs).carriages = tableSum w s.carriages := by
  unfold State.dropCarriages
  induction cs generalizing s with
  | nil => exact ⟨hw, .refl _, fun _ _ => rfl⟩
  | cons c cs ih =>
    have dropped : (s.dropCarriage c x).carriages = tableErase s.carriages (carriageKey c x) := rfl
    obtain ⟨hw', hsub, hsum⟩ := ih (s := s.dropCarriage c x) (dropped ▸ tableWf_erase hw _)
    refine ⟨hw', hsub.trans (dropped ▸ tableErase_sublist _ _), fun w hzero => (hsum w hzero).trans ?_⟩
    have erased := tableSum_erase w hw (carriageKey c x)
    cases hk : tableFind s.carriages (carriageKey c x) with
    | none =>
      rw [hk, Option.elim_none] at erased
      exact erased
    | some k =>
      rw [hk, Option.elim_some, hzero] at erased
      exact erased

theorem receives_without (c : CellId) (x y : StreamId) (st : Station) :
    receives c y (st.without x) = (decide (y ≠ x) && receives c y st) := by
  rw [receives, receives, show servedBy c (st.without x) = servedBy c st from rfl, Bool.eq_iff_iff]
  simp only [Station.without, Bool.and_eq_true, List.any_eq_true, List.mem_filter, decide_eq_true_eq]
  constructor
  · rintro ⟨hserved, e, ⟨he, hne⟩, hey, ha⟩
    exact ⟨hey ▸ hne, hserved, e, he, hey, ha⟩
  · rintro ⟨hne, hserved, e, he, hey, ha⟩
    exact ⟨hserved, e, ⟨he, hey ▸ hne⟩, hey, ha⟩

/-- The stations after a drain are those before it, without the stream's entries (R83). -/
theorem stations_drained (hw : tableWf s.stations = true) (hw' : tableWf (s.drained x).stations = true) :
    (s.drained x).stations = tableMap (Station.without x) s.stations :=
  table_ext hw' (by rwa [tableWf_map]) fun h => by
    rw [tableFind_map]
    exact station?_drained hw h

theorem streamsWf_drained (hw : tableWfDefault {} s.streams = true) : tableWfDefault {} (s.drained x).streams = true := by
  have removed : ∀ (hs : List Handle) (u : State), tableWfDefault {} u.streams = true →
      tableWfDefault {} (u.removeHeld x hs).streams = true := by
    intro hs
    induction hs with
    | nil => exact fun u hu => hu
    | cons h hs ih => exact fun u hu => ih _ (streamsWf_removeSub hu h x)
  obtain ⟨ro, ca, hd⟩ := dropCarriages_rest (s.removeHeld x (s.holders x)) x (s.cellsWith x)
  refine tableWfDefault_write (t := State.streams _) ?_ _ _
  rw [hd]
  exact removed _ s hw

/-- The Carriage Table after a drain, in form and in its sums. -/
theorem carriages_drained (hw : tableWf s.carriages = true) :
    tableWf (s.drained x).carriages = true ∧ (s.drained x).carriages.Sublist s.carriages ∧
      ∀ w : Nat → Carriage → Nat, (∀ c k, w (carriageKey c x) k = 0) →
        tableSum w (s.drained x).carriages = tableSum w s.carriages := by
  obtain ⟨sa, sr, hr⟩ := removeHeld_rest s x (s.holders x)
  have kept : (s.removeHeld x (s.holders x)).carriages = s.carriages := by rw [hr]
  have dropped := dropCarriages_table (x := x) (kept ▸ hw) (s.cellsWith x)
  rwa [kept] at dropped

/-- No carriage of a drained stream is left. -/
theorem key_drained (hw : tableWf s.carriages = true) (hkeys : ∀ e ∈ s.carriages, e.1 < 16384) {e : Nat × Carriage}
    (he : e ∈ (s.drained x).carriages) : e.1 % 16 ≠ x.val := by
  intro hx
  obtain ⟨hw', hsub, _⟩ := carriages_drained (x := x) hw
  have hlt := hkeys e (hsub.subset he)
  have hkey : carriageKey ⟨e.1 / 16, by omega⟩ x = e.1 := by
    rw [carriageKey]
    dsimp only
    omega
  have hfind := find_of_mem hw' he
  rw [← hkey] at hfind
  have gone := carriage?_drained (s := s) (x := x) ⟨e.1 / 16, by omega⟩ x
  rw [if_pos rfl] at gone
  exact absurd (hfind.symm.trans gone) (by simp)

/-- The Carriage Table, the lists and the totals agree after a drain (R83). -/
theorem State.booked.drained (B : s.booked) (hw : tableWf s.stations = true) : (s.drained x).booked := by
  obtain ⟨⟨htable, hkeys, hlen, hlists⟩, hsound, hwf, hsubs, hcars⟩ := B
  obtain ⟨hw', hsub, hsum⟩ := carriages_drained (x := x) htable
  have other : ∀ y, y ≠ x → (s.drained x).stream y = s.stream y := fun y hy => by rw [stream_drained hw, if_neg hy]
  have own : (s.drained x).stream x = ⟨.idle, 0, 0, (s.stream x).held - (s.holders x).length⟩ := by
    rw [stream_drained hw, if_pos rfl]
  have roster := rosterEntry_drained (s := s) (x := x) fun c => (hlists c).1
  refine ⟨⟨hw', fun e he => hkeys e (hsub.subset he), hsub.length_le.trans hlen, fun c => ⟨fun y => ?_, ?_⟩⟩,
    fun c y k hk => ?_, streamsWf_drained hwf, fun y => ?_, fun y => ?_⟩
  · rw [roster, carriage?_drained, RosterEntry.without, List.mem_filter, (hlists c).1]
    by_cases hy : y = x <;> simp [hy]
  · rw [roster]
    refine ((hlists c).2.filter _).imp_of_mem fun {y z} hy hz hyz => ?_
    have hyx : y ≠ x := by simpa using (List.mem_filter.1 hy).2
    have hzx : z ≠ x := by simpa using (List.mem_filter.1 hz).2
    have hpy : (s.drained x).priorityOf y = s.priorityOf y := by simp only [State.priorityOf, other y hyx]
    have hpz : (s.drained x).priorityOf z = s.priorityOf z := by simp only [State.priorityOf, other z hzx]
    rwa [State.grantsBefore, hpy, hpz]
  · rw [carriage?_drained] at hk
    split at hk
    · cases hk
    · next hy =>
      rw [other y hy]
      exact hsound c y k hk
  · by_cases hy : y = x
    · subst hy
      rw [own, sumCounts_eq]
      exact (tableSum_eq_zero fun e he => if_neg (key_drained htable hkeys he)).symm
    · rw [other y hy, hsubs, sumCounts_eq, sumCounts_eq]
      exact (hsum _ fun c k => if_neg fun hkey => hy ((carriageKey_mod c x y).1 hkey)).symm
  · by_cases hy : y = x
    · subst hy
      rw [own]
      exact (List.countP_eq_zero.2 fun e he => by simpa using key_drained htable hkeys he).symm
    · rw [other y hy, hcars, carriageCount_eq, carriageCount_eq]
      refine (hsum _ fun c k => ?_).symm
      rw [decide_eq_false fun hkey => hy ((carriageKey_mod c x y).1 hkey)]
      rfl

/-- A drain takes the stream off every list and out of every carriage together (R83). -/
theorem State.settledUp.drain (S : s.settledUp) {info : StreamInfo} {tag : Tag} {f : FrameNo}
    (hs : (s.stream x).state = .draining info tag f) (H : (s.completeDrain x).listsAgree False none) :
    (s.completeDrain x).settledUp := by
  have hw := S.accounts.held.wf
  have hw' : tableWf (s.completeDrain x).stations = true := (StationsFrame.completeDrain s x).wf hw
  rw [completeDrain_of_draining hs, drainStream_eq] at H hw' ⊢
  have stations := stations_drained (x := x) hw hw'
  have booked := S.accounts.booked.drained (x := x) hw
  have charged : Charged (s.drained x) ((s.drained x).notify isReplayPort
      (.streamEnded (s.holders x).length (s.cellsWith x).length x) tag) := .beside rfl rfl rfl rfl
  have balances : (s.drained x).balancesOk := fun c y k hk => by
    rw [carriage?_drained] at hk
    split at hk
    · cases hk
    · next hy =>
      rw [demand_congr (s := s) (by rw [stream_drained hw, if_neg hy])]
      exact S.accounts.balances c y k hk
  refine ⟨H, (charged.booked booked).1, charged.balances balances, fun c y l => ?_, hw', fun y => ?_⟩
  · rw [(charged.booked booked).2, State.received]
    change _ = (s.drained x).stations.countP _
    have counted := countP_map (Station.without x) s.stations fun v => receives c y v && decide (v.level = l)
    rw [stations, counted, State.members, carriage?_drained]
    by_cases hy : y = x
    · simp [receives_without, hy]
    · rw [if_neg hy]
      simp only [receives_without, ne_eq, hy, not_false_eq_true, decide_true, Bool.true_and]
      exact S.accounts.ledger c y l
  · change ((s.drained x).stream y).held = (s.drained x).stations.countP _
    have counted := countP_map (Station.without x) s.stations fun v => decide (y ∈ v.streams)
    rw [stations, counted, stream_drained hw]
    by_cases hy : y = x
    · subst hy
      have none_left : s.stations.countP (fun e => decide (y ∈ (e.2.without y).streams)) = 0 :=
        List.countP_eq_zero.2 fun e _ => by simp [mem_streams_without]
      rw [if_pos rfl, none_left, S.accounts.held.held, length_holders]
      exact Nat.sub_self _
    · simp [mem_streams_without, hy, S.accounts.held.held]

end

end Sys2Proof.Machine
end

section
namespace Sys2Proof.Machine

open Sys2Proof

/-! ### The invariant as the accounts say it -/

section
variable {s : State}

/-- The members of all levels together are the stations that receive the stream. -/
theorem receivers_eq_sum (s : State) (c : CellId) (x : StreamId) :
    s.stations.countP (fun e => receives c x e.2) = ∑ l : Level, s.received c x l :=
  countP_eq_sum_levels s.stations (fun e => receives c x e.2) fun e => e.2.level

/-- Sound carriages that count their receivers level by level are all that is asked of the counts. -/
theorem carriageCountsOk_iff : s.carriageCountsOk ↔
    (∀ c x k, s.carriage? c x = some k → k.sound ∧ (s.stream x).state ≠ .idle) ∧ s.ledger := by
  constructor
  · intro hcounts
    refine ⟨fun c x k hk => ?_, fun c x l => ?_⟩
    · have counts := hcounts c x
      simp only [hk] at counts
      obtain ⟨hcount, hmember, hlen, hhist, hmin, hlive⟩ := counts
      refine ⟨⟨?_, hmember, hlen, hmin⟩, hlive⟩
      rw [hcount, receivers_eq_sum]
      exact Finset.sum_congr rfl fun l _ => (hhist l).symm
    · have counts := hcounts c x
      cases hk : s.carriage? c x with
      | none =>
        simp only [hk] at counts
        rw [receivers_eq_sum, Finset.sum_eq_zero_iff] at counts
        rw [members_of_none hk, counts l (Finset.mem_univ l)]
      | some k =>
        simp only [hk] at counts
        obtain ⟨_, _, _, hhist, _⟩ := counts
        rw [members_of_some hk]
        exact hhist l
  · rintro ⟨hsound, hledger⟩ c x
    cases hk : s.carriage? c x with
    | none =>
      refine (receivers_eq_sum s c x).trans (Finset.sum_eq_zero fun l _ => ?_)
      rw [← hledger, members_of_none hk]
    | some k =>
      obtain ⟨hk', hlive⟩ := hsound c x k hk
      have hhist : ∀ l : Level, k.hist.getD l.val 0 = s.received c x l := fun l => by rw [← hledger, members_of_some hk]
      refine ⟨?_, hk'.member, hk'.length, hhist, hk'.minLevel, hlive⟩
      rw [receivers_eq_sum, hk'.count]
      exact Finset.sum_congr rfl fun l _ => hhist l

theorem held_iff (x : StreamId) : (s.stream x).held = s.stations.countP (fun e => (findSub e.2.subs x).isSome) ↔
    (s.stream x).held = s.stations.countP fun e => decide (x ∈ e.2.streams) := by
  simp only [findSub_isSome]
  exact .rfl

theorem listsAgree_iff : s.listsAgree False none ↔ s.listsOk ∧
    ∀ h st e, s.station? h = some st → e ∈ st.subs → e.state = .active → isLingering st.state = false := by
  constructor
  · rintro ⟨lists, actives⟩
    refine ⟨fun h st hst => ?_, fun h st e hst he ha => (actives h st hst (by simp) e he ha).1⟩
    obtain ⟨hlen, hn, hlive⟩ := lists h st hst
    exact ⟨hlen, hn, fun e he hx => hlive e he (terms_eq_none.2 hx)⟩
  · rintro ⟨lists, actives⟩
    refine ⟨fun h st hst => ?_, fun h st hst _ e he ha => ⟨actives h st e hst he ha, False.elim⟩⟩
    obtain ⟨hlen, hn, hlive⟩ := lists h st hst
    exact ⟨hlen, hn, fun e he hx => hlive e he (terms_eq_none.1 hx)⟩

theorem carriagesOk_iff : s.carriagesOk ↔ s.stationsOk ∧ s.settledUp := by
  unfold State.carriagesOk State.streamTotalsOk
  rw [carriageCountsOk_iff]
  constructor
  · rintro ⟨hstations, hlists, hactives, hcarriages, ⟨hsound, hledger⟩, hbalances, hwf, htotals⟩
    have held : s.heldOk := ⟨((stationsOk_iff s).1 hstations).2.1.1, fun x => (held_iff x).1 (htotals x).2.2⟩
    have booked : s.booked := ⟨hcarriages, hsound, hwf, fun x => (htotals x).1, fun x => (htotals x).2.1⟩
    exact ⟨hstations, listsAgree_iff.2 ⟨hlists, hactives⟩, booked, hbalances, hledger, held⟩
  · rintro ⟨hstations, hlists, booked, hbalances, hledger, held⟩
    obtain ⟨hok, hactives⟩ := listsAgree_iff.1 hlists
    exact ⟨hstations, hok, hactives, booked.lists, ⟨booked.sound, hledger⟩, hbalances, booked.wf, fun x =>
      ⟨booked.subscribers x, booked.carriages x, (held_iff x).2 (held.held x)⟩⟩

/-! ### Every change of the records -/

/-- With nothing in the tables there is nothing to account for. -/
theorem settledUp_of_cleared (hst : s.stations = []) (hstreams : s.streams = []) (hcarriages : s.carriages = [])
    (hroster : s.roster = []) : s.settledUp := by
  have nocarriage : ∀ c x, s.carriage? c x = none := fun c x => by
    rw [State.carriage?, hcarriages]
    rfl
  have blank : ∀ x, s.stream x = {} := fun x => by
    rw [State.stream, hstreams]
    rfl
  have nolist : ∀ c, (s.rosterEntry c).carriages = [] := fun c => by
    rw [State.rosterEntry, hroster]
    rfl
  refine ⟨listsAgree_of_noStations hst, ⟨⟨by rw [hcarriages]; rfl, by simp [hcarriages], by simp [hcarriages],
    fun c => by simp [nolist, nocarriage]⟩, fun c x k hk => ?_, by rw [hstreams]; rfl, fun x => ?_, fun x => ?_⟩,
    fun c x k hk => ?_, fun c x l => ?_, by rw [hst]; rfl, fun x => ?_⟩
  · rw [nocarriage] at hk
    cases hk
  · rw [blank, State.sumCounts, hcarriages]
    rfl
  · rw [blank, hcarriages]
    rfl
  · rw [nocarriage] at hk
    cases hk
  · rw [members_of_none (nocarriage c x), State.received, hst]
    rfl
  · rw [blank, hst]
    rfl

/-- Every change of the records keeps the accounts. -/
theorem RecordChange.settledUp {t : State} (c : RecordChange s t) (S : s.settledUp) : t.settledUp := by
  have H := c.listsAgree S.accounts.held.wf False.elim S.lists
  cases c with
  | beside b => exact S.beside b
  | cleared hst hstreams hcarriages hroster => exact settledUp_of_cleared hst hstreams hcarriages hroster
  | created hnone rest a c l => exact S.createStation hnone rest a l H
  | revived hst hs c l tag => exact S.revive hst hs l H
  | lingers hst hs tag => exact S.linger hst H
  | handedOver hst hs by_ => exact S.handOver hst hs by_ H
  | abandoned hst hs lapsed => exact S.abandonClaim hst hs lapsed H
  | claimed hst hs c tag => exact S.acceptClaim hst H
  | releveled hst l tag => exact S.replaceLevel hst l H
  | expired hst hs => exact S.freeLingering hst hs H
  | loaded ts =>
    have hr := loadAll_rest s ts
    exact S.tickets H (by rw [hr]) (by rw [hr]) (by rw [hr]) (by rw [hr])
  | @admitted n k hk g tag =>
    have written := S.setTicket n (admittedTicket k g s.clock.frame)
    refine State.settledUp.evaluateBound ?_ k tag
    exact written.beside ⟨rfl, rfl, rfl, rfl, rfl⟩
  | @exited n k hk tag =>
    have written := S.setTicket n { k with entry := .exited }
    refine State.settledUp.evaluateBound ?_ k tag
    exact written.beside ⟨rfl, rfl, rfl, rfl, rfl⟩
  | voided hk tag => exact S.voidRecord _ _ tag
  | rebound g tag => exact S.evaluate g tag
  | bound hst hk hunbound tag => exact S.makeBinding _ _ tag
  | moved hst hk hearlier hne tag => exact ((S.clearBinding _ _ .move tag).evaluate _ tag).makeBinding _ _ tag
  | unbound hk hg tag => exact (S.clearBinding _ _ .unbind tag).evaluate _ tag
  | opened hs info => exact S.restate ⟨_, rfl⟩ (.inl hs) H
  | rated hs rate tag => exact S.rate hs rate H
  | closed hs tag f => exact S.restate ⟨_, rfl⟩ (.inr (by rw [hs]; rfl)) H
  | drained hs => exact S.drain hs H
  | subscribed hst hnew hroom hs tag => exact S.subscribe hst hnew hroom (by rw [hs]; simp) H
  | unsubscribed g x tag => exact S.leaveAndRemove g x tag

/-- Grants and charges keep the accounts. -/
theorem Charged.settledUp {t : State} (f : Charged s t) (htickets : t.tickets = s.tickets) (S : s.settledUp) :
    t.settledUp := by
  obtain ⟨booked, members⟩ := f.booked S.accounts.booked
  have hstream : ∀ x, t.stream x = s.stream x := fun x => by rw [State.stream, f.streams, State.stream]
  exact ⟨S.lists.congr f.stations htickets fun x => terms_of_state (by rw [hstream]), booked,
    f.balances S.accounts.balances, fun c x l => by
      rw [members, S.accounts.ledger, State.received, State.received, f.stations],
    S.accounts.held.beside f.stations fun x => by rw [hstream]⟩

/-- Every row keeps the accounts. -/
theorem Effect.keepsAccounts {i : Instr} {t : State} (he : Effect s i t) (hr : s.recordsAgree) (S : s.settledUp) :
    t.settledUp := by
  have tickets : ∀ {cells : CellId → Prop} {u v : State}, EngineFrame cells u v → v.tickets = u.tickets := by
    intro cells u v f
    obtain ⟨ca, pl, se, pa, st, po, rfl⟩ := f.rest
    rfl
  exact he.keeps (I := State.settledUp) hr (fun b S => S.beside b)
    (fun u => settledUp_of_cleared rfl rfl rfl rfl)
    (fun u g x S => ⟨(change_expireClaim u g).settledUp S, (change_expireLinger u g).settledUp S,
      (change_completeDrain u x).settledUp S⟩)
    (fun u S => ⟨(Charged.planBoundary u S.accounts.booked.chargeable).settledUp (tickets (.planBoundary u)) S,
      (Charged.finishBuild u S.accounts.booked.chargeable).settledUp (tickets (.finishBuild u)) S⟩)
    (fun u c S => c.settledUp S) S

end

end Sys2Proof.Machine

open Sys2Proof Sys2Proof.Machine

/-- Settles O57, by the kinds of change that a row can make to the records: each moves a station's members between the carriages
together with its entries, and the Plan Engine moves balances alone. -/
theorem stepKeepsCarriagesOk : Obligations.StepKeepsCarriagesOk := by
  intro s t hs ht
  obtain ⟨hstations, settled⟩ := carriagesOk_iff.1 hs
  refine carriagesOk_iff.2 ⟨stepKeepsStationsOk s t hstations ht, ?_⟩
  obtain ⟨_, hrecords⟩ := (stationsOk_iff s).1 hstations
  unfold step at ht
  split at ht
  · cases ht
    exact settled
  · next c rest _ =>
    have places : StationsFrame s { s with pending := rest } := .beside rfl rfl rfl rfl rfl
    exact (effect_of_exec ht).keepsAccounts (places.recordsAgree hrecords) (settled.beside ⟨rfl, rfl, rfl, rfl, rfl⟩)
end

section
namespace Sys2Proof.Machine

open Sys2Proof

/-! ## BIND and UNBIND (R93 to R96) -/

/-! ### Evaluations -/

section
variable {hs : Handle → Prop} {cs : CellId → StreamId → Prop} {s t : State} {h g : Handle}

/-- An evaluation of a known record: its reach, and what it decides (R100, R110). -/
theorem evaluate_spec {st : Station} (hst : s.station? h = some st) (tag : Tag) :
    SubscriptionFrame (· = h) (carriagesOf st) s (s.evaluate h tag) ∧
      ((st.subs.map (·.stream)).Nodup → (s.evaluate h tag).evaluatedAt h) := by
  refine ⟨evaluate_frame (hs := (· = h)) s rfl tag fun a ha c x hx => ?_, fun hn => evaluate_decides s h tag fun a ha => ?_⟩
  · cases hst.symm.trans ha
    exact hx
  · cases hst.symm.trans ha
    exact hn

/-- A frame holds between two states with the same record written in both. -/
theorem SubscriptionFrame.setStation (f : SubscriptionFrame hs cs s t) (h : Handle) (st : Station) :
    SubscriptionFrame hs cs (s.setStation h st) (t.setStation h st) :=
  { f with
    stations := fun g hg => by
      by_cases hgh : g = h
      · rw [hgh, station?_setStation_self, station?_setStation_self]
      · rw [station?_setStation_of_ne t st hgh, station?_setStation_of_ne s st hgh, f.stations g hg]
    own := fun g a ha => by
      by_cases hgh : g = h
      · rw [hgh] at ha ⊢
        rw [station?_setStation_self] at ha
        exact ⟨st, station?_setStation_self t h st, Option.some.inj ha ▸ .refl st⟩
      · rw [station?_setStation_of_ne s st hgh] at ha
        rw [station?_setStation_of_ne t st hgh]
        exact f.own g a ha
    free := fun g hg => by
      by_cases hgh : g = h
      · rw [hgh, station?_setStation_self] at hg
        cases hg
      · rw [station?_setStation_of_ne s st hgh] at hg
        rw [station?_setStation_of_ne t st hgh]
        exact f.free g hg }

/-- A frame holds between two states with the same ticket written in both. -/
theorem SubscriptionFrame.setTicket (f : SubscriptionFrame hs cs s t) (n : TicketHandle) (k : Ticket) :
    SubscriptionFrame hs cs (s.setTicket n k) (t.setTicket n k) :=
  { f with tickets := congrArg (tableStore · n k) f.tickets }

/-- The checks of an entry look at the terms of its stream and at the station's bound ticket. -/
theorem decided_congr {st : Station} {e : Subscription} (hx : t.terms e.stream = s.terms e.stream)
    (hb : t.bond st = s.bond st) : t.decided st e ↔ s.decided st e := by
  rw [State.decided, State.decided, entitled_congr hx hb, seated_congr hx hb rfl]

/-- A station out of a frame's reach stands decided as it stood. -/
theorem SubscriptionFrame.evaluatedAt (f : SubscriptionFrame hs cs s t) (hg : ¬hs g) (H : s.evaluatedAt g) :
    t.evaluatedAt g := fun st e hst he =>
  (f.decided (.refl st) e).2 (H st e ((f.stations g hg).symm.trans hst) he)

/-- The two sides of a binding written: a station that is neither side stands decided as it stood. -/
theorem evaluatedAt_of_bindingSides {n : TicketHandle} (hg : g ≠ h)
    (hfree : ∀ st, s.station? g = some st → st.ticket ≠ some n) (a : Station) (k : Ticket) (H : s.evaluatedAt g) :
    ((s.setStation h a).setTicket n k).evaluatedAt g := by
  intro st e hst he
  have hst : s.station? g = some st := (station?_setStation_of_ne s a hg).symm.trans hst
  have bond : ((s.setStation h a).setTicket n k).bond st = s.bond st :=
    bond_setTicket_of_ne (s.setStation h a) k (hfree st hst)
  refine (decided_congr ?_ bond).2 (H st e hst he)
  rfl

end

/-! ### Bindings -/

/-- The two sides of a binding of station `h` and ticket `t` (R92, R94). -/
def State.bindSides (s : State) (h : Handle) (st : Station) (t : TicketHandle) (k : Ticket) : State :=
  (s.setStation h { st with ticket := some t }).setTicket t { k with station := some h }

/-- The two sides of a binding emptied, with the notice (R92). -/
def State.unbindSides (s : State) (h : Handle) (st : Station) (t : TicketHandle) (k : Ticket) (cause : UnbindCause)
    (tag : Tag) : State :=
  ((s.setStation h { st with ticket := none }).setTicket t { k with station := none }).notify isGatePort
    (.bindingCleared t h cause) tag

section
variable {s : State} {h g : Handle} {st sg : Station} {t : TicketHandle} {k : Ticket} (tag : Tag)

/-- A binding made and evaluated (R94). -/
theorem makeBinding_spec (hst : s.station? h = some st) (hk : s.ticket? t = some k)
    (hn : (st.subs.map (·.stream)).Nodup) :
    s.makeBinding h t tag = (s.bindSides h st t k).evaluate h tag ∧
      SubscriptionFrame (· = h) (carriagesOf st) (s.bindSides h st t k) (s.makeBinding h t tag) ∧
      (s.makeBinding h t tag).evaluatedAt h := by
  have made : s.makeBinding h t tag = (s.bindSides h st t k).evaluate h tag := makeBinding_eq hst hk tag
  obtain ⟨frame, decides⟩ := evaluate_spec (s := s.bindSides h st t k) (station?_setStation_self s h _) tag
  rw [made]
  exact ⟨rfl, frame, decides hn⟩

/-- A binding cleared and evaluated (R95, R96). -/
theorem evaluate_clearBinding_spec (hst : s.station? h = some st) (hk : s.ticket? t = some k) (cause : UnbindCause) :
    let u := s.unbindSides h st t k cause tag
    let v := (s.clearBinding h t cause tag).evaluate h tag
    v = u.evaluate h tag ∧ SubscriptionFrame (· = h) (carriagesOf st) u v ∧
      ((st.subs.map (·.stream)).Nodup → v.evaluatedAt h) := by
  intro u v
  have cleared : v = u.evaluate h tag := congrArg (·.evaluate h tag) (clearBinding_eq hst hk cause tag)
  obtain ⟨frame, decides⟩ := evaluate_spec (s := u) (station?_setStation_self s h _) tag
  rw [cleared]
  exact ⟨rfl, frame, decides⟩

/-- A binding made where the ticket's earlier one has been cleared: the ticket is written once, and the notice may stand last. -/
theorem bindSides_unbindSides : (s.unbindSides g sg t k .move tag).bindSides h st t { k with station := none } =
    ((s.setStation g { sg with ticket := none }).bindSides h st t k).notify isGatePort (.bindingCleared t g .move) tag :=
  congrArg (fun u : State => u.notify isGatePort (.bindingCleared t g .move) tag)
    (setTicket_setTicket ((s.setStation g { sg with ticket := none }).setStation h { st with ticket := some t }) t _ _)

/-- A binding moved: the earlier station is unbound and evaluated, then the new binding is made and evaluated; the earlier
station, unbound, stands as its first evaluation left it (R95). -/
theorem moveBinding_spec (hst : s.station? h = some st) (hsg : s.station? g = some sg) (hk : s.ticket? t = some k)
    (hne : g ≠ h) (hn : (st.subs.map (·.stream)).Nodup) (hng : (sg.subs.map (·.stream)).Nodup) :
    let w := (s.unbindSides g sg t k .move tag).evaluate g tag
    let v := s.moveBinding g h t tag
    v = (w.bindSides h st t k).evaluate h tag ∧
      SubscriptionFrame (fun i => i = h ∨ i = g) (fun c x => carriagesOf st c x ∨ carriagesOf sg c x)
        (((s.setStation g { sg with ticket := none }).bindSides h st t k).notify isGatePort (.bindingCleared t g .move) tag) v ∧
      v.evaluatedAt h ∧ v.evaluatedAt g := by
  intro w v
  obtain ⟨cleared, earlier, decidedEarlier⟩ := evaluate_clearBinding_spec tag hsg hk .move
  have unbound : (s.unbindSides g sg t k .move tag).station? g = some { sg with ticket := none } :=
    station?_setStation_self s g _
  rw [cleared] at earlier decidedEarlier
  have hst' : w.station? h = some st :=
    (earlier.stations h hne.symm).trans ((station?_setStation_of_ne s _ hne.symm).trans hst)
  have hk' : w.ticket? t = some { k with station := none } := by
    rw [State.ticket?, earlier.tickets]
    exact ticket?_setTicket_self (s.setStation g _) t _
  obtain ⟨made, later, decidedLater⟩ := makeBinding_spec tag hst' hk' hn
  have moved : v = w.makeBinding h t tag := congrArg (·.makeBinding h t tag) cleared
  rw [moved]
  have start := (earlier.setStation h { st with ticket := some t }).setTicket t { k with station := some h }
  have free : ∀ b, w.station? g = some b → b.ticket ≠ some t := fun b hb => by
    obtain ⟨a, ha, frame⟩ := earlier.own g _ unbound
    cases ha.symm.trans hb
    rw [frame.ticket]
    simp
  refine ⟨made, ?_, decidedLater,
    later.evaluatedAt hne (evaluatedAt_of_bindingSides hne free _ _ (decidedEarlier hng))⟩
  rw [← bindSides_unbindSides]
  exact (start.mono (fun _ => .inr) fun _ _ => .inr).trans (later.mono (fun _ => .inl) fun _ _ => .inl)

end

/-! ### The replies -/

section
variable {s : State} {cmd : Cmd} {h g : Handle} {st : Station} {t : TicketHandle} {k : Ticket}

theorem bindTicketReply_of_noStation (hnone : ∀ g, (cmd.op 2).toNat = g → g < 65536 → s.station? g = none) :
    bindTicketReply cmd s = refuse .unknownStation [] s := by
  simp only [bindTicketReply, asStation_eq_none hnone]

section
variable (hh : (cmd.op 2).toNat = h) (hlt : h < 65536) (hst : s.station? h = some st)
include hh hlt hst

theorem bindTicketReply_of_unknown (hk : s.ticketByNumber (cmd.number 3) = none) :
    bindTicketReply cmd s = refuse .unknownTicket [] s := by
  simp only [bindTicketReply, asStation_of_lt hh hlt, hst, hk]

theorem bindTicketReply_of_known (hk : s.ticketByNumber (cmd.number 3) = some (t, k)) :
    bindTicketReply cmd s = bindTicketTo cmd h st t k s := by
  simp only [bindTicketReply, asStation_of_lt hh hlt, hst, hk, hh]

end

theorem bindTicketTo_of_outside (hentry : k.entry ≠ .admitted) :
    bindTicketTo cmd h st t k s = refuse .notAdmitted [.bytes 1 (entryStateCode k.entry)] s := if_pos hentry

section
variable (hentry : ¬k.entry ≠ .admitted)
include hentry

theorem bindTicketTo_of_again (hk : k.station = some h) : bindTicketTo cmd h st t k s =
    ⟨.ok, bindItems h t k ((s.evaluate h cmd.tag).activeOf h) none true, s.evaluate h cmd.tag⟩ :=
  (if_neg hentry).trans (if_pos hk)

theorem bindTicketTo_of_bound (hk : k.station ≠ some h) {r : TicketHandle} (ht : st.ticket = some r) :
    bindTicketTo cmd h st t k s = refuse .stationBound [.bytes 3 r] s := by
  simp only [bindTicketTo, if_neg hentry, if_neg hk, ht]

variable (ht : st.ticket = none)
include ht

theorem bindTicketTo_of_unbound (hnone : k.station = none) : bindTicketTo cmd h st t k s =
    ⟨.ok, bindItems h t k ((s.makeBinding h t cmd.tag).activeOf h) none false, s.makeBinding h t cmd.tag⟩ := by
  simp [bindTicketTo, not_not.1 hentry, ht, hnone]

variable (hk : k.station ≠ some h)
include hk

theorem bindTicketTo_of_elsewhere (hg : k.station = some g) (hflag : cmd.flag 5 = false) :
    bindTicketTo cmd h st t k s = refuse .boundElsewhere [.bytes 2 g] s := by
  simp [bindTicketTo, not_not.1 hentry, hg ▸ hk, ht, hg, hflag]

theorem bindTicketTo_of_move (hg : k.station = some g) (hflag : cmd.flag 5 = true) : bindTicketTo cmd h st t k s =
    ⟨.ok, bindItems h t k ((s.moveBinding g h t cmd.tag).activeOf h) (some g) false, s.moveBinding g h t cmd.tag⟩ := by
  simp [bindTicketTo, not_not.1 hentry, hg ▸ hk, ht, hg, hflag]

end

theorem unbindTicketReply_of_unknown (hk : s.ticketByNumber (cmd.number 2) = none) :
    unbindTicketReply cmd s = refuse .unknownTicket [] s := by
  simp only [unbindTicketReply, hk]

section
variable (hk : s.ticketByNumber (cmd.number 2) = some (t, k))
include hk

theorem unbindTicketReply_of_unbound (hnone : k.station = none) :
    unbindTicketReply cmd s = ⟨.ok, [.bytes 2 65535], s⟩ := by
  simp only [unbindTicketReply, hk, hnone]
  rfl

theorem unbindTicketReply_of_bound (hh : k.station = some h) :
    let v := (s.clearBinding h t .unbind cmd.tag).evaluate h cmd.tag
    unbindTicketReply cmd s = ⟨.ok, [.bytes 2 h, .bytes 1 (v.activeOf h)], v⟩ := by
  simp only [unbindTicketReply, hk, hh]

end

end

end Sys2Proof.Machine

open Sys2Proof Sys2Proof.Machine

/-- Settles O40, by the checks of BIND in their order and the cases of UNBIND: a binding is made or cleared on both sides and
then evaluated, and in a move the second evaluation leaves the earlier station as the first one decided it. -/
theorem bindAndUnbindKeepBothSides : Obligations.BindAndUnbindKeepBothSides := by
  refine ⟨?_, ?_⟩
  · intro s p cmd hpass replies
    have replied : ∀ {status items v}, bindTicketReply cmd s = ⟨status, items, v⟩ → replies status items v := fun hr =>
      (exec_rowOf_of_passes hpass 0).trans (by rw [bodyOf, hr])
    refine ⟨fun hnone => replied (bindTicketReply_of_noStation hnone), fun h st hh hlt hst => ?_⟩
    split
    · next hk => exact replied (bindTicketReply_of_unknown hh hlt hst hk)
    · next t k hnumber =>
      have checked := bindTicketReply_of_known hh hlt hst hnumber
      have hk := ticket?_of_number hnumber
      split
      · next hentry => exact replied (checked.trans (bindTicketTo_of_outside hentry))
      · next hentry =>
        intro hlists hbindings bound made
        have hn := (hlists h st hst).2.1
        split
        · next r earlier ht =>
          split
          · next hagain =>
            obtain ⟨frame, decides⟩ := evaluate_spec hst cmd.tag
            exact ⟨s.evaluate h cmd.tag, replied (checked.trans (bindTicketTo_of_again hentry hagain)), rfl, frame,
              decides hn⟩
          · next hother => exact replied (checked.trans (bindTicketTo_of_bound hentry hother ht))
        · next ht hnone =>
          exact ⟨s.makeBinding h t cmd.tag, replied (checked.trans (bindTicketTo_of_unbound hentry ht hnone)),
            makeBinding_spec cmd.tag hst hk hn⟩
        · next g ht hg =>
          have hne : g ≠ h := by
            rintro rfl
            obtain ⟨_, b, hb, hbound⟩ := hbindings.2 t k g hk hg
            cases hst.symm.trans hb
            rw [ht] at hbound
            cases hbound
          have hother : k.station ≠ some h := fun heq => hne (Option.some.inj (hg.symm.trans heq))
          split
          · next hflag => exact replied (checked.trans (bindTicketTo_of_elsewhere hentry ht hother hg hflag))
          · next hflag =>
            intro sg hsg left
            exact ⟨_, s.moveBinding g h t cmd.tag,
              replied (checked.trans (bindTicketTo_of_move hentry ht hother hg (Bool.eq_true_of_not_eq_false hflag))), rfl,
              moveBinding_spec cmd.tag hst hsg hk hne hn (hlists g sg hsg).2.1⟩
  · intro s p cmd hpass
    have replied : ∀ {r}, unbindTicketReply cmd s = r → exec (.unbindTicket p) s = .next (finishCommand p cmd r) := fun hr =>
      (exec_rowOf_of_passes hpass 0).trans (by rw [bodyOf, hr])
    split
    · next hk => exact replied (unbindTicketReply_of_unknown hk)
    · next t k hnumber =>
      refine ⟨fun hnone => replied (unbindTicketReply_of_unbound hnumber hnone), ?_⟩
      intro h st hh hst u
      exact ⟨_, replied (unbindTicketReply_of_bound hnumber hh),
        evaluate_clearBinding_spec cmd.tag hst (ticket?_of_number hnumber) .unbind⟩
end

section
namespace Sys2Proof.Machine

open Sys2Proof

/-! ## Mode evaluation (R114 to R121) -/

/-! ### The admission test -/

/-- Effectively PRIORITY, by the policy or by an open surge (R14, R115, R126). -/
theorem prioritised_iff (s : State) (sec : SectorId) :
    s.prioritised sec = true ↔ (s.sector sec).priority = .priority ∨
      ∃ g, s.surge = some g ∧ Nat.land sec.val g.mask.val = Nat.land g.value.val g.mask.val := by
  rw [State.prioritised, Bool.or_eq_true, decide_eq_true_iff, State.surgeMatches]
  cases s.surge with
  | none => simp
  | some g => simp [scopeMatches]

@[simp] theorem capOf_true (q : Nat) : capOf q true = q := rfl

@[simp] theorem capOf_false (q : Nat) : capOf q false = q - q / 4 := rfl

theorem capOf_le (q : Nat) (b : Bool) : capOf q b ≤ q := by
  cases b with
  | false => exact Nat.sub_le q (q / 4)
  | true => exact le_refl q

/-- The admission cap is that of a frame that is no beacon frame (R115). -/
theorem admissionCap_eq (s : State) (c : CellId) :
    s.admissionCap c = capOf (76 - (s.sector (sectorOf c)).reservation) (s.prioritised (sectorOf c)) := rfl

/-- The cost of a stream's carriage in a cell, where that carriage is MULTICAST (R115). -/
def State.multicastCost (s : State) (c : CellId) (x : StreamId) : Option Nat :=
  match s.carriage? c x with
  | none => none
  | some k => if k.mode = .multicast then some (cost (s.demand x) (payload k.minLevel)) else none

/-- What the admission test adds up: the costs of the cell's MULTICAST carriages (R115). -/
theorem multicastSum_eq (s : State) (c : CellId) :
    s.multicastSum c = ((s.rosterEntry c).carriages.filterMap (s.multicastCost c)).sum := by
  rw [List.sum_eq_foldl, List.foldl_filterMap, State.multicastSum]
  congr 1
  funext n x
  rw [State.multicastCost]
  cases s.carriage? c x with
  | none => rfl
  | some k =>
    dsimp only
    split
    · rfl
    · rfl

/-! ### The outcomes -/

section
variable {s : State} {c : CellId} {x : StreamId} {k : Carriage} (hk : s.carriage? c x = some k) (tag : Tag)
include hk

/-- At M or more the admission test decides (R114 to R116). -/
theorem evalMode_of_tested (hm : k.mode ≠ .multicast) (hM : s.venue.threshold ≤ k.count) :
    let own := cost (s.demand x) (payload k.minLevel)
    let sum := s.multicastSum c + own
    let cap := s.admissionCap c
    let held := s.setCarriage c x { k with mode := .held, balance := 0 }
    (sum ≤ cap → s.evalMode c x tag =
      (s.setCarriage c x { k with mode := .multicast, balance := 0, starved := false }).notify (toReplayAndOwner c)
        (.carriageMode c x k.count k.mode (some .multicast) k.starved (some (sum, cap)) k.minLevel) tag) ∧
    (cap < sum → k.mode = .held → s.evalMode c x tag = held) ∧
    (cap < sum → k.mode = .unicast → s.evalMode c x tag =
      (held.notify (toReplayAndOwner c)
        (.carriageMode c x k.count k.mode (some .held) k.starved (some (sum, cap)) k.minLevel) tag).notify
        (toReplayAndOwner c) (.carriageHeld c x k.count own (s.multicastSum c) cap k.minLevel) tag) := by
  intro own sum cap held
  simp only [State.evalMode, hk, if_pos (And.intro hm hM)]
  refine ⟨fun hfits => if_pos hfits, fun hover hheld => ?_, fun hover hunicast => ?_⟩
  · rw [if_neg hover.not_ge, if_neg (by simp [hheld])]
  · rw [if_neg hover.not_ge, if_pos hunicast, hunicast]

/-- At M − 2 or fewer a carriage returns to UNICAST (R117). -/
theorem evalMode_of_few (hm : k.mode ≠ .unicast) (hM : k.count + 2 ≤ s.venue.threshold) : s.evalMode c x tag =
    (s.setCarriage c x { k with mode := .unicast, balance := 0, starved := false }).notify (toReplayAndOwner c)
      (.carriageMode c x k.count k.mode (some .unicast) k.starved none k.minLevel) tag := by
  have untested : ¬(k.mode ≠ .multicast ∧ s.venue.threshold ≤ k.count) := fun h => by omega
  simp only [State.evalMode, hk, if_neg untested, if_pos (And.intro hm hM)]

/-- Where neither threshold is crossed the mode stands (R114). -/
theorem evalMode_of_neither (hup : k.mode = .multicast ∨ k.count < s.venue.threshold)
    (hdown : k.mode = .unicast ∨ s.venue.threshold ≤ k.count + 1) : s.evalMode c x tag = s := by
  have untested : ¬(k.mode ≠ .multicast ∧ s.venue.threshold ≤ k.count) := fun ⟨hm, hM⟩ =>
    hup.elim hm fun h => by omega
  have notFew : ¬(k.mode ≠ .unicast ∧ k.count + 2 ≤ s.venue.threshold) := fun ⟨hm, hM⟩ =>
    hdown.elim hm fun h => by omega
  simp only [State.evalMode, hk, if_neg untested, if_neg notFew]

end

end Sys2Proof.Machine

open Sys2Proof Sys2Proof.Machine

/-- Settles O46, by the outcomes of an evaluation: the admission test at M or more, the return to UNICAST at M − 2 or fewer, and
the state as it stands between. -/
theorem modeFollowsCountAndAdmission : Obligations.ModeFollowsCountAndAdmission := by
  intro s c x tag k hk q preferred others own t put told
  have hothers : others = s.multicastSum c := (multicastSum_eq s c).symm
  have preferred_iff : s.prioritised (sectorOf c) = true ↔ preferred := prioritised_iff s (sectorOf c)
  refine ⟨evalMode_frame s ⟨rfl, rfl⟩ tag, fun hm hM cap hcap => ?_, evalMode_of_few hk tag, ?_, ?_, ?_⟩
  · have cap_eq : cap = s.admissionCap c := by
      rw [admissionCap_eq]
      rcases hcap with ⟨hpref, hq⟩ | ⟨hpref, hq⟩
      · rw [preferred_iff.2 hpref, capOf_true, hq]
      · rw [Bool.eq_false_iff.2 fun h => hpref (preferred_iff.1 h), capOf_false, hq]
    rw [hothers, cap_eq]
    exact evalMode_of_tested hk tag hm hM
  · exact fun hm hM => evalMode_of_neither hk tag (.inr hM) (.inl hm)
  · exact fun _ hlow hhigh => evalMode_of_neither hk tag (.inr hlow) (.inr hhigh)
  · exact fun hm hM => evalMode_of_neither hk tag (.inl hm) (.inr hM)
end

section
namespace Sys2Proof.Machine

open Sys2Proof

/-! ## The arithmetic of a build (R125 to R131) -/

theorem ceilDiv_le_iff {a b n : Nat} (hb : 0 < b) : ceilDiv a b ≤ n ↔ a ≤ n * b := by
  rw [ceilDiv, ← Nat.ceilDiv_eq_add_pred_div]
  exact (ceilDiv_le_iff_le_mul hb).trans (by rw [Nat.mul_comm])

/-- The want is the least number of slots that cover the need (R127). -/
theorem want_le_iff {demand pay n : Nat} {balance : Int} (hpay : 0 < pay) :
    want demand pay balance ≤ n ↔ (demand : Int) - balance ≤ (n * pay : Nat) := by
  rw [want, ceilDiv_le_iff hpay, Int.toNat_le, need]

/-- A charge within the want keeps the balance in [−4D, P) (R131). -/
theorem charge_balance_bounds {demand pay g : Nat} {balance : Int} (hpay : 0 < pay) (hb : balance < pay)
    (hg : g ≤ want demand pay balance) (starved : Bool) :
    -4 * (demand : Int) ≤ (charge balance starved g pay demand).balance ∧
      (charge balance starved g pay demand).balance < pay := by
  have below := balance_lt_of_grant hpay hb hg
  rw [(charge_eq balance starved g pay demand).1]
  exact ⟨le_max_left _ _, max_lt (by omega) below⟩

theorem controlRun_eq (f : FrameNo) : controlRun f = if 16 ∣ f.toNat then 8 else 4 :=
  if_congr Nat.dvd_iff_mod_eq_zero.symm rfl rfl

theorem controlRun_bounds (f : FrameNo) : 4 ≤ controlRun f ∧ controlRun f ≤ 8 := by
  rw [controlRun]
  split
  · decide
  · decide

/-! ## Slots taken from runs (R145) -/

theorem slotSum_eq (runs : List ReplayRun) : slotSum runs = (runs.map (·.slots)).sum := by
  rw [List.sum_eq_foldl, List.foldl_map, slotSum]

theorem sum_slots_takeFromRuns (n : Nat) (runs : List ReplayRun) :
    ((takeFromRuns n runs).map (·.slots)).sum = (runs.map (·.slots)).sum - n := by
  induction runs generalizing n with
  | nil => simp [takeFromRuns]
  | cons r runs ih =>
    rw [takeFromRuns, List.map_cons, List.sum_cons]
    split
    · rw [List.map_cons, List.sum_cons]
      dsimp only
      omega
    · rw [ih]
      omega

theorem takeFromRuns_takeFromRuns (m n : Nat) (runs : List ReplayRun) :
    takeFromRuns m (takeFromRuns n runs) = takeFromRuns (n + m) runs := by
  induction runs generalizing n with
  | nil => rfl
  | cons r runs ih =>
    by_cases hn : n < r.slots
    · by_cases hm : n + m < r.slots
      · have hrest : m < r.slots - n := by omega
        simp only [takeFromRuns, if_pos hn, if_pos hm, if_pos hrest, Nat.sub_sub]
      · have hrest : ¬m < r.slots - n := by omega
        have hleft : m - (r.slots - n) = n + m - r.slots := by omega
        simp only [takeFromRuns, if_pos hn, if_neg hm, if_neg hrest, hleft]
    · have hm : ¬n + m < r.slots := by omega
      have hleft : n - r.slots + m = n + m - r.slots := by omega
      simp only [takeFromRuns, if_neg hn, if_neg hm, ih, hleft]

theorem takeFromRuns_zero {runs : List ReplayRun} (hpos : ∀ r ∈ runs, 0 < r.slots) : takeFromRuns 0 runs = runs := by
  cases runs with
  | nil => rfl
  | cons r runs => exact if_pos (hpos r List.mem_cons_self)

theorem takeFromRuns_pos {runs : List ReplayRun} (hpos : ∀ r ∈ runs, 0 < r.slots) (n : Nat) :
    ∀ r ∈ takeFromRuns n runs, 0 < r.slots := by
  induction runs generalizing n with
  | nil => exact hpos
  | cons r runs ih =>
    obtain ⟨_, hruns⟩ := List.forall_mem_cons.1 hpos
    rw [takeFromRuns]
    split
    · next h => exact List.forall_mem_cons.2 ⟨Nat.sub_pos_of_lt h, hruns⟩
    · exact ih hruns _

/-- Slots taken reach one run: those before it are gone, it is left with fewer slots or gone too, and the others stand. -/
theorem takeFromRuns_cut {runs : List ReplayRun} (hpos : ∀ r ∈ runs, 0 < r.slots) {n : Nat} (hn : 0 < n)
    (hle : n ≤ (runs.map (·.slots)).sum) : ∃ gone r rest left, runs = gone ++ r :: rest ∧ left < r.slots ∧
      takeFromRuns n runs = (if left = 0 then [] else [{ r with slots := left }]) ++ rest := by
  induction runs generalizing n with
  | nil => exact absurd hle (Nat.not_le.2 hn)
  | cons r runs ih =>
    obtain ⟨hr, hruns⟩ := List.forall_mem_cons.1 hpos
    rw [List.map_cons, List.sum_cons] at hle
    rcases Nat.lt_trichotomy n r.slots with hlt | heq | hgt
    · refine ⟨[], r, runs, r.slots - n, rfl, by omega, ?_⟩
      rw [takeFromRuns, if_pos hlt, if_neg (by omega), List.singleton_append]
    · refine ⟨[], r, runs, 0, rfl, hr, ?_⟩
      rw [takeFromRuns, if_neg (by omega), heq, Nat.sub_self, takeFromRuns_zero hruns, if_pos rfl, List.nil_append]
    · obtain ⟨gone, a, rest, left, hsplit, hleft, hcut⟩ := ih hruns (n := n - r.slots) (by omega) (by omega)
      refine ⟨r :: gone, a, rest, left, by rw [hsplit, List.cons_append], hleft, ?_⟩
      rw [takeFromRuns, if_neg (by omega), hcut]

theorem sum_slots_takeFromEnd (n : Nat) (runs : List ReplayRun) :
    ((takeFromEnd n runs).map (·.slots)).sum = (runs.map (·.slots)).sum - n := by
  rw [takeFromEnd, List.map_reverse, List.sum_reverse, sum_slots_takeFromRuns, List.map_reverse, List.sum_reverse]

theorem takeFromEnd_takeFromEnd (m n : Nat) (runs : List ReplayRun) :
    takeFromEnd m (takeFromEnd n runs) = takeFromEnd (n + m) runs := by
  simp only [takeFromEnd, List.reverse_reverse, takeFromRuns_takeFromRuns]

section
variable {runs : List ReplayRun} (hpos : ∀ r ∈ runs, 0 < r.slots)
include hpos

theorem takeFromEnd_zero : takeFromEnd 0 runs = runs := by
  rw [takeFromEnd, takeFromRuns_zero fun r hr => hpos r (List.mem_reverse.1 hr), List.reverse_reverse]

theorem takeFromEnd_pos (n : Nat) : ∀ r ∈ takeFromEnd n runs, 0 < r.slots := fun r hr =>
  takeFromRuns_pos (fun a ha => hpos a (List.mem_reverse.1 ha)) n r (List.mem_reverse.1 hr)

theorem takeFromEnd_cut {n : Nat} (hn : 0 < n) (hle : n ≤ (runs.map (·.slots)).sum) :
    ∃ before r after left, runs = before ++ r :: after ∧ left < r.slots ∧
      takeFromEnd n runs = before ++ if left = 0 then [] else [{ r with slots := left }] := by
  obtain ⟨gone, r, rest, left, hsplit, hleft, hcut⟩ := takeFromRuns_cut (runs := runs.reverse)
    (fun r hr => hpos r (List.mem_reverse.1 hr)) hn (by rwa [List.map_reverse, List.sum_reverse])
  refine ⟨rest.reverse, r, gone.reverse, left, ?_, hleft, ?_⟩
  · simpa using congrArg List.reverse hsplit
  · rw [takeFromEnd, hcut, List.reverse_append]
    split
    · rfl
    · rfl

end

/-! ## The plan of a held cell (R145) -/

/-! ### Steps 1 and 2 -/

section
variable {s : State} {c : CellId} {r : ReplayRun}

theorem trimRun_of_none (hk : s.carriage? c r.stream = none) : s.trimRun c r = none := by
  simp only [State.trimRun, hk]

theorem trimRun_of_some {k : Carriage} (hk : s.carriage? c r.stream = some k) :
    s.trimRun c r = if k.mode = .multicast ∧ 0 < min r.slots (s.wantOf r.stream k) then
      some ⟨r.stream, k.minLevel, min r.slots (s.wantOf r.stream k)⟩ else none := by
  simp only [State.trimRun, hk]
  by_cases hm : k.mode = .multicast
  · by_cases hn : min r.slots (s.wantOf r.stream k) = 0
    · rw [if_pos hm, if_pos hn, if_neg fun h => h.2.ne' hn]
    · rw [if_pos hm, if_neg hn, if_pos ⟨hm, Nat.pos_of_ne_zero hn⟩]
  · rw [if_neg hm, if_neg fun h => hm h.1]

/-- A run that is kept has a slot, and no more than it had. -/
theorem slots_of_trimRun {r' : ReplayRun} (h : s.trimRun c r = some r') : 0 < r'.slots ∧ r'.slots ≤ r.slots := by
  cases hk : s.carriage? c r.stream with
  | none =>
    rw [trimRun_of_none hk] at h
    cases h
  | some k =>
    rw [trimRun_of_some hk] at h
    split at h
    · next kept =>
      cases h
      exact ⟨kept.2, Nat.min_le_left _ _⟩
    · cases h

end

/-- The runs that a hold keeps, each cut to its carriage's want (R145, steps 1 and 2). -/
def State.keptRuns (s : State) (c : CellId) (runs : List ReplayRun) : List ReplayRun :=
  runs.filterMap (s.trimRun c)

theorem keptRuns_pos (s : State) (c : CellId) (runs : List ReplayRun) : ∀ r ∈ s.keptRuns c runs, 0 < r.slots := by
  intro r hr
  obtain ⟨_, _, hkept⟩ := List.mem_filterMap.1 hr
  exact (slots_of_trimRun hkept).1

theorem sum_slots_keptRuns_le (s : State) (c : CellId) (runs : List ReplayRun) :
    ((s.keptRuns c runs).map (·.slots)).sum ≤ (runs.map (·.slots)).sum := by
  unfold State.keptRuns
  induction runs with
  | nil => exact le_refl 0
  | cons r runs ih =>
    rw [List.map_cons, List.sum_cons]
    cases hr : s.trimRun c r with
    | none =>
      rw [List.filterMap_cons_none hr]
      exact ih.trans (Nat.le_add_left _ _)
    | some r' =>
      rw [List.filterMap_cons_some hr, List.map_cons, List.sum_cons]
      exact Nat.add_le_add (slots_of_trimRun hr).2 ih

/-- A held plan before steps 3 and 4: the slots that its runs give up go to GENERAL. -/
def State.trimmedPlan (s : State) (c : CellId) (p : Plan) : Plan :=
  { p with
    replays := s.keptRuns c p.replays
    general := p.general + (slotSum p.replays - slotSum (s.keptRuns c p.replays)) }

@[simp] theorem trimmedPlan_ticket (s : State) (c : CellId) (p : Plan) : (s.trimmedPlan c p).ticket = p.ticket := rfl

@[simp] theorem trimmedPlan_replays (s : State) (c : CellId) (p : Plan) :
    (s.trimmedPlan c p).replays = s.keptRuns c p.replays := rfl

theorem heldPlan_eq (s : State) (f : FrameNo) (c : CellId) (p : Plan) :
    s.heldPlan f c p = applyCap (capOf (pool (controlRun f) p.ticket) (s.prioritised (sectorOf c)))
      (setControl (controlRun f) (s.trimmedPlan c p)) := rfl

theorem planTotal_trimmedPlan (s : State) (c : CellId) (p : Plan) : planTotal (s.trimmedPlan c p) = planTotal p := by
  have := sum_slots_keptRuns_le s c p.replays
  simp only [planTotal, State.trimmedPlan, slotSum_eq]
  omega

/-! ### Steps 3 and 4 -/

section
variable (n : Nat) (p : Plan)

@[simp] theorem setControl_control : (setControl n p).control = n := by
  unfold setControl
  split
  · rfl
  · rfl

@[simp] theorem setControl_ticket : (setControl n p).ticket = p.ticket := by
  unfold setControl
  split
  · rfl
  · rfl

theorem setControl_replays (hpos : ∀ r ∈ p.replays, 0 < r.slots) :
    (setControl n p).replays = takeFromEnd (n - p.control - p.general) p.replays := by
  unfold setControl
  split
  · next h => rw [Nat.sub_eq_zero_of_le h, Nat.zero_sub, takeFromEnd_zero hpos]
  · rfl

/-- A CONTROL run that the plan has room for leaves its total (R145, step 3). -/
theorem planTotal_setControl (hroom : n + p.ticket ≤ planTotal p) : planTotal (setControl n p) = planTotal p := by
  unfold setControl
  simp only [planTotal, slotSum_eq] at hroom ⊢
  split
  · dsimp only
    omega
  · dsimp only
    rw [sum_slots_takeFromEnd]
    omega

@[simp] theorem applyCap_control : (applyCap n p).control = p.control := by
  simp only [applyCap]
  split
  · rfl
  · rfl

@[simp] theorem applyCap_ticket : (applyCap n p).ticket = p.ticket := by
  simp only [applyCap]
  split
  · rfl
  · rfl

theorem applyCap_replays (hpos : ∀ r ∈ p.replays, 0 < r.slots) :
    (applyCap n p).replays = takeFromEnd (slotSum p.replays - n) p.replays := by
  simp only [applyCap]
  split
  · next h => rw [h, takeFromEnd_zero hpos]
  · rfl

/-- Slots above the cap go to GENERAL (R145, step 4). -/
theorem planTotal_applyCap : planTotal (applyCap n p) = planTotal p := by
  simp only [applyCap]
  split
  · rfl
  · simp only [planTotal, slotSum_eq, sum_slots_takeFromEnd]
    omega

end

/-! ### The whole adjustment -/

@[simp] theorem heldPlan_control (s : State) (f : FrameNo) (c : CellId) (p : Plan) :
    (s.heldPlan f c p).control = controlRun f := by
  rw [heldPlan_eq, applyCap_control, setControl_control]

@[simp] theorem heldPlan_ticket (s : State) (f : FrameNo) (c : CellId) (p : Plan) :
    (s.heldPlan f c p).ticket = p.ticket := by
  rw [heldPlan_eq, applyCap_ticket, setControl_ticket, trimmedPlan_ticket]

section
variable {p : Plan} (htotal : planTotal p = 80) (hticket : p.ticket ≤ 16) (s : State) (f : FrameNo) (c : CellId)
include htotal hticket

theorem planTotal_heldPlan : planTotal (s.heldPlan f c p) = 80 := by
  have trimmed := (planTotal_trimmedPlan s c p).trans htotal
  obtain ⟨_, control_le⟩ := controlRun_bounds f
  have room : controlRun f + (s.trimmedPlan c p).ticket ≤ planTotal (s.trimmedPlan c p) := by
    rw [trimmed, trimmedPlan_ticket]
    omega
  rw [heldPlan_eq, planTotal_applyCap, planTotal_setControl _ _ room, trimmed]

/-- What CONTROL and the cap take from the kept runs comes to their slots above the cap: CONTROL takes none while they are
within it, as the cap is within the pool that CONTROL leaves (R145). -/
theorem heldPlan_replays :
    (s.heldPlan f c p).replays = takeFromEnd (((s.keptRuns c p.replays).map (·.slots)).sum -
      capOf (pool (controlRun f) p.ticket) (s.prioritised (sectorOf c))) (s.keptRuns c p.replays) := by
  have trimmed : planTotal (s.trimmedPlan c p) = 80 := (planTotal_trimmedPlan s c p).trans htotal
  have cap_le : capOf (pool (controlRun f) p.ticket) (s.prioritised (sectorOf c)) ≤ 80 - controlRun f - p.ticket :=
    capOf_le _ _
  have hpos := keptRuns_pos s c p.replays
  have controlled : (setControl (controlRun f) (s.trimmedPlan c p)).replays = takeFromEnd _ (s.keptRuns c p.replays) :=
    setControl_replays (controlRun f) (s.trimmedPlan c p) hpos
  obtain ⟨_, control_le⟩ := controlRun_bounds f
  rw [planTotal, slotSum_eq, trimmedPlan_replays, trimmedPlan_ticket] at trimmed
  rw [heldPlan_eq, applyCap_replays _ _ (by rw [controlled]; exact takeFromEnd_pos hpos _), controlled, slotSum_eq,
    sum_slots_takeFromEnd, takeFromEnd_takeFromEnd]
  congr 1
  omega

end

end Sys2Proof.Machine

open Sys2Proof Sys2Proof.Machine

/-- Settles O47: the want is the least number of slots that cover the need, which bounds the balance of a charge; and the held
plan takes from the end of the kept runs just what they have above the cap. -/
theorem buildTermsCapAndGrants : Obligations.BuildTermsCapAndGrants := by
  refine ⟨rfl, fun f s sec hreserved => ?_, fun demand l balance starved remainder => ?_, fun s f c p htotal hticket => ?_⟩
  · intro control q
    have hq : q = 80 - control - (s.sector sec).reservation := rfl
    have bounds : 4 ≤ control ∧ control ≤ 8 := controlRun_bounds f
    refine ⟨controlRun_eq f, by omega, by omega, by omega, prioritised_iff s sec, fun h => by rw [h, capOf_true],
      fun h => ?_⟩
    rw [h, capOf_false]
    omega
  · intro p w g
    have hpay : 0 < p := payload_pos l
    refine ⟨(want_le_iff hpay).1 (le_refl w), fun hw => ?_, Nat.min_le_left _ _, ?_, ?_, ?_,
      fun hb g' hg => charge_balance_bounds hpay hb hg starved⟩
    · have short : ¬w ≤ w - 1 := by omega
      have uncovered := mt (want_le_iff hpay).2 short
      rw [not_le, Nat.cast_mul] at uncovered
      exact uncovered
    · exact (Nat.min_le_right _ _).trans (Nat.min_le_left _ _)
    · exact (Nat.min_le_right _ _).trans (Nat.min_le_right _ _)
    · have hg : g = min w (min 32 remainder) := rfl
      omega
  · intro control q cap kept t
    have hkept : kept = s.keptRuns c p.replays := by
      refine congrArg (List.filterMap · p.replays) (funext fun r => ?_)
      cases hk : s.carriage? c r.stream with
      | none => exact (trimRun_of_none hk).symm
      | some k => exact (trimRun_of_some hk).symm
    have hpos : ∀ r ∈ kept, 0 < r.slots := hkept ▸ keptRuns_pos s c p.replays
    have replays : t.replays = takeFromEnd ((kept.map (·.slots)).sum - cap) kept := by
      rw [hkept]
      exact heldPlan_replays htotal hticket s f c
    refine ⟨heldPlan_control s f c p, heldPlan_ticket s f c p, planTotal_heldPlan htotal hticket s f c, ?_, fun h => ?_,
      fun h => ?_⟩
    · rw [replays, sum_slots_takeFromEnd]
      omega
    · rw [replays, Nat.sub_eq_zero_of_le h, takeFromEnd_zero hpos]
    · rw [replays]
      exact takeFromEnd_cut hpos (by omega) (Nat.sub_le _ _)
end

section
namespace Sys2Proof.Machine

open Sys2Proof

/-! ## The plans and the sector records (R125, R133, R138) -/

/-! ### What leaves them as they were -/

/-- `t` has the plans and the sector records of `s`. -/
structure WindowFrame (s t : State) : Prop where
  plans : t.plans = s.plans
  sectors : t.sectors = s.sectors

theorem WindowFrame.refl (s : State) : WindowFrame s s := ⟨rfl, rfl⟩

theorem WindowFrame.trans {s t u : State} (f : WindowFrame s t) (f' : WindowFrame t u) : WindowFrame s u :=
  ⟨f'.plans.trans f.plans, f'.sectors.trans f.sectors⟩

theorem WindowFrame.foldl {α : Type} {act : State → α → State} (h : ∀ u a, WindowFrame u (act u a)) (l : List α)
    (s : State) : WindowFrame s (l.foldl act s) :=
  List.foldlRecOn l act (.refl s) fun u f a _ => f.trans (h u a)

theorem RecordFrame.toWindow {fresh : StationState → Prop} {s t : State} (f : RecordFrame fresh s t) : WindowFrame s t :=
  ⟨f.plans, f.sectors⟩

theorem BusFrame.toWindow {s t : State} (f : BusFrame s t) : WindowFrame s t := by
  obtain ⟨⟨po, ar, an, rfl⟩, _⟩ := f
  exact ⟨rfl, rfl⟩

theorem WindowFrame.chargeCarriage (s : State) (c : CellId) (x : StreamId) (k : Carriage) (g : Nat) (f : FrameNo) :
    WindowFrame s (s.chargeCarriage c x k g f) := by
  unfold State.chargeCarriage
  dsimp only
  split
  · exact ⟨rfl, rfl⟩
  · exact ⟨rfl, rfl⟩
  · exact ⟨rfl, rfl⟩

theorem WindowFrame.chargeHeld (c : CellId) (f : FrameNo) (runs : List ReplayRun) (s : State) (x : StreamId) :
    WindowFrame s (chargeHeld c f runs s x) := by
  unfold Machine.chargeHeld
  split
  · exact .refl s
  · split
    · exact .chargeCarriage s c x _ _ f
    · exact ⟨rfl, rfl⟩

theorem WindowFrame.momentPulse (s : State) (now : Instant) : WindowFrame s (s.momentPulse now) := by
  unfold State.momentPulse State.openSurge
  split
  · exact .refl s
  · exact .refl s
  · dsimp only
    split
    · exact ⟨rfl, rfl⟩
    · exact ⟨rfl, rfl⟩

theorem WindowFrame.declarePort (p : PortId) (cmd : Cmd) (s : State) : WindowFrame s (declarePortReply p cmd s).state := by
  have declared : ∀ r, WindowFrame s (s.declare p r) := fun _ => ⟨rfl, rfl⟩
  unfold declarePortReply
  split
  · exact declared _
  · unfold declareCell
    split
    · split
      · exact .refl s
      · split
        · exact .refl s
        · exact declared _
    · exact .refl s
    · exact .refl s
  · exact declared _
  · exact declared _
  · exact .refl s

theorem WindowFrame.setVenue (cmd : Cmd) (s : State) : WindowFrame s (setVenueReply cmd s).state := by
  unfold setVenueReply
  split
  · exact .refl s
  · split
    · exact .refl s
    · split
      · exact .refl s
      · exact ⟨rfl, rfl⟩

theorem WindowFrame.armMoment (cmd : Cmd) (s : State) : WindowFrame s (armMomentReply cmd s).state := by
  unfold armMomentReply
  split
  · exact ⟨rfl, rfl⟩
  · exact .refl s
  · exact .refl s

/-- No command but OPEN_MATCH, CLOSE_MATCH and SET_SECTOR_POLICY reaches a plan or a sector record. -/
theorem WindowFrame.bodyOf {c : Command} (hopen : c ≠ .openMatch) (hclose : c ≠ .closeMatch)
    (hpolicy : c ≠ .setSectorPolicy) (p : PortId) (now : Instant) (cmd : Cmd) (s : State) : WindowFrame s (bodyOf c p now cmd s).state := by
  have query : ∀ {t : State}, t = s → WindowFrame s t := by
    rintro t rfl
    exact .refl t
  cases c with
  | openMatch => exact absurd rfl hopen
  | closeMatch => exact absurd rfl hclose
  | setSectorPolicy => exact absurd rfl hpolicy
  | declarePort => exact .declarePort p cmd s
  | setVenue => exact .setVenue cmd s
  | armMoment => exact .armMoment cmd s
  | readStation => exact query (readStationReply_state cmd s)
  | readTicket => exact query (readTicketReply_state cmd s)
  | readStream => exact query (readStreamReply_state cmd s)
  | readCarriage => exact query (readCarriageReply_state cmd s)
  | readZone => exact query (readZoneReply_state cmd s)
  | readCell => exact query (readCellReply_state cmd s)
  | associate => exact (associateReply_frame p cmd s).toWindow
  | detach => exact (detachReply_frame p cmd s).toWindow
  | reportLevel => exact (reportLevelReply_frame p cmd s).toWindow
  | claim => exact (claimReply_frame p cmd s).toWindow
  | release => exact (releaseReply_frame p cmd s).toWindow
  | withdraw => exact (withdrawReply_frame p cmd s).toWindow
  | loadTickets => exact (loadTicketsReply_frame (fresh := becomesAssociated) cmd s).toWindow
  | admitTicket => exact (admitTicketReply_frame (fresh := becomesAssociated) cmd s).toWindow
  | exitTicket => exact (exitTicketReply_frame (fresh := becomesAssociated) cmd s).toWindow
  | voidTicket => exact (voidTicketReply_frame (fresh := becomesAssociated) cmd s).toWindow
  | setZone => exact (setZoneReply_frame (fresh := becomesAssociated) cmd s).toWindow
  | bindTicket => exact (bindTicketReply_frame (fresh := becomesAssociated) cmd s).toWindow
  | unbindTicket => exact (unbindTicketReply_frame (fresh := becomesAssociated) cmd s).toWindow
  | openStream => exact (openStreamReply_frame (fresh := becomesAssociated) p cmd s).toWindow
  | setStreamRate => exact (setStreamRateReply_frame (fresh := becomesAssociated) cmd s).toWindow
  | closeStream => exact (closeStreamReply_frame (fresh := becomesAssociated) cmd s).toWindow
  | subscribe => exact (subscribeReply_frame (fresh := becomesAssociated) cmd s).toWindow
  | unsubscribe => exact (unsubscribeReply_frame (fresh := becomesAssociated) cmd s).toWindow

/-! ### Tables written whole -/

theorem keysRiseFrom_filterMap {α : Type} (g : Nat → Option (Nat × α)) (hkey : ∀ k e, g k = some e → e.1 = k)
    (n lo : Nat) : keysRiseFrom lo ((List.range' lo n).filterMap g) = true := by
  induction n generalizing lo with
  | zero => rfl
  | succ n ih =>
    rw [List.range'_succ]
    cases hg : g lo with
    | none =>
      rw [List.filterMap_cons_none hg]
      exact keysRiseFrom_mono (Nat.le_succ lo) (ih (lo + 1))
    | some e =>
      obtain ⟨k, v⟩ := e
      obtain rfl : k = lo := hkey lo _ hg
      rw [List.filterMap_cons_some hg]
      simp [keysRiseFrom, ih (k + 1)]

/-- A table of a function's values is in canonical form. -/
theorem tableWfDefault_tableOf {α : Type} [DecidableEq α] (d : α) (n : Nat) (f : Nat → α) :
    tableWfDefault d (tableOf d n f) = true := by
  have listed : ∀ k e, (if f k = d then none else some (k, f k)) = some e → e.1 = k ∧ e.2 ≠ d := by
    intro k e he
    split at he
    · cases he
    · next hne =>
      cases he
      exact ⟨rfl, hne⟩
  rw [tableWfDefault, Bool.and_eq_true, List.all_eq_true, tableOf, List.range_eq_range']
  refine ⟨keysRiseFrom_filterMap _ (fun k e he => (listed k e he).1) n 0, fun e he => decide_eq_true ?_⟩
  obtain ⟨k, _, hk⟩ := List.mem_filterMap.1 he
  exact (listed k e hk).2

/-! ### The invariant -/

section
variable {s t : State}

theorem WindowFrame.planEntry (f : WindowFrame s t) (c : CellId) : t.planEntry c = s.planEntry c :=
  congrArg (tableRead _ · c.val) f.plans

theorem WindowFrame.sector (f : WindowFrame s t) (sec : SectorId) : t.sector sec = s.sector sec :=
  congrArg (tableRead _ · sec.val) f.sectors

theorem WindowFrame.plansOk (f : WindowFrame s t) (h : s.plansOk) : t.plansOk := by
  obtain ⟨hplans, hsectors, hreserved, hentries⟩ := h
  exact ⟨by rwa [f.plans], by rwa [f.sectors], fun sec => f.sector sec ▸ hreserved sec,
    fun c => f.planEntry c ▸ hentries c⟩

theorem State.plansOk.setPlan (h : s.plansOk) (c : CellId) {e : PlanEntry} (he : e.ok) : (s.setPlan c e).plansOk := by
  obtain ⟨hplans, hsectors, hreserved, hentries⟩ := h
  refine ⟨tableWfDefault_write hplans _ _, hsectors, hreserved, fun d => ?_⟩
  by_cases hd : d = c
  · subst hd
    rwa [planEntry_setPlan_self]
  · rw [planEntry_setPlan_of_ne s e hd]
    exact hentries d

theorem State.plansOk.setSector (h : s.plansOk) (sec : SectorId) {v : Sector} (hv : v.reservation ≤ 16) :
    (s.setSector sec v).plansOk := by
  obtain ⟨hplans, hsectors, hreserved, hentries⟩ := h
  refine ⟨hplans, tableWfDefault_write hsectors _ _, fun z => ?_, hentries⟩
  rw [sector_setSector]
  split
  · exact hv
  · exact hreserved z

theorem State.plansOk.reservation_le (h : s.plansOk) (sec : SectorId) : (s.sector sec).reservation ≤ 16 := by
  obtain ⟨_, _, hreserved, _⟩ := h
  exact hreserved sec

theorem State.plansOk.entry_ok (h : s.plansOk) (c : CellId) : (s.planEntry c).ok := by
  obtain ⟨_, _, _, hentries⟩ := h
  exact hentries c

/-- A window of default plans with the CONTROL run of their frame, and sectors that keep their policies (R5, R6). -/
theorem plansOk_defaultWindow (h : s.plansOk) {control : Nat} {frame : Option FrameNo} {held : Bool}
    (hcontrol : control = match frame with
      | none => 4
      | some f => controlRun f) {built : Option FrameNo}
    (hplans : t.plans = s.defaultWindow control frame held) (hsectors : t.sectors = s.settledSectors built) :
    t.plansOk := by
  have hsector : ∀ sec, t.sector sec = { s.sector sec with planState := .stable, builtFor := built } := fun sec => by
    rw [State.sector, hsectors, tableRead_settledSectors]
  have hentry : ∀ c, t.planEntry c = ⟨defaultPlan control (s.sector (sectorOf c)).reservation, frame, held⟩ := fun c => by
    rw [State.planEntry, hplans, tableRead_defaultWindow]
  refine ⟨hplans ▸ tableWfDefault_tableOf _ _ _, hsectors ▸ tableWfDefault_tableOf _ _ _, fun sec => ?_, fun c => ?_⟩
  · rw [hsector]
    exact h.reservation_le sec
  · have reserved := h.reservation_le (sectorOf c)
    have hle : control ≤ 8 := by
      subst hcontrol
      split
      · decide
      · exact (controlRun_bounds _).2
    rw [hentry]
    refine ⟨?_, ?_, reserved, fun r hr => absurd hr List.not_mem_nil⟩
    · simp only [planTotal, defaultPlan, slotSum, List.foldl_nil]
      omega
    · subst hcontrol
      cases frame with
      | none => rfl
      | some f => rfl

end

end Sys2Proof.Machine
end

section
namespace Sys2Proof.Machine

open Sys2Proof

/-! ## The build of a cell (R124 to R134) -/

/-! ### One grant -/

section
variable {c : CellId} {f : FrameNo} {b : Building} {x : StreamId}

theorem grantNext_of_none (hk : b.state.carriage? c x = none) : grantNext c f b x = b := by
  simp only [grantNext, hk]

/-- The grant of a MULTICAST carriage: taken off what is left of the cap, charged, and planned where it is above 0. -/
theorem grantNext_of_multicast {k : Carriage} (hk : b.state.carriage? c x = some k) (hm : k.mode = .multicast) {g : Nat}
    (hg : g = grantOf (b.state.wantOf x k) b.remainder) :
    grantNext c f b x =
      ⟨b.remainder - g, if g = 0 then b.runs else b.runs ++ [⟨x, k.minLevel, g⟩], b.state.chargeCarriage c x k g f⟩ := by
  simp only [grantNext, hk, if_pos hm, hg]

theorem grantNext_of_other {k : Carriage} (hk : b.state.carriage? c x = some k) (hm : k.mode ≠ .multicast) :
    grantNext c f b x = { b with state := b.state.clearGrant c x k } := by
  simp only [grantNext, hk, if_neg hm]

end

theorem grantOf_le (w remainder : Nat) :
    grantOf w remainder ≤ w ∧ grantOf w remainder ≤ 32 ∧ grantOf w remainder ≤ remainder := by
  unfold grantOf
  omega

theorem WindowFrame.grantNext (c : CellId) (f : FrameNo) (b : Building) (x : StreamId) :
    WindowFrame b.state (grantNext c f b x).state := by
  cases hk : b.state.carriage? c x with
  | none =>
    rw [grantNext_of_none hk]
    exact .refl _
  | some k =>
    by_cases hm : k.mode = .multicast
    · rw [grantNext_of_multicast hk hm rfl]
      exact .chargeCarriage _ c x k _ f
    · rw [grantNext_of_other hk hm]
      exact ⟨rfl, rfl⟩

/-! ### The runs of a build -/

/-- REPLAY runs each of 1 to 32 slots (R133). -/
def runsSized (runs : List ReplayRun) : Prop := ∀ r ∈ runs, 1 ≤ r.slots ∧ r.slots ≤ 32

/-- A build in progress whose runs, each of 1 to 32 slots, have taken of the cap what is gone of it. -/
structure Building.within (cap : Nat) (b : Building) : Prop where
  sized : runsSized b.runs
  total : slotSum b.runs + b.remainder = cap

theorem slotSum_append (rs rs' : List ReplayRun) : slotSum (rs ++ rs') = slotSum rs + slotSum rs' := by
  rw [slotSum_eq, slotSum_eq, slotSum_eq, List.map_append, List.sum_append]

theorem Building.within.grantNext {cap : Nat} {b : Building} (h : b.within cap) (c : CellId) (f : FrameNo) (x : StreamId) :
    (grantNext c f b x).within cap := by
  obtain ⟨hsized, htotal⟩ := h
  cases hk : b.state.carriage? c x with
  | none =>
    rw [grantNext_of_none hk]
    exact ⟨hsized, htotal⟩
  | some k =>
    by_cases hm : k.mode = .multicast
    · obtain ⟨g, hg⟩ : ∃ g, g = grantOf (b.state.wantOf x k) b.remainder := ⟨_, rfl⟩
      obtain ⟨_, hmost, hleft⟩ := grantOf_le (b.state.wantOf x k) b.remainder
      rw [grantNext_of_multicast hk hm hg]
      rw [← hg] at hmost hleft
      by_cases h0 : g = 0
      · rw [if_pos h0]
        exact ⟨hsized, by dsimp only; omega⟩
      · have appended : slotSum (b.runs ++ [⟨x, k.minLevel, g⟩]) = slotSum b.runs + g := by
          rw [slotSum_append, slotSum_eq [_], List.map_singleton, List.sum_singleton]
        rw [if_neg h0]
        refine ⟨fun r hr => (List.mem_append.1 hr).elim (hsized r) fun hr => ?_, by dsimp only; omega⟩
        rw [List.mem_singleton.1 hr]
        exact ⟨Nat.pos_of_ne_zero h0, hmost⟩
    · rw [grantNext_of_other hk hm]
      exact ⟨hsized, htotal⟩

/-! ### The whole cell -/

/-- The cap on the grants of a cell's build for a frame (R125, R126). -/
def State.buildCap (s : State) (f : FrameNo) (c : CellId) : Nat :=
  capOf (pool (controlRun f) (s.sector (sectorOf c)).reservation) (s.prioritised (sectorOf c))

/-- The grants of a cell's build, down its carriage list (R127). -/
def State.granted (s : State) (f : FrameNo) (c : CellId) : Building :=
  (s.rosterEntry c).carriages.foldl (grantNext c f) ⟨s.buildCap f c, [], s⟩

/-- The plan that a cell's build writes (R133). -/
def State.builtPlan (s : State) (f : FrameNo) (c : CellId) : Plan :=
  ⟨controlRun f, (s.sector (sectorOf c)).reservation, (s.granted f c).runs,
    pool (controlRun f) (s.sector (sectorOf c)).reservation - slotSum (s.granted f c).runs⟩

theorem buildCell_eq (f : FrameNo) (s : State) (c : CellId) :
    State.buildCell f s c = (s.granted f c).state.setPlan c ⟨s.builtPlan f c, some f, false⟩ := rfl

section
variable (s : State) (f : FrameNo) (c : CellId)

theorem within_granted : (s.granted f c).within (s.buildCap f c) :=
  List.foldlRecOn _ (grantNext c f) ⟨fun _ hr => absurd hr List.not_mem_nil, Nat.zero_add _⟩ fun _ h x _ => h.grantNext c f x

theorem WindowFrame.granted : WindowFrame s (s.granted f c).state :=
  List.foldlRecOn (motive := fun b => WindowFrame s b.state) _ (Machine.grantNext c f) (.refl s)
    fun b h x _ => h.trans (.grantNext c f b x)

theorem buildCap_le : s.buildCap f c ≤ 80 - controlRun f - (s.sector (sectorOf c)).reservation := capOf_le _ _

/-- What the grants leave of the pool is GENERAL (R133). -/
theorem general_builtPlan : (s.builtPlan f c).general + slotSum (s.builtPlan f c).replays =
    80 - controlRun f - (s.sector (sectorOf c)).reservation := by
  have total := (within_granted s f c).total
  have cap_le := buildCap_le s f c
  simp only [State.builtPlan, pool]
  omega

theorem builtPlan_ok (reserved : (s.sector (sectorOf c)).reservation ≤ 16) (held : Bool) :
    (⟨s.builtPlan f c, some f, held⟩ : PlanEntry).ok := by
  have general := general_builtPlan s f c
  obtain ⟨_, control_le⟩ := controlRun_bounds f
  have total : planTotal (s.builtPlan f c) = 80 := by
    rw [planTotal]
    simp only [State.builtPlan] at general ⊢
    omega
  exact ⟨total, rfl, reserved, (within_granted s f c).sized⟩

end

end Sys2Proof.Machine
end

section
namespace Sys2Proof.Machine

open Sys2Proof

/-! ## What keeps every plan whole (R125, R133, R138) -/

section
variable {s : State} (h : s.plansOk)
include h

/-! ### Cells -/

theorem State.plansOk.buildCell (f : FrameNo) (c : CellId) : (State.buildCell f s c).plansOk := by
  rw [buildCell_eq]
  exact ((WindowFrame.granted s f c).plansOk h).setPlan c (builtPlan_ok s f c (h.reservation_le _) false)

/-- The runs of a held plan are runs of the plan before it, cut short (R145). -/
theorem runsSized_heldPlan (f : FrameNo) (c : CellId) : runsSized (s.heldPlan f c (s.planEntry c).plan).replays := by
  obtain ⟨total, _, reserved, sized⟩ := h.entry_ok c
  have kept : runsWithin (fun _ => 32) (s.keptRuns c (s.planEntry c).plan.replays) := fun r hr => by
    obtain ⟨r₀, hr₀, htrim⟩ := List.mem_filterMap.1 hr
    exact (slots_of_trimRun htrim).2.trans (sized r₀ hr₀).2
  rw [heldPlan_replays total reserved]
  exact fun r hr => ⟨takeFromEnd_pos (keptRuns_pos s c _) _ r hr, runsWithin_takeFromEnd kept _ r hr⟩

theorem State.plansOk.holdCell (f : FrameNo) (c : CellId) : (State.holdCell f s c).plansOk := by
  obtain ⟨total, _, reserved, _⟩ := h.entry_ok c
  have whole : (⟨s.heldPlan f c (s.planEntry c).plan, some f, true⟩ : PlanEntry).ok :=
    ⟨planTotal_heldPlan total reserved s f c, heldPlan_control s f c _, (heldPlan_ticket s f c _).trans_le reserved,
      runsSized_heldPlan h f c⟩
  exact (WindowFrame.foldl (WindowFrame.chargeHeld c f _) _ _).plansOk (h.setPlan c whole)

/-! ### Sectors, passes and boundaries -/

theorem State.plansOk.completeBuild (f : FrameNo) (sec : SectorId) : (s.completeBuild f sec).plansOk := by
  have built : ((s.cellsOf sec).foldl (State.buildCell f) s).plansOk :=
    List.foldlRecOn _ _ h fun u hu c _ => hu.buildCell f c
  have started : WindowFrame _ (s.completeBuild f sec) := ⟨rfl, rfl⟩
  exact started.plansOk (built.setSector sec (built.reservation_le sec))

theorem State.plansOk.holdSector (f : FrameNo) (sec : SectorId) : (State.holdSector f s sec).plansOk := by
  have held : ((s.cellsOf sec).foldl (State.holdCell f) s).plansOk :=
    List.foldlRecOn _ _ h fun u hu c _ => hu.holdCell f c
  exact held.setSector sec (held.reservation_le sec)

theorem State.plansOk.startBuild (f : FrameNo) (order : List SectorId) : (s.startBuild f order).plansOk := by
  cases order with
  | nil => exact h
  | cons sec rest => exact h.setSector sec (h.reservation_le sec)

theorem State.plansOk.endPass (pass : Pass) : (s.endPass pass).plansOk := by
  obtain ⟨po, hended⟩ := endPass_eq_heldBy s pass
  have held : (s.heldBy pass).plansOk :=
    List.foldlRecOn _ _ (h.completeBuild pass.frame pass.building) fun u hu sec _ => hu.holdSector pass.frame sec
  exact hended ▸ held

theorem State.plansOk.planBoundary : s.planBoundary.plansOk := by
  unfold State.planBoundary
  split
  · exact h.startBuild _ _
  · exact (h.endPass _).startBuild _ _

theorem State.plansOk.finishBuild : s.finishBuild.plansOk := by
  unfold State.finishBuild
  split
  · exact h
  · exact (h.completeBuild _ _).startBuild _ _

theorem State.plansOk.boundary (now : Instant) (early : List BoundaryAct) : (s.boundary now early).plansOk := by
  have advanced : WindowFrame s (s.advanceFrame now).raiseFrame := ⟨rfl, rfl⟩
  have before := advanced.trans (RecordFrame.beforePlan s now early).toWindow
  rw [boundary_eq]
  exact (before.plansOk h).planBoundary

theorem State.plansOk.frameStrobe (now : Instant) (early : List BoundaryAct) : (s.frameStrobe now early).plansOk := by
  have next := h.boundary now early
  unfold State.frameStrobe
  split
  · exact h
  · split
    · exact next
    · exact h
  · split
    · exact next
    · exact h

theorem State.plansOk.strobeLossExpiry (early : List BoundaryAct) : (s.strobeLossExpiry early).plansOk := by
  unfold State.strobeLossExpiry
  split
  · exact h
  · exact h
  · exact h.boundary _ early

theorem State.plansOk.dividerExpiry (early : List BoundaryAct) : (s.dividerExpiry early).plansOk := by
  unfold State.dividerExpiry
  split
  · exact h
  · exact h
  · exact h.boundary _ early

/-! ### Commands -/

theorem State.plansOk.setPolicies (secs : List SectorId) {n : Nat} (hn : n ≤ 16) (pr : Priority) :
    (s.setPolicies secs n pr).plansOk :=
  List.foldlRecOn secs _ h fun _ hu sec _ => hu.setSector sec hn

theorem State.plansOk.setSectorPolicy (p : PortId) (cmd : Cmd) : (setSectorPolicyReply p cmd s).state.plansOk := by
  have reserved : asReservation (cmd.op 4) ≤ 16 := by
    rw [asReservation, clampTo_eq (Nat.zero_le 16)]
    omega
  unfold setSectorPolicyReply
  split
  · split
    · exact h
    · exact h.setPolicies _ reserved _
  · exact h
  · exact h
  · exact h

/-- OPEN_MATCH writes every cell the default plan of frame 0, a beacon frame (R5). -/
theorem State.plansOk.openMatch (now : Instant) (cmd : Cmd) : (openMatchReply now cmd s).state.plansOk := by
  unfold openMatchReply
  split
  · exact h
  · obtain ⟨u, hu⟩ : ∃ u : State, u = { s with
        device := .service, clock := openClock s.venue.frameSource now, plans := s.defaultWindow 8 (some 0) true
        sectors := s.settledSectors (some 0) } := ⟨_, rfl⟩
    have opened : s.openAt now cmd.tag = (u.beginPass 1).notify isDeclared .matchOpen cmd.tag := by rw [hu]; rfl
    have whole : u.plansOk := plansOk_defaultWindow h (control := 8) (frame := some 0) rfl (by rw [hu]) (by rw [hu])
    have told : WindowFrame (u.beginPass 1) (s.openAt now cmd.tag) := by
      rw [opened]
      exact ⟨rfl, rfl⟩
    exact told.plansOk (whole.startBuild 1 _)

/-- CLOSE_MATCH writes every cell the default plan of no frame (R6). -/
theorem State.plansOk.closeMatch (cmd : Cmd) : (closeMatchReply cmd s).state.plansOk := by
  have plans : (closeMatchReply cmd s).state.plans = s.defaultWindow 4 none false := by
    simp only [closeMatchReply, State.closeAt, State.notify_plans]
  have sectors : (closeMatchReply cmd s).state.sectors = s.settledSectors none := by
    simp only [closeMatchReply, State.closeAt, State.notify_sectors]
  exact plansOk_defaultWindow h (control := 4) (frame := none) rfl plans sectors

theorem State.plansOk.bodyOf (c : Command) (p : PortId) (now : Instant) (cmd : Cmd) : (bodyOf c p now cmd s).state.plansOk := by
  by_cases hopen : c = .openMatch
  · subst hopen
    exact h.openMatch now cmd
  by_cases hclose : c = .closeMatch
  · subst hclose
    exact h.closeMatch cmd
  by_cases hpolicy : c = .setSectorPolicy
  · subst hpolicy
    exact h.setSectorPolicy p cmd
  exact (WindowFrame.bodyOf hopen hclose hpolicy p now cmd s).plansOk h

end

theorem plansOk_resetPart (s : State) : s.resetPart.plansOk :=
  ⟨rfl, rfl, fun _ => (by decide : 4 ≤ 16),
    fun _ => ⟨rfl, rfl, (by decide : 4 ≤ 16), fun _ hr => absurd hr List.not_mem_nil⟩⟩

/-- Every row keeps every plan whole. -/
theorem Effect.plansOk {i : Instr} {s t : State} (he : Effect s i t) (h : s.plansOk) : t.plansOk := by
  have settled : s.settle.plansOk := (RecordFrame.settle becomesAssociated_associated s).toWindow.plansOk h
  cases he with
  | reset => exact plansOk_resetPart s
  | act a => exact (RecordFrame.act becomesAssociated_associated s a).toWindow.plansOk h
  | command c p now =>
    rcases serve_effect p c (bodyOf c p now) s.settle with hb | ⟨cmd, _, hserved⟩
    · exact hb.toWindow.plansOk settled
    · rw [hserved]
      exact settled.bodyOf c p now cmd
  | strobe now early => exact settled.frameStrobe now early
  | loss early => exact settled.strobeLossExpiry early
  | divider early => exact settled.dividerExpiry early
  | pulse now => exact (WindowFrame.momentPulse s.settle now).plansOk settled
  | build => exact settled.finishBuild
  | bus i t hb => exact hb.toWindow.plansOk settled

end Sys2Proof.Machine

open Sys2Proof Sys2Proof.Machine

/-- Settles O58, by the kinds of effect that a row can have: a build gives GENERAL what its grants leave of the pool, a hold
moves slots inside a plan that was whole, and the opening and the end of a match write the default plan. -/
theorem stepKeepsPlansOk : Obligations.StepKeepsPlansOk := by
  intro s t hs ht
  unfold step at ht
  split at ht
  · cases ht
    exact hs
  · exact (effect_of_exec ht).plansOk hs
end

section
namespace Sys2Proof.Machine

open Sys2Proof

/-! ## A charge (R128, R129) -/

/-! ### What it makes of balance and starved flag -/

section
variable {balance b : Int} {g pay demand : Nat} (hb : b = balance + (g : Int) * (pay : Int) - demand)
include hb

theorem charge_of_below (h : b < -4 * (demand : Int)) (starved : Bool) :
    charge balance starved g pay demand = ⟨-4 * demand, true, if starved then none else some .starved⟩ := by
  subst hb
  simp only [charge, Nat.cast_mul, if_pos h]

theorem charge_of_recovered (h : -4 * (demand : Int) ≤ b) (h0 : 0 ≤ b) :
    charge balance true g pay demand = ⟨b, false, some .recovered⟩ := by
  subst hb
  simp only [charge, Nat.cast_mul, if_neg h.not_gt, true_and, if_pos h0]

theorem charge_of_steady (h : -4 * (demand : Int) ≤ b) {starved : Bool} (hs : starved = true → b < 0) :
    charge balance starved g pay demand = ⟨b, starved, none⟩ := by
  have short : ¬(starved = true ∧ 0 ≤ b) := fun ⟨hst, h0⟩ => (hs hst).not_ge h0
  subst hb
  simp only [charge, Nat.cast_mul, if_neg h.not_gt, if_neg short]

end

/-! ### What it writes -/

/-- The carriage written back by a charge. -/
def State.setCharged (s : State) (c : CellId) (x : StreamId) (k : Carriage) (g : Nat) (balance : Int) (starved : Bool) : State :=
  s.setCarriage c x { k with balance := balance, starved := starved, lastGrant := g }

section
variable (s : State) (c : CellId) (x : StreamId) {k : Carriage} {g : Nat} (f : FrameNo) {balance : Int} {starved : Bool}

theorem chargeCarriage_of_silent
    (h : charge k.balance k.starved g (payload k.minLevel) (s.demand x) = ⟨balance, starved, none⟩) :
    s.chargeCarriage c x k g f = s.setCharged c x k g balance starved := by
  simp only [State.chargeCarriage, h]
  rfl

theorem chargeCarriage_of_starved
    (h : charge k.balance k.starved g (payload k.minLevel) (s.demand x) = ⟨balance, starved, some .starved⟩) :
    s.chargeCarriage c x k g f = (s.setCharged c x k g balance starved).notifyAt (toReplayAndOwner c)
      (.starved c x k.minLevel g (s.wantOf x k) (s.rateOf x)) 0 f := by
  simp only [State.chargeCarriage, h]
  rfl

theorem chargeCarriage_of_recovered
    (h : charge k.balance k.starved g (payload k.minLevel) (s.demand x) = ⟨balance, starved, some .recovered⟩) :
    s.chargeCarriage c x k g f = (s.setCharged c x k g balance starved).notifyAt (toReplayAndOwner c)
      (.recovered c x k.minLevel g balance (s.rateOf x)) 0 f := by
  simp only [State.chargeCarriage, h]
  rfl

end

end Sys2Proof.Machine

open Sys2Proof Sys2Proof.Machine

/-- Settles O48, by the three outcomes of a charge: below −4D, a recovery, and neither. -/
theorem chargeStarvesAndRecovers : Obligations.ChargeStarvesAndRecovers := by
  intro s c x k g f d b charged told t
  refine ⟨fun hlow hs => ?_, fun hlow hs => ?_, fun hfloor hs => ?_, fun hfloor hneg hs => ?_, fun hfloor h0 hs => ?_⟩
  · exact chargeCarriage_of_starved s c x f ((charge_of_below rfl hlow _).trans (by rw [hs]; rfl))
  · exact chargeCarriage_of_silent s c x f ((charge_of_below rfl hlow _).trans (by rw [hs]; rfl))
  · exact chargeCarriage_of_silent s c x f (hs ▸ charge_of_steady rfl hfloor (fun h => nomatch hs.symm.trans h))
  · exact chargeCarriage_of_silent s c x f (hs ▸ charge_of_steady rfl hfloor fun _ => hneg)
  · exact chargeCarriage_of_recovered s c x f (hs ▸ charge_of_recovered rfl hfloor h0)
end

section
namespace Sys2Proof.Machine

open Sys2Proof

/-! ## What a cell's build grants (R127 to R130, R133, R134) -/

/-- The grant of a carriage between two states; 0 for one that is absent or not MULTICAST. -/
def grantBetween (s t : State) (c : CellId) (x : StreamId) : Nat :=
  match s.carriage? c x, t.carriage? c x with
  | some k, some k' => if k.mode = .multicast then k'.lastGrant else 0
  | _, _ => 0

/-- The run that a granted carriage has in the plan of its cell (R133). -/
def State.grantedRun (t : State) (c : CellId) (x : StreamId) : Option ReplayRun :=
  match t.carriage? c x with
  | none => none
  | some k => if k.mode = .multicast ∧ 0 < k.lastGrant then some ⟨x, k.minLevel, k.lastGrant⟩ else none

section
variable {s t : State} {c : CellId} {x : StreamId}

theorem grantBetween_of_none (h : s.carriage? c x = none) : grantBetween s t c x = 0 := by
  simp only [grantBetween, h]

theorem grantBetween_of_multicast {k k' : Carriage} (hk : s.carriage? c x = some k) (hk' : t.carriage? c x = some k')
    (hm : k.mode = .multicast) : grantBetween s t c x = k'.lastGrant := by
  simp only [grantBetween, hk, hk', if_pos hm]

theorem grantBetween_of_other {k : Carriage} (hk : s.carriage? c x = some k) (hm : k.mode ≠ .multicast) :
    grantBetween s t c x = 0 := by
  unfold grantBetween
  split
  · next hk₀ _ =>
    obtain rfl : k = _ := Option.some.inj (hk.symm.trans hk₀)
    exact if_neg hm
  · rfl

theorem grantBetween_congr {s' t' : State} (hs : s'.carriage? c x = s.carriage? c x)
    (ht : t'.carriage? c x = t.carriage? c x) : grantBetween s' t' c x = grantBetween s t c x := by
  unfold grantBetween
  rw [hs, ht]

theorem grantedRun_of_none (h : t.carriage? c x = none) : t.grantedRun c x = none := by
  simp only [State.grantedRun, h]

theorem grantedRun_of_some {k : Carriage} (h : t.carriage? c x = some k) : t.grantedRun c x =
    if k.mode = .multicast ∧ 0 < k.lastGrant then some ⟨x, k.minLevel, k.lastGrant⟩ else none := by
  simp only [State.grantedRun, h]

theorem grantedRun_congr {t' : State} (h : t'.carriage? c x = t.carriage? c x) : t'.grantedRun c x = t.grantedRun c x := by
  unfold State.grantedRun
  rw [h]

end

theorem heldCarriage_of_multicast {k : Carriage} (hm : k.mode = .multicast) (g demand : Nat) :
    (heldCarriage k g demand).lastGrant = g ∧ (heldCarriage k g demand).mode = .multicast ∧
      (heldCarriage k g demand).minLevel = k.minLevel := by
  rw [heldCarriage, if_pos hm]
  exact ⟨rfl, hm, rfl⟩

theorem heldCarriage_of_other {k : Carriage} (hm : k.mode ≠ .multicast) (g demand : Nat) :
    heldCarriage k g demand = { k with lastGrant := 0 } := if_neg hm

/-! ### One grant -/

section
variable {c : CellId} {f : FrameNo} {b : Building} {x : StreamId}

theorem carriage?_grantNext_of_ne {y : StreamId} (h : y ≠ x) :
    (grantNext c f b x).state.carriage? c y = b.state.carriage? c y := by
  cases hk : b.state.carriage? c x with
  | none => rw [grantNext_of_none hk]
  | some k =>
    by_cases hm : k.mode = .multicast
    · rw [grantNext_of_multicast hk hm rfl]
      exact (carriage?_chargeCarriage _ c x k _ f y).trans (carriage?_setCarriage_of_ne _ _ fun e => h e.2)
    · rw [grantNext_of_other hk hm]
      exact carriage?_setCarriage_of_ne _ _ fun e => h e.2

/-- The carriage is charged with its grant (R128 to R130, R134). -/
theorem carriage?_grantNext_self {k : Carriage} (hk : b.state.carriage? c x = some k) :
    (grantNext c f b x).state.carriage? c x =
      some (heldCarriage k (grantOf (b.state.wantOf x k) b.remainder) (b.state.demand x)) := by
  by_cases hm : k.mode = .multicast
  · obtain ⟨hbalance, hstarved⟩ := charge_eq k.balance k.starved (grantOf (b.state.wantOf x k) b.remainder)
      (payload k.minLevel) (b.state.demand x)
    rw [grantNext_of_multicast hk hm rfl]
    refine (carriage?_chargeCarriage _ c x k _ f x).trans ?_
    rw [carriage?_setCarriage_self, hbalance, hstarved, heldCarriage, if_pos hm]
  · rw [grantNext_of_other hk hm, heldCarriage_of_other hm]
    exact carriage?_setCarriage_self _ _ _ _

theorem remainder_grantNext :
    (grantNext c f b x).remainder + grantBetween b.state (grantNext c f b x).state c x = b.remainder := by
  cases hk : b.state.carriage? c x with
  | none => rw [grantBetween_of_none hk, grantNext_of_none hk, Nat.add_zero]
  | some k =>
    by_cases hm : k.mode = .multicast
    · obtain ⟨_, _, hle⟩ := grantOf_le (b.state.wantOf x k) b.remainder
      obtain ⟨hgrant, _, _⟩ := heldCarriage_of_multicast hm (grantOf (b.state.wantOf x k) b.remainder) (b.state.demand x)
      rw [grantBetween_of_multicast hk (carriage?_grantNext_self hk) hm, hgrant, grantNext_of_multicast hk hm rfl]
      exact Nat.sub_add_cancel hle
    · rw [grantBetween_of_other hk hm, grantNext_of_other hk hm, Nat.add_zero]

/-- A carriage with a grant above 0 has a run at its min level (R133). -/
theorem runs_grantNext :
    (grantNext c f b x).runs = b.runs ++ ((grantNext c f b x).state.grantedRun c x).toList := by
  cases hk : b.state.carriage? c x with
  | none => rw [grantNext_of_none hk, grantedRun_of_none hk, Option.toList_none, List.append_nil]
  | some k =>
    rw [grantedRun_of_some (carriage?_grantNext_self hk)]
    by_cases hm : k.mode = .multicast
    · obtain ⟨hgrant, hmode, hlevel⟩ :=
        heldCarriage_of_multicast hm (grantOf (b.state.wantOf x k) b.remainder) (b.state.demand x)
      rw [hgrant, hmode, hlevel, grantNext_of_multicast hk hm rfl]
      by_cases h0 : grantOf (b.state.wantOf x k) b.remainder = 0
      · simp [h0]
      · simp [h0, Nat.pos_of_ne_zero h0]
    · rw [grantNext_of_other hk hm, heldCarriage_of_other hm]
      simp [hm]

end

/-! ### The grants down a list -/

section
variable (c : CellId) (f : FrameNo)

theorem carriage?_grants_of_not_mem {x : StreamId} {xs : List StreamId} (h : x ∉ xs) (b : Building) :
    (xs.foldl (grantNext c f) b).state.carriage? c x = b.state.carriage? c x := by
  induction xs generalizing b with
  | nil => rfl
  | cons y xs ih =>
    obtain ⟨hy, hxs⟩ := not_or.1 (List.mem_cons.not.1 h)
    rw [List.foldl_cons, ih hxs, carriage?_grantNext_of_ne hy]

/-- The grants and what they leave make up what there was of the cap. -/
theorem remainder_grants {xs : List StreamId} (hn : xs.Nodup) (b : Building) :
    (xs.foldl (grantNext c f) b).remainder +
      (xs.map (grantBetween b.state (xs.foldl (grantNext c f) b).state c)).sum = b.remainder := by
  induction xs generalizing b with
  | nil => rfl
  | cons x xs ih =>
    obtain ⟨hx, hn⟩ := List.nodup_cons.1 hn
    have first := remainder_grantNext (c := c) (f := f) (b := b) (x := x)
    have later := ih hn (grantNext c f b x)
    rw [List.foldl_cons, List.map_cons, List.sum_cons,
      grantBetween_congr (t := (grantNext c f b x).state) rfl (carriage?_grants_of_not_mem c f hx _)]
    have same : xs.map (grantBetween b.state (xs.foldl (grantNext c f) (grantNext c f b x)).state c) =
        xs.map (grantBetween (grantNext c f b x).state (xs.foldl (grantNext c f) (grantNext c f b x)).state c) :=
      List.map_congr_left fun y hy => by
        have hne : y ≠ x := fun e => hx (e ▸ hy)
        exact grantBetween_congr (carriage?_grantNext_of_ne hne).symm rfl
    rw [same]
    omega

theorem runs_grants {xs : List StreamId} (hn : xs.Nodup) (b : Building) :
    (xs.foldl (grantNext c f) b).runs =
      b.runs ++ xs.filterMap ((xs.foldl (grantNext c f) b).state.grantedRun c) := by
  induction xs generalizing b with
  | nil => exact (List.append_nil _).symm
  | cons x xs ih =>
    obtain ⟨hx, hn⟩ := List.nodup_cons.1 hn
    rw [List.foldl_cons, ih hn, runs_grantNext, List.append_assoc,
      ← grantedRun_congr (carriage?_grants_of_not_mem c f hx (grantNext c f b x))]
    congr 1
    rw [List.filterMap_cons]
    cases (xs.foldl (grantNext c f) (grantNext c f b x)).state.grantedRun c x with
    | none => rfl
    | some r => rfl

theorem EngineFrame.grants (xs : List StreamId) (b : Building) :
    EngineFrame (fun _ => True) b.state (xs.foldl (Machine.grantNext c f) b).state :=
  List.foldlRecOn (motive := fun b' => EngineFrame (fun _ => True) b.state b'.state) xs (Machine.grantNext c f) (.refl _)
    fun b' h x _ => h.trans (.grantNext trivial f b' x)

/-- A carriage is granted out of what the grants before its own leave of the cap (R127). -/
theorem carriage?_grants {before after : List StreamId} {x : StreamId} (hn : (before ++ x :: after).Nodup) {b b' : Building}
    (hb' : b' = (before ++ x :: after).foldl (grantNext c f) b) {k : Carriage} (hk : b.state.carriage? c x = some k) :
    b'.state.carriage? c x = some (heldCarriage k (grantOf (b.state.wantOf x k)
      (b.remainder - (before.map (grantBetween b.state b'.state c)).sum)) (b.state.demand x)) := by
  obtain ⟨hbefore, hlater, hdisjoint⟩ := List.nodup_append.1 hn
  obtain ⟨hafter, _⟩ := List.nodup_cons.1 hlater
  obtain ⟨m, hm⟩ : ∃ m, m = before.foldl (grantNext c f) b := ⟨_, rfl⟩
  have frame : EngineFrame (fun _ => True) b.state m.state := hm ▸ .grants c f before b
  have hkm : m.state.carriage? c x = some k := by
    rw [hm, carriage?_grants_of_not_mem c f (fun h => hdisjoint x h x List.mem_cons_self rfl), hk]
  have later : b' = (x :: after).foldl (grantNext c f) m := by rw [hb', List.foldl_append, hm]
  have sums : before.map (grantBetween b.state m.state c) = before.map (grantBetween b.state b'.state c) :=
    List.map_congr_left fun y hy => grantBetween_congr rfl <| by
      rw [later, carriage?_grants_of_not_mem c f fun h => hdisjoint y hy y h rfl]
  have left : m.remainder = b.remainder - (before.map (grantBetween b.state b'.state c)).sum := by
    have := remainder_grants c f hbefore b
    rw [← hm, sums] at this
    omega
  have own : b'.state.carriage? c x =
      some (heldCarriage k (grantOf (m.state.wantOf x k) m.remainder) (m.state.demand x)) := by
    rw [later, List.foldl_cons, carriage?_grants_of_not_mem c f hafter]
    exact carriage?_grantNext_self hkm
  rw [own, left, State.wantOf, State.wantOf, frame.demand]

end

end Sys2Proof.Machine
end

section
namespace Sys2Proof.Machine

open Sys2Proof

/-! ## A cell whose build is done, among the other cells -/

section
variable {s v t : State} {c : CellId} {f : FrameNo}

theorem reservation_built (hv : EngineFrame (· ≠ c) s v) (sec : SectorId) :
    (v.sector sec).reservation = (s.sector sec).reservation := (hv.policies sec).1

theorem buildCap_built (hv : EngineFrame (· ≠ c) s v) : v.buildCap f c = s.buildCap f c := by
  rw [State.buildCap, State.buildCap, reservation_built hv, hv.prioritised]

variable (hv : EngineFrame (· ≠ c) s v) (ht : EngineFrame (· ≠ c) (State.buildCell f v c) t)
include ht

theorem planEntry_built : t.planEntry c = ⟨v.builtPlan f c, some f, false⟩ := by
  rw [ht.plans c (not_not.2 rfl), buildCell_eq, planEntry_setPlan_self]

theorem carriage?_built (x : StreamId) : t.carriage? c x = (v.granted f c).state.carriage? c x :=
  ht.carriages c (not_not.2 rfl) x

include hv

theorem grantBetween_built (x : StreamId) : grantBetween v (v.granted f c).state c x = grantBetween s t c x :=
  grantBetween_congr (hv.carriages c (not_not.2 rfl) x) (carriage?_built ht x).symm

variable (hn : (s.rosterEntry c).carriages.Nodup)
include hn

/-- The runs of the plan are those of the granted carriages, in list order (R133). -/
theorem replays_built : (v.builtPlan f c).replays = (s.rosterEntry c).carriages.filterMap (t.grantedRun c) := by
  have runs := runs_grants c f hn ⟨v.buildCap f c, [], v⟩
  have same : t.grantedRun c = (v.granted f c).state.grantedRun c := funext fun x => grantedRun_congr (carriage?_built ht x)
  rw [List.nil_append, ← hv.rosterEntry c] at runs
  rw [same, ← hv.rosterEntry c]
  exact runs

/-- A carriage is granted the smallest of its want, 32, and what the grants before its own leave of the cap, and is charged
with the grant (R127 to R130, R134). -/
theorem carriage?_builtCell {before after : List StreamId} {x : StreamId}
    (hlist : (s.rosterEntry c).carriages = before ++ x :: after) {k : Carriage} (hk : s.carriage? c x = some k) :
    t.carriage? c x = some (heldCarriage k (grantOf (s.wantOf x k)
      (s.buildCap f c - (before.map (grantBetween s t c)).sum)) (s.demand x)) := by
  have granted : v.granted f c = (before ++ x :: after).foldl (grantNext c f) ⟨v.buildCap f c, [], v⟩ := by
    rw [State.granted, hv.rosterEntry, hlist]
  have own := carriage?_grants c f (hlist ▸ hn) granted ((hv.carriages c (not_not.2 rfl) x).trans hk)
  have grants : grantBetween v (v.granted f c).state c = grantBetween s t c := funext (grantBetween_built hv ht)
  dsimp only at own
  rwa [← carriage?_built ht, grants, buildCap_built hv, State.wantOf, hv.demand] at own

end

/-! ## The notices of a build (R128, R129) -/

/-- Two states in which a charge writes the same notices to the same queues. -/
structure NoticesAgree (u v : State) : Prop where
  ports : u.ports = v.ports
  streams : u.streams = v.streams
  clock : u.clock = v.clock

section
variable {u v : State}

theorem NoticesAgree.refl (u : State) : NoticesAgree u u := ⟨rfl, rfl, rfl⟩

theorem NoticesAgree.notifyAt (h : NoticesAgree u v) (dest : PortUnit → Bool) (n : Notice) (tag : Tag) (f : FrameNo) :
    NoticesAgree (u.notifyAt dest n tag f) (v.notifyAt dest n tag f) := by
  refine ⟨?_, h.streams, h.clock⟩
  simp only [State.notifyAt, State.mapPorts_ports, h.ports, h.clock]

theorem NoticesAgree.chargeCarriage (h : NoticesAgree u v) (c : CellId) (x : StreamId) (k : Carriage) (g : Nat) (f : FrameNo) :
    NoticesAgree (u.chargeCarriage c x k g f) (v.chargeCarriage c x k g f) := by
  have hstream : u.stream x = v.stream x := congrArg (tableRead _ · x.val) h.streams
  have hdemand : u.demand x = v.demand x := demand_congr (by rw [hstream])
  have hrate : u.rateOf x = v.rateOf x := by rw [State.rateOf, State.rateOf, hstream]
  have hwant : u.wantOf x k = v.wantOf x k := by rw [State.wantOf, State.wantOf, hdemand]
  have stored : ∀ balance starved,
      NoticesAgree (u.setCharged c x k g balance starved) (v.setCharged c x k g balance starved) :=
    fun _ _ => ⟨h.ports, h.streams, h.clock⟩
  obtain ⟨⟨balance, starved, event⟩, hv⟩ :
      ∃ r, charge k.balance k.starved g (payload k.minLevel) (v.demand x) = r := ⟨_, rfl⟩
  have hu := hdemand ▸ hv
  cases event with
  | none =>
    rw [chargeCarriage_of_silent u c x f hu, chargeCarriage_of_silent v c x f hv]
    exact stored _ _
  | some event =>
    cases event with
    | starved =>
      rw [chargeCarriage_of_starved u c x f hu, chargeCarriage_of_starved v c x f hv, hrate, hwant]
      exact (stored _ _).notifyAt _ _ _ _
    | recovered =>
      rw [chargeCarriage_of_recovered u c x f hu, chargeCarriage_of_recovered v c x f hv, hrate]
      exact (stored _ _).notifyAt _ _ _ _

end

/-- The charge of a carriage as it stands in `s` with the last grant that it has in `t`, made in `v`. -/
def State.chargeAgain (s t : State) (f : FrameNo) (c : CellId) (v : State) (x : StreamId) : State :=
  match s.carriage? c x, t.carriage? c x with
  | some k, some k' => if k.mode = .multicast then v.chargeCarriage c x k k'.lastGrant f else v
  | _, _ => v

section
variable {s t : State} {c : CellId} {x : StreamId}

theorem chargeAgain_of_none (h : s.carriage? c x = none) (f : FrameNo) (v : State) : s.chargeAgain t f c v x = v := by
  simp only [State.chargeAgain, h]

theorem chargeAgain_of_multicast {k k' : Carriage} (hk : s.carriage? c x = some k) (hk' : t.carriage? c x = some k')
    (hm : k.mode = .multicast) (f : FrameNo) (v : State) :
    s.chargeAgain t f c v x = v.chargeCarriage c x k k'.lastGrant f := by
  simp only [State.chargeAgain, hk, hk', if_pos hm]

theorem chargeAgain_of_other {k k' : Carriage} (hk : s.carriage? c x = some k) (hk' : t.carriage? c x = some k')
    (hm : k.mode ≠ .multicast) (f : FrameNo) (v : State) : s.chargeAgain t f c v x = v := by
  simp only [State.chargeAgain, hk, hk', if_neg hm]

theorem NoticesAgree.grantNext {f : FrameNo} {b : Building} {v : State} (h : NoticesAgree b.state v)
    (hs : b.state.carriage? c x = s.carriage? c x) (ht : (grantNext c f b x).state.carriage? c x = t.carriage? c x) :
    NoticesAgree (grantNext c f b x).state (s.chargeAgain t f c v x) := by
  cases hk : s.carriage? c x with
  | none =>
    rw [chargeAgain_of_none hk, grantNext_of_none (hs.trans hk)]
    exact h
  | some k =>
    have hbk := hs.trans hk
    have hk' := ht.symm.trans (carriage?_grantNext_self hbk)
    by_cases hm : k.mode = .multicast
    · obtain ⟨hgrant, _, _⟩ := heldCarriage_of_multicast hm (grantOf (b.state.wantOf x k) b.remainder) (b.state.demand x)
      rw [chargeAgain_of_multicast hk hk' hm, hgrant, grantNext_of_multicast hbk hm rfl]
      exact h.chargeCarriage c x k _ f
    · rw [chargeAgain_of_other hk hk' hm, grantNext_of_other hbk hm]
      exact ⟨h.ports, h.streams, h.clock⟩

theorem NoticesAgree.grants {f : FrameNo} {xs : List StreamId} (hn : xs.Nodup) {b : Building} {v : State}
    (h : NoticesAgree b.state v) (hs : ∀ x ∈ xs, b.state.carriage? c x = s.carriage? c x)
    (ht : ∀ x ∈ xs, (xs.foldl (Machine.grantNext c f) b).state.carriage? c x = t.carriage? c x) :
    NoticesAgree (xs.foldl (Machine.grantNext c f) b).state (xs.foldl (s.chargeAgain t f c) v) := by
  induction xs generalizing b v with
  | nil => exact h
  | cons x xs ih =>
    obtain ⟨hx, hn⟩ := List.nodup_cons.1 hn
    have own := ht x List.mem_cons_self
    rw [List.foldl_cons, carriage?_grants_of_not_mem c f hx] at own
    refine ih hn (h.grantNext (hs x List.mem_cons_self) own) (fun y hy => ?_) fun y hy => ht y (List.mem_cons_of_mem x hy)
    have hne : y ≠ x := fun e => hx (e ▸ hy)
    rw [carriage?_grantNext_of_ne hne, hs y (List.mem_cons_of_mem x hy)]

end

/-- The charges of a cell's carriages, down its list, as `State.chargeAgain` makes them. -/
def State.chargeCellAgain (s t : State) (f : FrameNo) (v : State) (c : CellId) : State :=
  (s.rosterEntry c).carriages.foldl (s.chargeAgain t f c) v

section
variable {s t : State}

theorem NoticesAgree.buildCell {f : FrameNo} {c : CellId} (hn : (s.rosterEntry c).carriages.Nodup) {u v : State}
    (h : NoticesAgree u v) (hu : EngineFrame (· ≠ c) s u)
    (ht : ∀ x, (State.buildCell f u c).carriage? c x = t.carriage? c x) :
    NoticesAgree (State.buildCell f u c) (s.chargeCellAgain t f v c) := by
  have granted : NoticesAgree (u.granted f c).state (s.chargeCellAgain t f v c) := by
    rw [State.granted, hu.rosterEntry, State.chargeCellAgain]
    refine NoticesAgree.grants hn h (fun x _ => hu.carriages c (not_not.2 rfl) x) fun x _ => ?_
    rw [← hu.rosterEntry]
    exact ht x
  exact ⟨granted.ports, granted.streams, granted.clock⟩

/-- Builds of cells one after another write the notices of the charges, cell after cell. -/
theorem NoticesAgree.buildCells {f : FrameNo} (hlists : ∀ c, (s.rosterEntry c).carriages.Nodup) {cs : List CellId}
    (hcs : cs.Nodup) {u v : State} (h : NoticesAgree u v) (hu : EngineFrame (· ∉ cs) s u)
    (ht : ∀ c ∈ cs, ∀ x, (cs.foldl (State.buildCell f) u).carriage? c x = t.carriage? c x) :
    NoticesAgree (cs.foldl (State.buildCell f) u) (cs.foldl (s.chargeCellAgain t f) v) := by
  induction cs generalizing u v with
  | nil => exact h
  | cons c cs ih =>
    obtain ⟨hc, hcs⟩ := List.nodup_cons.1 hcs
    have others : EngineFrame (· ∈ cs) (State.buildCell f u c) (cs.foldl (State.buildCell f) (State.buildCell f u c)) :=
      .foldl cs _ fun d hd w _ => .buildCell f w hd
    have first : NoticesAgree (State.buildCell f u c) (s.chargeCellAgain t f v c) :=
      h.buildCell (hlists c) (hu.mono fun d hd e => hd (e ▸ List.mem_cons_self)) fun x => by
        rw [← others.carriages c hc x]
        exact ht c List.mem_cons_self x
    refine ih hcs first ?_ fun d hd => ht d (List.mem_cons_of_mem c hd)
    exact (hu.mono fun d hd hmem => hd (List.mem_cons_of_mem c hmem)).trans (.buildCell f u hc)

end

end Sys2Proof.Machine
end

section
namespace Sys2Proof.Machine

open Sys2Proof

/-! ## The completion of a sector build (R142) -/

theorem cellsOf_sorted (s : State) (sec : SectorId) : (s.cellsOf sec).Pairwise (· < ·) := by
  refine List.Pairwise.map _ (fun i j h => ?_) (allSectors_sorted.filter _)
  rw [Fin.lt_def] at h ⊢
  dsimp only
  omega

/-- The cells of a sector in use, as the venue has them. -/
theorem mem_cellsOf_iff {s : State} {sec : SectorId} (hused : sec.val < s.venue.sectorsInUse) (c : CellId) :
    c ∈ s.cellsOf sec ↔ s.inVenue c = true ∧ sectorOf c = sec := by
  rw [mem_cellsOf, inVenue_iff]
  constructor
  · rintro ⟨rfl, hc⟩
    exact ⟨⟨hused, hc⟩, rfl⟩
  · rintro ⟨⟨_, hc⟩, hsec⟩
    exact ⟨hsec, hc⟩

section
variable (s : State) (f : FrameNo) (order : List SectorId)

theorem ports_startBuild : (s.startBuild f order).ports = s.ports := by
  cases order with
  | nil => rfl
  | cons sec rest => rfl

theorem startSector_startBuild : (s.startBuild f order).startSector = s.startSector := by
  cases order with
  | nil => rfl
  | cons sec rest => rfl

/-- The sector whose build starts becomes REWRITING (R142). -/
theorem sector_startBuild (x : SectorId) : (s.startBuild f order).sector x =
    { s.sector x with planState := if order.head? = some x then .rewriting else (s.sector x).planState } := by
  cases order with
  | nil => rfl
  | cons sec rest =>
    refine (sector_setSector s sec _ x).trans ?_
    by_cases hx : x = sec
    · subst hx
      simp
    · simp [hx, Ne.symm hx]

end

theorem ports_completeBuild (s : State) (f : FrameNo) (sec : SectorId) :
    (s.completeBuild f sec).ports = ((s.cellsOf sec).foldl (State.buildCell f) s).ports := rfl

theorem finishBuild_of_some {s : State} {pass : Pass} (h : s.pass = some pass) :
    s.finishBuild = (s.completeBuild pass.frame pass.building).startBuild pass.frame pass.rest := by
  rw [State.finishBuild, h]

section
variable {s : State} {pass : Pass} (hp : s.pass = some pass)
include hp

/-- The next build starts after the completed one and touches no plan, no carriage and no notice. -/
theorem EngineFrame.finishBuild_late :
    EngineFrame (fun _ => False) (s.completeBuild pass.frame pass.building) s.finishBuild := by
  rw [finishBuild_of_some hp]
  exact .startBuild _ _ _

theorem ports_finishBuild (hlists : ∀ c, (s.rosterEntry c).carriages.Nodup) :
    s.finishBuild.ports =
      ((s.cellsOf pass.building).foldl (s.chargeCellAgain s.finishBuild pass.frame) s).ports := by
  have built : NoticesAgree ((s.cellsOf pass.building).foldl (State.buildCell pass.frame) s)
      ((s.cellsOf pass.building).foldl (s.chargeCellAgain s.finishBuild pass.frame) s) :=
    .buildCells hlists (cellsOf_nodup s _) (.refl s) (.refl s) fun c _ x =>
      ((EngineFrame.finishBuild_late hp).carriages c id x).symm
  rw [finishBuild_of_some hp, ports_startBuild, ports_completeBuild, ← finishBuild_of_some hp]
  exact built.ports

theorem sector_finishBuild (x : SectorId) : s.finishBuild.sector x =
    { s.sector x with
      planState :=
        if pass.rest.head? = some x then .rewriting else if x = pass.building then .stable else (s.sector x).planState
      builtFor := if x = pass.building then some pass.frame else (s.sector x).builtFor } := by
  rw [finishBuild_of_some hp, sector_startBuild, sector_completeBuild]
  by_cases hx : x = pass.building
  · simp [hx]
  · simp [hx]

theorem startSector_finishBuild : s.finishBuild.startSector = s.sectorAfter pass.building := by
  rw [finishBuild_of_some hp, startSector_startBuild, startSector_completeBuild]

end

/-! ### The cells of the built sector -/

section
variable {s : State} {pass : Pass} (hp : s.pass = some pass) {c : CellId} (hsec : sectorOf c = pass.building)
  (hin : s.inVenue c = true)
include hp hsec hin

/-- A cell of the built sector, seen at its own build. -/
theorem finishBuild_cell :
    ∃ v, EngineFrame (· ≠ c) s v ∧ EngineFrame (· ≠ c) (State.buildCell pass.frame v c) s.finishBuild := by
  obtain ⟨_, hc⟩ := (inVenue_iff s c).1 hin
  obtain ⟨v, hv, ht⟩ := EngineFrame.completeBuild_cell s pass.frame hc
  exact ⟨v, hv, (hsec ▸ ht).trans ((EngineFrame.finishBuild_late hp).mono fun _ => False.elim)⟩

variable (hn : (s.rosterEntry c).carriages.Nodup)
include hn

/-- The plan of a built cell: the runs of its granted carriages, and what they leave of the pool (R133). -/
theorem planEntry_finishBuild :
    let ticket := (s.sector (sectorOf c)).reservation
    let runs := (s.rosterEntry c).carriages.filterMap (s.finishBuild.grantedRun c)
    ∃ general, s.finishBuild.planEntry c = ⟨⟨controlRun pass.frame, ticket, runs, general⟩, some pass.frame, false⟩ ∧
      general + slotSum runs = 80 - controlRun pass.frame - ticket ∧ slotSum runs ≤ s.buildCap pass.frame c := by
  intro ticket runs
  obtain ⟨v, hv, ht⟩ := finishBuild_cell hp hsec hin
  have replays : (v.builtPlan pass.frame c).replays = runs := replays_built hv ht hn
  have reserved : (v.builtPlan pass.frame c).ticket = ticket := reservation_built hv _
  have general := general_builtPlan v pass.frame c
  have total := (within_granted v pass.frame c).total
  rw [replays, reservation_built hv] at general
  rw [show (v.granted pass.frame c).runs = runs from replays, buildCap_built hv] at total
  refine ⟨(v.builtPlan pass.frame c).general, ?_, general, Nat.le_of_add_right_le total.le⟩
  rw [planEntry_built ht, ← replays, ← reserved]
  rfl

/-- A carriage of a built cell is charged with the smallest of its want, 32, and what the grants before its own leave of the
cap (R127 to R130, R134). -/
theorem carriage?_finishBuild {before after : List StreamId} {x : StreamId}
    (hlist : (s.rosterEntry c).carriages = before ++ x :: after) {k : Carriage} (hk : s.carriage? c x = some k) :
    s.finishBuild.carriage? c x = some (heldCarriage k (grantOf (s.wantOf x k)
      (s.buildCap pass.frame c - (before.map (grantBetween s s.finishBuild c)).sum)) (s.demand x)) := by
  obtain ⟨v, hv, ht⟩ := finishBuild_cell hp hsec hin
  exact carriage?_builtCell hv ht hn hlist hk

end

/-! ### The other cells and carriages -/

/-- A carriage is there after a build exactly when it was there before (R134). -/
theorem carriage?_finishBuild_of_none {s : State} (hs : s.chargeable) {c : CellId} {x : StreamId}
    (h : s.carriage? c x = none) : s.finishBuild.carriage? c x = none := by
  have members := congrArg (tableFind · (carriageKey c x)) (Charged.finishBuild s hs).members
  simp only [tableFind_map] at members
  rw [State.carriage?] at h ⊢
  rw [h, Option.map_none, Option.map_eq_none_iff] at members
  exact members

/-- A cell outside the venue or of another sector is as it was (R142). -/
theorem EngineFrame.finishBuild_others {s : State} {pass : Pass} (hp : s.pass = some pass)
    (hused : pass.building.val < s.venue.sectorsInUse) :
    EngineFrame (fun c => s.inVenue c = true ∧ sectorOf c = pass.building) s s.finishBuild :=
  (EngineFrame.completeBuild s _ _ fun c hc => (mem_cellsOf_iff hused c).1 hc).trans
    ((EngineFrame.finishBuild_late hp).mono fun _ => False.elim)

/-- What a charge changes of a carriage (R128 to R130, R134). -/
theorem heldCarriage_rest (k : Carriage) (g demand : Nat) :
    heldCarriage k g demand =
      { k with
        balance := (heldCarriage k g demand).balance
        starved := (heldCarriage k g demand).starved
        lastGrant := (heldCarriage k g demand).lastGrant } := by
  unfold heldCarriage
  split
  · rfl
  · rfl

/-- The account of a MULTICAST carriage after its charge (R128, R129). -/
theorem account_heldCarriage {k : Carriage} (hm : k.mode = .multicast) (g demand : Nat) :
    let k' := heldCarriage k g demand
    let b := k.balance + (k'.lastGrant : Int) * (payload k.minLevel : Int) - demand
    k'.balance = max (-4 * (demand : Int)) b ∧
      k'.starved = if b < -4 * (demand : Int) then true else k.starved && decide (b < 0) := by
  rw [heldCarriage, if_pos hm]
  exact ⟨rfl, rfl⟩

end Sys2Proof.Machine

open Sys2Proof Sys2Proof.Machine

/-- Settles O49: each cell is followed to its own build, which the builds of the other cells leave alone; its grants come down
its list out of the cap, and the notices are those of the same charges made again in the same order. -/
theorem sectorBuildPlansEveryCell : Obligations.SectorBuildPlansEveryCell := by
  intro s pass hs hp hpass hlists _ sec control ticket cap
  have ⟨_, _, hmost, _⟩ := hpass
  obtain ⟨_, hnodup, _, hused⟩ := passOk_pass hpass hp
  have hsecUsed : sec.val < s.venue.sectorsInUse := hused sec List.mem_cons_self
  obtain ⟨hwf, _, _, hcells⟩ := hlists
  have hnodups : ∀ c, (s.rosterEntry c).carriages.Nodup := fun c => nodup_of_grantOrder (hcells c).2
  have frame := EngineFrame.finishBuild s
  have others := EngineFrame.finishBuild_others hp hsecUsed
  have hsector := sector_finishBuild hp
  obtain ⟨hbuilding, _⟩ := List.nodup_cons.1 hnodup
  refine ⟨s.finishBuild, ?_, frame.eq, fun p => (frame.ports p).toPortFrame, ?_, fun c hin hc => ?_, fun c hc => ?_, ?_, ?_,
    ?_, ?_, fun z hz => ?_, fun z => others.policies z, ?_⟩
  · rw [exec_sectorBuildCompletion, settle_of_settled hs]
  · exact ⟨s.cellsOf sec, cellsOf_sorted s sec, mem_cellsOf_iff hsecUsed, ports_finishBuild hp hnodups⟩
  · have hn := hnodups c
    have hcap : s.buildCap pass.frame c = cap := by rw [State.buildCap, hc]; rfl
    obtain ⟨general, entry, hgeneral, hleft⟩ := planEntry_finishBuild hp hc hin hn
    rw [hc] at entry hgeneral
    intro e grant
    have he : e = _ := entry
    rw [he]
    refine ⟨rfl, rfl, rfl, rfl, hgeneral, hcap ▸ hleft, rfl, fun x k hk => ?_⟩
    obtain ⟨before, after, hlist⟩ := List.append_of_mem (((hcells c).1 x).2 (by rw [hk]; rfl))
    have own := carriage?_finishBuild hp hc hin hn hlist hk
    refine ⟨_, own, heldCarriage_rest k _ _, fun hm => heldCarriage_of_other hm _ _, ?_⟩
    intro hm d b
    refine ⟨fun before' after' hlist' => ?_, account_heldCarriage hm _ _⟩
    have again := carriage?_finishBuild hp hc hin hn hlist' hk
    rw [Option.some.inj (own.symm.trans again), (heldCarriage_of_multicast hm _ _).1, hcap]
    rfl
  · exact ⟨others.plans c hc, others.carriages c hc⟩
  · exact fun c x => carriage?_finishBuild_of_none ⟨hwf, hnodups⟩
  · rw [startSector_finishBuild hp]
    exact sectorAfter_val hmost sec
  · rw [hsector]
    exact if_pos rfl
  · rw [hsector]
    have notNext : pass.rest.head? ≠ some sec := fun h => hbuilding (List.mem_of_head? h)
    exact (if_neg notNext).trans (if_pos rfl)
  · rw [hsector]
    exact if_neg hz
  · cases hrest : pass.rest with
    | nil =>
      rw [finishBuild_of_some hp, hrest]
      rfl
    | cons z rest =>
      refine ⟨by rw [finishBuild_of_some hp, hrest]; rfl, ?_⟩
      rw [hsector, hrest]
      exact if_pos rfl
end

section
namespace Sys2Proof.Machine

open Sys2Proof

/-! ## The sectors and the running pass (R138, R142) -/

/-- What `passOk` says of the sectors in use, the plan states and the running pass. -/
def State.passAgrees (s : State) : Prop :=
  1 ≤ s.venue.sectorsInUse ∧ s.venue.sectorsInUse ≤ 32 ∧ s.startSector.val < s.venue.sectorsInUse ∧
    (∀ sec, (s.sector sec).planState = .rewriting ↔ ∃ pass, s.pass = some pass ∧ pass.building = sec) ∧
    ∀ pass, s.pass = some pass →
      pass.frame = s.clock.frame + 1 ∧ pass.building = s.startSector ∧ (pass.building :: pass.rest).Nodup ∧
        s.inPassOrder (pass.building :: pass.rest) = true ∧
        ∀ sec ∈ pass.building :: pass.rest, sec.val < s.venue.sectorsInUse

theorem passOk_iff (s : State) : s.passOk ↔ s.lifecycleOk ∧ s.passAgrees := .rfl

/-- No sector is REWRITING. -/
def State.allStable (s : State) : Prop := ∀ sec, (s.sector sec).planState = .stable

theorem stable_iff (ps : PlanState) : ps = .stable ↔ ps ≠ .rewriting := by
  cases ps <;> decide

/-- While no pass runs, no sector is REWRITING. -/
theorem State.passAgrees.allStable {s : State} (h : s.passAgrees) (hp : s.pass = none) : s.allStable := by
  obtain ⟨_, _, _, hrewriting, _⟩ := h
  intro sec
  rw [stable_iff, Ne, hrewriting, hp]
  rintro ⟨_, h, _⟩
  cases h

/-- The sectors agree with no pass where none is REWRITING. -/
theorem passAgrees_of_none {s : State} (hleast : 1 ≤ s.venue.sectorsInUse) (hmost : s.venue.sectorsInUse ≤ 32)
    (hstart : s.startSector.val < s.venue.sectorsInUse) (hp : s.pass = none) (hstable : s.allStable) :
    s.passAgrees := by
  simp only [State.passAgrees, hp, hstable _]
  simpa using ⟨hleast, hmost, hstart⟩

/-- The sectors agree with a pass where the REWRITING one is the one that it builds. -/
theorem passAgrees_of_some {s : State} {pass : Pass} (hleast : 1 ≤ s.venue.sectorsInUse)
    (hmost : s.venue.sectorsInUse ≤ 32) (hp : s.pass = some pass) (hframe : pass.frame = s.clock.frame + 1)
    (hbuilding : pass.building = s.startSector) (honce : (pass.building :: pass.rest).Nodup)
    (horder : s.inPassOrder (pass.building :: pass.rest) = true)
    (hused : ∀ sec ∈ pass.building :: pass.rest, sec.val < s.venue.sectorsInUse)
    (hstates : ∀ sec, (s.sector sec).planState = .rewriting ↔ pass.building = sec) : s.passAgrees := by
  simp only [State.passAgrees, hp, hstates, Option.some.injEq, exists_eq_left']
  refine ⟨hleast, hmost, hbuilding ▸ hused _ List.mem_cons_self, fun _ => trivial, ?_⟩
  rintro _ rfl
  exact ⟨hframe, hbuilding, honce, horder, hused⟩

/-! ### What leaves them as they were -/

/-- `t` has the sectors in use, the frame, the pass, the start sector and the plan states of `s`. -/
structure PassFrame (s t : State) : Prop where
  venue : t.venue = s.venue
  frame : t.clock.frame = s.clock.frame
  pass : t.pass = s.pass
  startSector : t.startSector = s.startSector
  planStates : ∀ sec, (t.sector sec).planState = (s.sector sec).planState

theorem PassFrame.refl (s : State) : PassFrame s s := ⟨rfl, rfl, rfl, rfl, fun _ => rfl⟩

theorem PassFrame.trans {s t u : State} (f : PassFrame s t) (f' : PassFrame t u) : PassFrame s u where
  venue := f'.venue.trans f.venue
  frame := f'.frame.trans f.frame
  pass := f'.pass.trans f.pass
  startSector := f'.startSector.trans f.startSector
  planStates sec := (f'.planStates sec).trans (f.planStates sec)

theorem inPassOrder_congr {s t : State} (hv : t.venue = s.venue) (l : List SectorId) :
    t.inPassOrder l = s.inPassOrder l := by
  have after : ∀ sec, t.sectorAfter sec = s.sectorAfter sec := fun sec => by
    rw [State.sectorAfter, State.sectorAfter, hv]
  induction l with
  | nil => rfl
  | cons a l ih =>
    cases l with
    | nil => rfl
    | cons b l => rw [State.inPassOrder, State.inPassOrder, after, ih]

theorem PassFrame.passAgrees {s t : State} (f : PassFrame s t) (h : s.passAgrees) : t.passAgrees := by
  obtain ⟨hleast, hmost, hstart, hrewriting, hpass⟩ := h
  simp only [State.passAgrees, f.venue, f.frame, f.pass, f.startSector, f.planStates, inPassOrder_congr f.venue]
  exact ⟨hleast, hmost, hstart, hrewriting, hpass⟩

theorem RecordFrame.toPass {fresh : StationState → Prop} {s t : State} (f : RecordFrame fresh s t) : PassFrame s t :=
  ⟨f.venue, by rw [f.clock], f.pass, f.startSector, fun sec => by rw [f.toWindow.sector]⟩

theorem BusFrame.toPass {s t : State} (f : BusFrame s t) : PassFrame s t := by
  obtain ⟨⟨po, ar, an, rfl⟩, _⟩ := f
  exact ⟨rfl, rfl, rfl, rfl, fun _ => rfl⟩

theorem PassFrame.notify (s : State) (dest : PortUnit → Bool) (n : Notice) (tag : Tag) :
    PassFrame s (s.notify dest n tag) := ⟨rfl, rfl, rfl, rfl, fun _ => rfl⟩

theorem PassFrame.setClock (s : State) (c : ClockState) (strobe : Instant) : PassFrame s (s.setClock c strobe) :=
  ⟨rfl, rfl, rfl, rfl, fun _ => rfl⟩

theorem PassFrame.finishCommand (p : PortId) (cmd : Cmd) (r : Reply) : PassFrame r.state (finishCommand p cmd r) :=
  ⟨rfl, rfl, rfl, rfl, fun _ => rfl⟩

theorem PassFrame.momentPulse (s : State) (now : Instant) : PassFrame s (s.momentPulse now) := by
  unfold State.momentPulse State.openSurge
  split
  · exact .refl s
  · exact .refl s
  · dsimp only
    split <;> exact ⟨rfl, rfl, rfl, rfl, fun _ => rfl⟩

theorem PassFrame.setPolicies (s : State) (secs : List SectorId) (n : Nat) (pr : Priority) :
    PassFrame s (s.setPolicies secs n pr) := by
  refine List.foldlRecOn secs _ (.refl s) fun u hu sec _ => hu.trans ⟨rfl, rfl, rfl, rfl, fun z => ?_⟩
  rw [sector_setSector]
  split
  · next h => rw [h]
  · rfl

/-! ### The commands -/

section
variable (p : PortId) (cmd : Cmd) (s : State)

theorem PassFrame.setSectorPolicy : PassFrame s (setSectorPolicyReply p cmd s).state := by
  unfold setSectorPolicyReply
  split
  · split
    · exact .refl s
    · exact .setPolicies s _ _ _
  · exact .refl s
  · exact .refl s
  · exact .refl s

theorem PassFrame.declarePort : PassFrame s (declarePortReply p cmd s).state := by
  have declared : ∀ r, PassFrame s (s.declare p r) := fun _ => ⟨rfl, rfl, rfl, rfl, fun _ => rfl⟩
  unfold declarePortReply
  split
  · exact declared _
  · unfold declareCell
    split
    · split
      · exact .refl s
      · split
        · exact .refl s
        · exact declared _
    · exact .refl s
    · exact .refl s
  · exact declared _
  · exact declared _
  · exact .refl s

theorem PassFrame.armMoment : PassFrame s (armMomentReply cmd s).state := by
  unfold armMomentReply
  split
  · exact ⟨rfl, rfl, rfl, rfl, fun _ => rfl⟩
  · exact .refl s
  · exact .refl s

/-- No command but SET_VENUE, OPEN_MATCH and CLOSE_MATCH reaches the venue, the pass or a plan state. -/
theorem PassFrame.bodyOf {c : Command} (hvenue : c ≠ .setVenue) (hopen : c ≠ .openMatch) (hclose : c ≠ .closeMatch)
    (now : Instant) : PassFrame s (bodyOf c p now cmd s).state := by
  have query : ∀ {t : State}, t = s → PassFrame s t := by
    rintro t rfl
    exact .refl t
  cases c with
  | setVenue => exact absurd rfl hvenue
  | openMatch => exact absurd rfl hopen
  | closeMatch => exact absurd rfl hclose
  | declarePort => exact .declarePort p cmd s
  | setSectorPolicy => exact .setSectorPolicy p cmd s
  | armMoment => exact .armMoment cmd s
  | readStation => exact query (readStationReply_state cmd s)
  | readTicket => exact query (readTicketReply_state cmd s)
  | readStream => exact query (readStreamReply_state cmd s)
  | readCarriage => exact query (readCarriageReply_state cmd s)
  | readZone => exact query (readZoneReply_state cmd s)
  | readCell => exact query (readCellReply_state cmd s)
  | associate => exact (associateReply_frame p cmd s).toPass
  | detach => exact (detachReply_frame p cmd s).toPass
  | reportLevel => exact (reportLevelReply_frame p cmd s).toPass
  | claim => exact (claimReply_frame p cmd s).toPass
  | release => exact (releaseReply_frame p cmd s).toPass
  | withdraw => exact (withdrawReply_frame p cmd s).toPass
  | loadTickets => exact (loadTicketsReply_frame (fresh := becomesAssociated) cmd s).toPass
  | admitTicket => exact (admitTicketReply_frame (fresh := becomesAssociated) cmd s).toPass
  | exitTicket => exact (exitTicketReply_frame (fresh := becomesAssociated) cmd s).toPass
  | voidTicket => exact (voidTicketReply_frame (fresh := becomesAssociated) cmd s).toPass
  | setZone => exact (setZoneReply_frame (fresh := becomesAssociated) cmd s).toPass
  | bindTicket => exact (bindTicketReply_frame (fresh := becomesAssociated) cmd s).toPass
  | unbindTicket => exact (unbindTicketReply_frame (fresh := becomesAssociated) cmd s).toPass
  | openStream => exact (openStreamReply_frame (fresh := becomesAssociated) p cmd s).toPass
  | setStreamRate => exact (setStreamRateReply_frame (fresh := becomesAssociated) cmd s).toPass
  | closeStream => exact (closeStreamReply_frame (fresh := becomesAssociated) cmd s).toPass
  | subscribe => exact (subscribeReply_frame (fresh := becomesAssociated) cmd s).toPass
  | unsubscribe => exact (unsubscribeReply_frame (fresh := becomesAssociated) cmd s).toPass

end

/-! ### A pass that begins -/

theorem EngineFrame.clock {cells : CellId → Prop} {s t : State} (f : EngineFrame cells s t) : t.clock = s.clock := by
  obtain ⟨ca, pl, se, pa, st, po, rfl⟩ := f.rest
  rfl

theorem EngineFrame.passEnded (s : State) : EngineFrame (fun _ => True) s s.passEnded := by
  unfold State.passEnded
  split
  · exact .refl s
  · exact .endPass s _ fun _ _ _ => trivial

/-- A sector, the sectors from it up to `m` in ascending order, and then a list that may follow the last of them, are in
the order of a pass. -/
theorem inPassOrder_append {s : State} (hmost : s.venue.sectorsInUse ≤ 32) {m : Nat} (hm : m ≤ s.venue.sectorsInUse)
    {after : List SectorId} (hafter : ∀ z : SectorId, z.val + 1 = m → s.inPassOrder (z :: after) = true)
    {l : List SectorId} {a : SectorId} (ha : a.val < m) (hsorted : l.Pairwise (· < ·))
    (hl : ∀ z, z ∈ l ↔ a < z ∧ z.val < m) : s.inPassOrder (a :: (l ++ after)) = true := by
  induction l generalizing a with
  | nil =>
    refine hafter a ?_
    by_contra hne
    have hnext : a.val + 1 < m := by omega
    exact absurd ((hl ⟨a.val + 1, by omega⟩).2 ⟨Fin.lt_def.2 (Nat.lt_succ_self _), hnext⟩) List.not_mem_nil
  | cons b l ih =>
    obtain ⟨hab, hb⟩ := (hl b).1 List.mem_cons_self
    obtain ⟨hbl, hsorted⟩ := List.pairwise_cons.1 hsorted
    have hab := Fin.lt_def.1 hab
    have least : b.val ≤ a.val + 1 := by
      have hnext : (⟨a.val + 1, by omega⟩ : SectorId) ∈ b :: l :=
        (hl _).2 ⟨Fin.lt_def.2 (Nat.lt_succ_self _), by dsimp only; omega⟩
      rcases List.mem_cons.1 hnext with h | h
      · exact (congrArg Fin.val h).ge
      · exact (Fin.lt_def.1 (hbl _ h)).le
    have next : b = s.sectorAfter a := Fin.ext (by rw [sectorAfter_val hmost, if_pos (by omega)]; omega)
    have rest : ∀ z, z ∈ l ↔ b < z ∧ z.val < m := fun z => by
      refine ⟨fun hz => ⟨hbl z hz, ((hl z).1 (List.mem_cons_of_mem b hz)).2⟩, fun ⟨hbz, hzm⟩ => ?_⟩
      exact (List.mem_cons.1 ((hl z).2 ⟨Fin.lt_def.2 (hab.trans (Fin.lt_def.1 hbz)), hzm⟩)).resolve_left hbz.ne'
    rw [List.cons_append, State.inPassOrder, Bool.and_eq_true, decide_eq_true_eq]
    exact ⟨next, ih hb hsorted rest⟩

/-- The sectors in use from `first` on, and then those below it, are in the order of a pass. -/
theorem inPassOrder_wrapped {s : State} (hmost : s.venue.sectorsInUse ≤ 32) {first : SectorId}
    (hfirst : first.val < s.venue.sectorsInUse) {above below : List SectorId} (ha : above.Pairwise (· < ·))
    (hb : below.Pairwise (· < ·)) (hina : ∀ sec, sec ∈ above ↔ first < sec ∧ sec.val < s.venue.sectorsInUse)
    (hinb : ∀ sec, sec ∈ below ↔ sec < first) : s.inPassOrder (first :: (above ++ below)) = true := by
  refine inPassOrder_append hmost le_rfl (fun z hz => ?_) hfirst ha hina
  cases below with
  | nil => rfl
  | cons y below =>
    obtain ⟨hy, hb⟩ := List.pairwise_cons.1 hb
    have hyfirst := (hinb y).1 List.mem_cons_self
    have zero : y = 0 := by
      rcases List.mem_cons.1 ((hinb 0).2 ((Fin.zero_le y).trans_lt hyfirst)) with h | h
      · exact h.symm
      · exact absurd (hy 0 h) (Fin.not_lt_zero y)
    have next : y = s.sectorAfter z := Fin.ext (by rw [sectorAfter_val hmost, if_neg (by omega), zero]; rfl)
    have rest : ∀ x, x ∈ below ↔ y < x ∧ x.val < first.val := fun x => by
      refine ⟨fun hx => ⟨hy x hx, (hinb x).1 (List.mem_cons_of_mem y hx)⟩, fun ⟨hyx, hx⟩ => ?_⟩
      exact (List.mem_cons.1 ((hinb x).2 hx)).resolve_left hyx.ne'
    have order := inPassOrder_append hmost hfirst.le (after := []) (fun _ _ => rfl) hyfirst hb rest
    rw [List.append_nil] at order
    rw [State.inPassOrder, Bool.and_eq_true, decide_eq_true_eq]
    exact ⟨next, order⟩

/-- A pass that begins takes each sector in use once, in the order of a pass (R142). -/
theorem passAgrees_beginPass {s : State} (hleast : 1 ≤ s.venue.sectorsInUse) (hmost : s.venue.sectorsInUse ≤ 32)
    (hstart : s.startSector.val < s.venue.sectorsInUse) (hstable : s.allStable) {f : FrameNo}
    (hf : f = s.clock.frame + 1) : (s.beginPass f).passAgrees := by
  obtain ⟨above, below, hpass, ha, hb, hina, hinb⟩ := pass_beginPass hstart f
  have frame : EngineFrame (fun _ => True) s (s.beginPass f) := .startBuild s f _
  have venue := frame.venue
  have clock := frame.clock
  have start : (s.beginPass f).startSector = s.startSector := startSector_startBuild s f _
  have once : (s.startSector :: (above ++ below)).Nodup := by
    rw [List.nodup_cons, List.nodup_append, List.mem_append, hina, hinb]
    refine ⟨fun h => h.elim (fun h => lt_irrefl _ h.1) (lt_irrefl _), ha.imp ne_of_lt, hb.imp ne_of_lt,
      fun x hx y hy => ?_⟩
    exact (((hinb y).1 hy).trans ((hina x).1 hx).1).ne'
  have used : ∀ sec ∈ s.startSector :: (above ++ below), sec.val < s.venue.sectorsInUse := fun sec hsec => by
    rcases List.mem_cons.1 hsec with rfl | hsec
    · exact hstart
    · exact (List.mem_append.1 hsec).elim (fun h => ((hina sec).1 h).2)
        fun h => (Fin.lt_def.1 ((hinb sec).1 h)).trans hstart
  refine passAgrees_of_some (venue ▸ hleast) (venue ▸ hmost) hpass (clock ▸ hf) start.symm once ?_ (venue ▸ used)
    fun sec => ?_
  · rw [inPassOrder_congr venue]
    exact inPassOrder_wrapped hmost hstart ha hb hina hinb
  · rw [sector_beginPass hstart f, eq_comm (a := s.startSector)]
    by_cases hsec : sec = s.startSector <;> simp [hsec, hstable sec]

/-! ### Builds and boundaries -/

section
variable {s : State} (h : s.passAgrees)
include h

/-- The build after a completed one is that of the sector after it, or the pass ends (R142). -/
theorem State.passAgrees.finishBuild : s.finishBuild.passAgrees := by
  cases hp : s.pass with
  | none => rwa [State.finishBuild, hp]
  | some pass =>
    obtain ⟨hleast, hmost, _, hrewriting, hpass⟩ := h
    obtain ⟨hframe, _, honce, horder, hused⟩ := hpass pass hp
    have venue := (EngineFrame.finishBuild s).venue
    have clock := (EngineFrame.finishBuild s).clock
    have start : s.finishBuild.startSector = s.sectorAfter pass.building := startSector_finishBuild hp
    have hnext : (s.sectorAfter pass.building).val < s.venue.sectorsInUse := by
      rw [sectorAfter_val hmost]
      split <;> omega
    have states : ∀ sec, (s.finishBuild.sector sec).planState = .rewriting ↔ pass.rest.head? = some sec := fun sec => by
      have old : (s.sector sec).planState = .rewriting ↔ sec = pass.building := by
        rw [hrewriting, hp]
        simp [eq_comm]
      rw [sector_finishBuild hp]
      by_cases hhead : pass.rest.head? = some sec
      · simp [hhead]
      · by_cases hsec : sec = pass.building <;> simp [hhead, hsec, old]
    have ended : s.finishBuild.pass = match pass.rest with
        | [] => none
        | sec :: rest => some ⟨pass.frame, sec, rest⟩ := by
      rw [finishBuild_of_some hp]
      cases pass.rest <;> rfl
    cases hrest : pass.rest with
    | nil =>
      rw [hrest] at ended states
      exact passAgrees_of_none (venue ▸ hleast) (venue ▸ hmost) (venue ▸ start ▸ hnext) ended
        fun sec => (stable_iff _).2 fun hsec => by cases (states sec).1 hsec
    | cons first more =>
      have after := sectorAfter_building horder hrest
      rw [hrest] at ended states honce horder hused
      rw [State.inPassOrder, Bool.and_eq_true] at horder
      refine passAgrees_of_some (venue ▸ hleast) (venue ▸ hmost) ended (clock ▸ hframe) (start.trans after).symm
        (List.nodup_cons.1 honce).2 ?_ (fun sec hsec => venue ▸ hused sec (List.mem_cons_of_mem _ hsec)) fun sec => ?_
      · rw [inPassOrder_congr venue]
        exact horder.2
      · rw [states, List.head?_cons, Option.some.injEq]

/-- No sector is REWRITING once a running pass is ended (R144). -/
theorem State.passAgrees.allStable_passEnded {u : State} (hpass : u.pass = s.pass)
    (hsectors : ∀ sec, u.sector sec = s.sector sec) : u.passEnded.allStable := by
  intro sec
  cases hp : s.pass with
  | none =>
    rw [passEnded_of_none (hpass.trans hp), hsectors]
    exact h.allStable hp sec
  | some pass =>
    obtain ⟨_, _, _, hrewriting, _⟩ := h
    rw [passEnded_of_some (hpass.trans hp), sector_endPass, hsectors]
    by_cases hsec : sec = pass.building
    · exact if_pos hsec
    · refine (if_neg hsec).trans ((stable_iff _).2 ?_)
      rw [Ne, hrewriting, hp]
      rintro ⟨_, h, rfl⟩
      cases h
      exact hsec rfl

/-- The pass that a boundary begins builds the frame after the new one (R142, R144). -/
theorem State.passAgrees.boundary (now : Instant) (early : List BoundaryAct) : (s.boundary now early).passAgrees := by
  have stable := h.allStable_passEnded (pass_beforePlan s now early) (sector_beforePlan s now early)
  obtain ⟨hleast, hmost, hstart, _⟩ := h
  have ended := EngineFrame.passEnded (s.beforePlan now early)
  have before := RecordFrame.beforePlan s now early
  have venue : (s.beforePlan now early).passEnded.venue = s.venue := ended.venue.trans before.venue
  rw [boundary_eq_beginPass]
  refine passAgrees_beginPass (venue ▸ hleast) (venue ▸ hmost) (startSector_passEnded ?_ ?_) stable ?_
  · exact before.venue ▸ hmost
  · exact before.venue ▸ before.startSector ▸ hstart
  · rw [ended.clock, clock_beforePlan]

theorem State.passAgrees.frameStrobe (now : Instant) (early : List BoundaryAct) : (s.frameStrobe now early).passAgrees := by
  have clocked := (PassFrame.setClock _ .external now).passAgrees (h.boundary now early)
  unfold State.frameStrobe
  split
  · exact h
  · split
    · exact clocked
    · exact h
  · split
    · exact (PassFrame.notify _ _ _ _).passAgrees clocked
    · exact h

theorem State.passAgrees.strobeLossExpiry (early : List BoundaryAct) : (s.strobeLossExpiry early).passAgrees := by
  unfold State.strobeLossExpiry
  split
  · exact h
  · exact h
  · exact ((PassFrame.setClock _ _ _).trans (.notify _ _ _ _)).passAgrees (h.boundary _ early)

theorem State.passAgrees.dividerExpiry (early : List BoundaryAct) : (s.dividerExpiry early).passAgrees := by
  unfold State.dividerExpiry
  split
  · exact h
  · exact h
  · exact h.boundary _ early

/-! ### The venue, the opening and the end of a match -/

/-- SET_VENUE comes in SETUP, where no pass runs and the start sector is 0, and gives at least one sector (R3). -/
theorem State.passAgrees.setVenue (hl : s.lifecycleOk) (hd : s.device = .setup) (cmd : Cmd) :
    (setVenueReply cmd s).state.passAgrees := by
  simp only [State.lifecycleOk, hd] at hl
  obtain ⟨_, _, _, _, _, _, _, _, _, _, hp, hstart⟩ := hl
  unfold setVenueReply
  split
  · exact h
  · split
    · exact h
    · next hcount =>
      split
      · exact h
      · simp only [Bool.or_eq_true, venueCountBad_iff] at hcount
        have hleast : 1 ≤ (cmd.word 0 2).toNat := by omega
        have hmost : (cmd.word 0 2).toNat ≤ 32 := by omega
        exact passAgrees_of_none hleast hmost (by rw [hstart]; exact hleast) hp (h.allStable hp)

/-- OPEN_MATCH begins the pass that builds frame 1, every sector being STABLE (R5). -/
theorem State.passAgrees.openMatch (now : Instant) (cmd : Cmd) : (openMatchReply now cmd s).state.passAgrees := by
  have ⟨hleast, hmost, hstart, _⟩ := h
  unfold openMatchReply
  split
  · exact h
  · obtain ⟨u, hu⟩ : ∃ u : State, u = { s with
        device := .service, clock := openClock s.venue.frameSource now, plans := s.defaultWindow 8 (some 0) true
        sectors := s.settledSectors (some 0) } := ⟨_, rfl⟩
    have opened : s.openAt now cmd.tag = (u.beginPass 1).notify isDeclared .matchOpen cmd.tag := by rw [hu]; rfl
    have stable : u.allStable := fun sec => by rw [State.sector, hu, tableRead_settledSectors]
    have begun : (u.beginPass 1).passAgrees :=
      passAgrees_beginPass (hu ▸ hleast) (hu ▸ hmost) (hu ▸ hstart) stable (by rw [hu]; rfl)
    dsimp only
    rw [opened]
    exact (PassFrame.notify _ _ _ _).passAgrees begun

/-- CLOSE_MATCH leaves no pass, every sector STABLE and the start sector 0 (R6). -/
theorem State.passAgrees.closeMatch (cmd : Cmd) : (closeMatchReply cmd s).state.passAgrees := by
  obtain ⟨hleast, hmost, _⟩ := h
  refine passAgrees_of_none hleast hmost hleast rfl fun sec => ?_
  have sectors : (closeMatchReply cmd s).state.sectors = s.settledSectors none := by
    simp only [closeMatchReply, State.closeAt, State.notify_sectors]
  rw [State.sector, sectors, tableRead_settledSectors]

theorem State.passAgrees.bodyOf (hl : s.lifecycleOk) {c : Command} (hd : stateRefusal s.device c = none) (p : PortId)
    (now : Instant) (cmd : Cmd) : (bodyOf c p now cmd s).state.passAgrees := by
  by_cases hvenue : c = .setVenue
  · subst hvenue
    refine h.setVenue hl ?_ cmd
    cases hs : s.device with
    | setup => rfl
    | service =>
      rw [hs] at hd
      cases hd
  by_cases hopen : c = .openMatch
  · subst hopen
    exact h.openMatch now cmd
  by_cases hclose : c = .closeMatch
  · subst hclose
    exact h.closeMatch cmd
  exact (PassFrame.bodyOf p cmd s hvenue hopen hclose now).passAgrees h

end

/-! ### All rows -/

theorem passAgrees_resetPart (s : State) : s.resetPart.passAgrees :=
  passAgrees_of_none (by decide : 1 ≤ 32) (by decide : 32 ≤ 32) (by decide : 0 < 32) rfl fun _ => rfl

/-- Every row keeps the sectors in agreement with the running pass. -/
theorem Effect.passAgrees {i : Instr} {s t : State} (he : Effect s i t) (hl : s.lifecycleOk) (h : s.passAgrees) :
    t.passAgrees := by
  have settled : s.settle.passAgrees := (RecordFrame.settle becomesAssociated_associated s).toPass.passAgrees h
  cases he with
  | reset => exact passAgrees_resetPart s
  | act a => exact (RecordFrame.act becomesAssociated_associated s a).toPass.passAgrees h
  | command c p now =>
    rcases serve_effect p c (bodyOf c p now) s.settle with hb | ⟨cmd, hd, hserved⟩
    · exact hb.toPass.passAgrees settled
    · rw [hserved]
      exact (PassFrame.finishCommand p cmd _).passAgrees (settled.bodyOf (lifecycleOk_settle hl) hd p now cmd)
  | strobe now early => exact settled.frameStrobe now early
  | loss early => exact settled.strobeLossExpiry early
  | divider early => exact settled.dividerExpiry early
  | pulse now => exact (PassFrame.momentPulse s.settle now).passAgrees settled
  | build => exact settled.finishBuild
  | bus i t hb => exact hb.toPass.passAgrees settled

end Sys2Proof.Machine

open Sys2Proof Sys2Proof.Machine

/-- Settles O59, by the kinds of effect that a row can have: a pass begins with every sector STABLE, each completed build
hands over to the sector after it, and nothing else reaches the pass or a plan state. -/
theorem stepKeepsPassOk : Obligations.StepKeepsPassOk := by
  intro s t hs ht
  unfold step at ht
  split at ht
  · cases ht
    exact hs
  · next c rest _ =>
    have waiting : PassFrame s { s with pending := rest } := ⟨rfl, rfl, rfl, rfl, fun _ => rfl⟩
    obtain ⟨hl, hagrees⟩ := (passOk_iff s).1 hs
    have effect := effect_of_exec ht
    exact (passOk_iff t).2 ⟨effect.lifecycleOk hl, effect.passAgrees hl (waiting.passAgrees hagrees)⟩
end

section
namespace Sys2Proof.Machine

open Sys2Proof

/-! ## SET_SECTOR_POLICY (R139) -/

theorem asPriority_of_code {w : Word} {pr : Priority} (h : w.toNat = priorityCode pr) : asPriority w = some pr := by
  cases pr <;> simp [asPriority, h, priorityCode]

theorem asPriority_of_large {w : Word} (h : 1 < w.toNat) : asPriority w = none := by
  unfold asPriority
  split
  · omega
  · omega
  · rfl

theorem asReservation_eq (w : Word) : asReservation w = min 16 (w.toNat % 256) := by
  rw [asReservation, clampTo_eq (Nat.zero_le 16), Nat.zero_max]

/-- The sectors in use that a value and a mask match, in ascending order. -/
def State.matching (s : State) (value mask : SectorId) : List SectorId := s.sectorsUsed.filter (scopeMatches value mask)

section
variable (s : State) (value mask : SectorId)

theorem mem_matching (sec : SectorId) : sec ∈ s.matching value mask ↔
    sec.val < s.venue.sectorsInUse ∧ Nat.land sec.val mask.val = Nat.land value.val mask.val := by
  rw [State.matching, List.mem_filter, mem_sectorsUsed, scopeMatches, beq_iff_eq]

theorem matching_sorted : (s.matching value mask).Pairwise (· < ·) :=
  (sectorsUsed_sorted s).sublist List.filter_sublist

end

section
variable {s : State} {p : PortId} {value mask : SectorId}

theorem foreignSector_eq_none (h : ∀ sec ∈ s.matching value mask, ownsSector (s.port p) sec = true) :
    s.foreignSector p value mask = none :=
  List.find?_eq_none.2 fun sec hsec => by simp [h sec hsec]

/-- The lowest matching sector that the port does not own. -/
theorem foreignSector_eq {sec : SectorId} (hsec : sec ∈ s.matching value mask)
    (hforeign : ownsSector (s.port p) sec = false)
    (hbelow : ∀ z < sec, z ∈ s.matching value mask → ownsSector (s.port p) z = true) :
    s.foreignSector p value mask = some sec :=
  find?_of_sorted (matching_sorted s value mask) hsec (by simp [hforeign]) fun z hz hlt => by simp [hbelow z hlt hz]

end

/-! ### The policies replaced -/

section
variable (secs : List SectorId) (n : Nat) (pr : Priority) (s : State)

theorem setPolicies_rest : s.setPolicies secs n pr = { s with sectors := (s.setPolicies secs n pr).sectors } := by
  unfold State.setPolicies
  induction secs generalizing s with
  | nil => rfl
  | cons sec secs ih => exact ih (s.setSector sec { s.sector sec with reservation := n, priority := pr })

/-- The given sectors have the new policy, and every other record stands (R139). -/
theorem sector_setPolicies (x : SectorId) : (s.setPolicies secs n pr).sector x =
    if x ∈ secs then { s.sector x with reservation := n, priority := pr } else s.sector x := by
  unfold State.setPolicies
  induction secs generalizing s with
  | nil => rfl
  | cons sec secs ih =>
    rw [List.foldl_cons, ih, sector_setSector]
    by_cases hx : x = sec
    · subst hx
      simp
    · simp [hx]

end

/-! ### The replies -/

section
variable {p : PortId} {cmd : Cmd} {s : State}

theorem setSectorPolicyReply_of_owned {value mask : SectorId} {pr : Priority} (hv : (cmd.op 2).toNat = value.val)
    (hm : (cmd.op 3).toNat = mask.val) (hpr : (cmd.op 5).toNat = priorityCode pr)
    (h : ∀ sec ∈ s.matching value mask, ownsSector (s.port p) sec = true) :
    setSectorPolicyReply p cmd s =
      ⟨.ok, [.bytes 1 (s.matching value mask).length, .bytes 1 (asReservation (cmd.op 4)),
          itemMarks [reservationClamped (cmd.op 4)]] ++ s.policyBefore (s.matching value mask),
        s.setPolicies (s.matching value mask) (asReservation (cmd.op 4)) pr⟩ := by
  simp only [setSectorPolicyReply, asSector_of_val hv, asSector_of_val hm, asPriority_of_code hpr,
    foreignSector_eq_none h]
  rfl

theorem setSectorPolicyReply_of_foreign {value mask sec : SectorId} {pr : Priority}
    (hv : (cmd.op 2).toNat = value.val) (hm : (cmd.op 3).toNat = mask.val) (hpr : (cmd.op 5).toNat = priorityCode pr)
    (h : s.foreignSector p value mask = some sec) :
    setSectorPolicyReply p cmd s = refuse .notOwner [.bytes 1 sec.val] s := by
  simp only [setSectorPolicyReply, asSector_of_val hv, asSector_of_val hm, asPriority_of_code hpr, h]

theorem setSectorPolicyReply_of_bad
    (h : 31 < (cmd.op 2).toNat ∨ 31 < (cmd.op 3).toNat ∨ 1 < (cmd.op 5).toNat) :
    setSectorPolicyReply p cmd s = refuse .badOperand [] s := by
  unfold setSectorPolicyReply
  split
  · next value mask pr hv hm hpr =>
    rcases h with h | h | h
    · rw [asSector_of_large h] at hv
      cases hv
    · rw [asSector_of_large h] at hm
      cases hm
    · rw [asPriority_of_large h] at hpr
      cases hpr
  · rfl
  · rfl
  · rfl

end

end Sys2Proof.Machine

open Sys2Proof Sys2Proof.Machine

/-- Settles O50, by the operands in range and the lowest matching sector that the port does not own, if there is one. -/
theorem sectorPolicyIsSetWhole : Obligations.SectorPolicyIsSetWhole := by
  intro s p cmd hpass matches_ reservation
  have reply : ∀ {r}, setSectorPolicyReply p cmd s = r →
      exec (.setSectorPolicy p) s = .next (finishCommand p cmd r) := fun hr =>
    (exec_rowOf_of_passes hpass 0).trans (by rw [bodyOf, hr])
  have scope : (cmd.op 2).toNat ≤ 31 → (cmd.op 3).toNat ≤ 31 → ∃ value mask : SectorId,
      (cmd.op 2).toNat = value.val ∧ (cmd.op 3).toNat = mask.val ∧ ∀ sec, sec ∈ s.matching value mask ↔ matches_ sec :=
    fun hv hm => ⟨⟨_, Nat.lt_succ_of_le hv⟩, ⟨_, Nat.lt_succ_of_le hm⟩, rfl, rfl, mem_matching s _ _⟩
  refine ⟨fun pr hv hm hpr howned => ?_, fun hbad => reply (setSectorPolicyReply_of_bad hbad),
    fun sec hv hm hpr hsec hforeign hbelow => ?_⟩
  · obtain ⟨value, mask, hv, hm, hmem⟩ := scope hv hm
    have done := setSectorPolicyReply_of_owned hv hm hpr fun sec hsec => howned sec ((hmem sec).1 hsec)
    have hsector := sector_setPolicies (s.matching value mask) reservation pr s
    rw [asReservation_eq] at done
    refine ⟨_, _, s.matching value mask, reply done, setPolicies_rest _ _ _ s, matching_sorted s value mask, hmem,
      fun sec hsec => ?_, fun sec hsec => ?_, fun first rest h => ?_⟩
    · rw [hsector, if_pos ((hmem sec).2 hsec)]
    · rw [hsector, if_neg fun h => hsec ((hmem sec).1 h)]
    · rw [h]
      rfl
  · obtain ⟨value, mask, hv, hm, hmem⟩ := scope hv hm
    obtain ⟨pr, hpr⟩ : ∃ pr, (cmd.op 5).toNat = priorityCode pr := by
      have : (cmd.op 5).toNat = 0 ∨ (cmd.op 5).toNat = 1 := by omega
      exact this.elim (⟨.normal, ·⟩) (⟨.priority, ·⟩)
    exact reply (setSectorPolicyReply_of_foreign hv hm hpr
      (foreignSector_eq ((hmem sec).2 hsec) hforeign fun z hz h => hbelow z hz ((hmem z).1 h)))
end

section
namespace Sys2Proof.Machine

open Sys2Proof

/-! ## The holder's reads (R152, R153, R169, R170) -/

/-! ### What a word number addresses -/

/-- A word of the own window (R153). -/
theorem target_ownWord (p : PortId) {o : Nat} (ho : o < 0x1000) : target p (ownWord p o) = windowTarget o := by
  have number : (ownWord p o).toNat = windowBase p + o := by
    rw [ownWord, windowBase, BitVec.toNat_ofNat]
    omega
  rw [target, number, if_pos (by omega), Nat.add_sub_cancel_left]

/-- A word of the Plan Window, which is no word of the own window (R153). -/
theorem target_planWordAddr (p : PortId) (w : BitVec 15) : target p (planWordAddr w) = .plan w.toNat := by
  have number : (planWordAddr w).toNat = 0x4000 + w.toNat := by
    rw [planWordAddr, BitVec.toNat_ofNat]
    omega
  have last : windowBase p + 0x1000 ≤ 0x4000 := by
    rw [windowBase]
    omega
  rw [target, number, if_neg (by omega), if_pos (by omega), Nat.add_sub_cancel_left]

theorem windowTarget_queue {k : Nat} (hk : k < 0x200) : windowTarget (0x400 + k) = .queue k := by
  rw [windowTarget, if_neg (by omega), if_pos (by omega), Nat.add_sub_cancel_left]

/-! ### Reads that are answered -/

theorem barred_of_active {u : PortUnit} (h : u.state = .active) (t : Target) : barred u t = false := by
  simp [barred, h]

theorem barred_control (u : PortUnit) : barred u .control = false := by
  simp [barred]

section
variable {s : State} {p : PortId} (hs : s.settled) (hh : s.arbiter.holder = some p)
include hs hh

/-- A word of the holder's own window that it may read and that has an answer (R152, R159). -/
theorem exec_wordRead_ownWord {o : Nat} (ho : o < 0x1000) {t : Target} (ht : windowTarget o = t)
    (hb : barred (s.port p) t = false) {answer : BusAnswer} (hr : s.readTarget (s.port p) t = some answer) :
    exec (.wordRead p (ownWord p o)) s = .next { s with answer := some answer } := by
  rw [exec_wordRead, settle_of_settled hs, State.busRead, if_pos hh, target_ownWord p ho, ht, hb, hr]
  rfl

/-- The Plan Window as an ACTIVE holder reads it (R141). -/
theorem exec_planWindowRead_of_active (ha : (s.port p).state = .active) (w : BitVec 15) :
    exec (.planWindowRead p w) s = .next { s with answer := some (s.readPlan w.toNat) } := by
  rw [exec_planWindowRead, settle_of_settled hs, State.busRead, if_pos hh, target_planWordAddr,
    barred_of_active ha]
  rfl

end

/-! ### Plan entries (R169) -/

/-- Word `j` of the entry of cell `c` is answered RETRY when the cell is in the venue and its sector REWRITING, and as it
stands otherwise (R141). -/
theorem readPlan_entry (s : State) (c : CellId) (j : Fin 32) :
    s.readPlan (32 * c.val + j.val) =
      if s.inVenue c = true ∧ (s.sector (sectorOf c)).planState = .rewriting then .retry
      else .ackRead (planWord (s.planEntry c) j.val) := by
  have quotient : (32 * c.val + j.val) / 32 = c.val := by omega
  have offset : (32 * c.val + j.val) % 32 = j.val := by omega
  have cell : planCell (32 * c.val + j.val) = some c := by
    simp only [planCell, quotient, c.isLt, dif_pos]
  simp only [State.readPlan, cell, offset]

/-- The run words of a plan, as numbers (R169). -/
def runNumbers (p : Plan) : List Nat :=
  [p.control * 2 ^ 16] ++ (if p.ticket = 0 then [] else [1 * 2 ^ 30 + p.ticket * 2 ^ 16]) ++
    p.replays.map (fun r => 2 * 2 ^ 30 + r.slots * 2 ^ 16 + r.stream.val * 2 ^ 8 + r.level.val) ++
    (if p.general = 0 then [] else [3 * 2 ^ 30 + p.general * 2 ^ 16])

/-- A run with no stream and no level is its class and its slots alone. -/
theorem runWord_plain (cls slots : Nat) : runWord cls slots 0 0 = BitVec.ofNat 32 (cls * 2 ^ 30 + slots * 2 ^ 16) := by
  have low : ∀ high : Nat, high + 0 * 2 ^ 8 + 0 = high := by simp
  exact congrArg (BitVec.ofNat 32) (low _)

theorem runWord_control (slots : Nat) : runWord 0 slots 0 0 = BitVec.ofNat 32 (slots * 2 ^ 16) := by
  rw [runWord_plain, Nat.zero_mul, Nat.zero_add]

theorem runWords_eq (p : Plan) : runWords p = (runNumbers p).map (BitVec.ofNat 32) := by
  have replays : p.replays.map (fun r => runWord 2 r.slots r.stream.val r.level.val) =
      (p.replays.map fun r => 2 * 2 ^ 30 + r.slots * 2 ^ 16 + r.stream.val * 2 ^ 8 + r.level.val).map
        (BitVec.ofNat 32) := (List.map_map ..).symm
  rw [runWords, runNumbers, List.map_append, List.map_append, List.map_append, apply_ite (List.map _),
    apply_ite (List.map _), replays, runWord_control, runWord_plain, runWord_plain]
  rfl

/-- The words of an entry: its frame, its marks with the number of its runs, and its first 19 runs (R169). -/
theorem planWord_eq (e : PlanEntry) (j : Nat) : planWord e j =
    if j = 0 then e.frame.getD 0
    else if j = 1 then
      BitVec.ofNat 32 ((if e.frame = none then 0 else 2 ^ 31) + (if e.held then 2 ^ 30 else 0) +
        (runNumbers e.plan).length % 32)
    else if j ≤ 20 then BitVec.ofNat 32 ((runNumbers e.plan).getD (j - 2) 0) else 0 := by
  match j with
  | 0 => rfl
  | 1 =>
    have marked : bit e.frame.isSome * 2 ^ 31 = if e.frame = none then 0 else 2 ^ 31 := by
      cases e.frame <;> simp [bit]
    have held : bit e.held * 2 ^ 30 = if e.held then 2 ^ 30 else 0 := by
      cases e.held <;> simp [bit]
    rw [planWord, marked, held, runWords_eq, List.length_map]
    rfl
  | k + 2 =>
    have last : k + 2 ≤ 20 ↔ k < 19 := by omega
    have run : (runWords e.plan).getD k 0 = BitVec.ofNat 32 ((runNumbers e.plan).getD k 0) := by
      rw [runWords_eq]
      exact List.getD_map _ _ (BitVec.ofNat 32)
    rw [if_neg (Nat.succ_ne_zero _), if_neg (by omega), Nat.add_sub_cancel, planWord, run]
    simp only [last]

/-! ### The port control word (R170) -/

/-- The low half of a port control word: the range of a CELL port, and 0 otherwise (R170). -/
def rangeCode : Role → Nat
  | .cell first last => first.val * 2 ^ 8 + last.val
  | .none | .gate | .replay => 0

theorem controlWord_eq (u : PortUnit) (d : DeviceState) : controlWord u d =
    BitVec.ofNat 32 (deviceStateCode d * 2 ^ 28 + portStateCode u.state * 2 ^ 24 + roleCode u.role * 2 ^ 16 +
      rangeCode u.role) := by
  have noRange : ∀ high : Nat, high + 0 * 2 ^ 8 + 0 = high + 0 := by simp
  unfold controlWord
  cases u.role with
  | cell first last => exact congrArg (BitVec.ofNat 32) (Nat.add_assoc _ _ _)
  | none => exact congrArg (BitVec.ofNat 32) (noRange _)
  | gate => exact congrArg (BitVec.ofNat 32) (noRange _)
  | replay => exact congrArg (BitVec.ofNat 32) (noRange _)

end Sys2Proof.Machine

open Sys2Proof Sys2Proof.Machine

/-- Settles O6: each word number is followed to what it addresses, and a plan entry is read word by word. -/
theorem holderReadsItsWindowAndThePlans : Obligations.HolderReadsItsWindowAndThePlans := by
  intro s p hs hh u reads runs word
  have own : ∀ {o t w}, o < 0x1000 → windowTarget o = t → barred u t = false →
      s.readTarget u t = some (.ackRead w) → reads o w := fun ho ht hb hr => exec_wordRead_ownWord hs hh ho ht hb hr
  refine ⟨fun ha => ?_, own (by decide) rfl (barred_control u)
    (congrArg (some ∘ BusAnswer.ackRead) (controlWord_eq u s.device))⟩
  have own := fun {o t w} ho ht => own (o := o) (t := t) (w := w) ho ht (barred_of_active ha t)
  have word_eq : ∀ e j, word e j = planWord e j := fun e j => by
    rw [planWord_eq]
    obtain ⟨plan, frame, held⟩ := e
    cases frame <;> rfl
  simp only [BitVec.ofNat_toNat]
  refine ⟨fun k hk => own (by omega) (if_pos hk) rfl, fun k hk => own (by omega) (windowTarget_queue hk) rfl,
    own (by decide) rfl rfl, own (by decide) rfl rfl, own (by decide) rfl rfl, own (by decide) rfl rfl,
    own (by decide) rfl rfl, own (by decide) rfl rfl, fun c j => ?_⟩
  have number : (BitVec.ofNat 15 (32 * c.val + j.val)).toNat = 32 * c.val + j.val := by
    rw [BitVec.toNat_ofNat]
    omega
  rw [exec_planWindowRead_of_active hs hh ha, number, readPlan_entry, word_eq]
  split <;> rfl
end

section
namespace Sys2Proof.Machine

open Sys2Proof

/-! ## What the part itself writes into a port -/

/-- `v` is `u` after notices, in records of four words, and FRAME requests (R162, R165). -/
inductive Signalled (u : PortUnit) : PortUnit → Prop where
  | refl : Signalled u u
  | notice {v : PortUnit} (h : Signalled u v) (kind : Nat) (record : List Word) (now : FrameNo)
      (hlen : record.length = 4) : Signalled u (deliver kind record now v)
  | frame {v : PortUnit} (h : Signalled u v) : Signalled u (raise frameBit v)

theorem Signalled.trans {u v w : PortUnit} (h : Signalled u v) (h' : Signalled v w) : Signalled u w := by
  induction h' with
  | refl => exact h
  | notice _ kind record now hlen ih => exact ih.notice kind record now hlen
  | frame _ ih => exact ih.frame

theorem Signalled.portFrame {u v : PortUnit} (h : Signalled u v) : PortFrame u v := by
  induction h with
  | refl => exact .refl u
  | notice _ kind record now _ ih => exact ih.trans (deliver_frame kind record now _)
  | frame _ ih => exact ih.trans (.raise frameBit _)

/-- At a QUARANTINED port notices are discarded, and only FRAME is set (R159, R165). -/
theorem Signalled.of_quarantined {u v : PortUnit} (h : Signalled u v) (hq : u.state = .quarantined) :
    v = u ∨ v = { u with request := u.request ||| 4 } := by
  induction h with
  | refl => exact .inl rfl
  | @notice w h kind record now _ ih =>
    have discarded := deliver_cases kind record now w
    rw [h.portFrame.state.trans hq] at discarded
    rcases discarded with ⟨_, hd⟩ | ⟨hd, _⟩ | ⟨hd, _⟩ | ⟨hd, _⟩
    · rwa [hd]
    · cases hd
    · cases hd
    · cases hd
  | frame _ ih =>
    rcases ih with rfl | rfl
    · exact .inr rfl
    · have twice : u.request ||| 4 ||| 4 = u.request ||| 4 := by rw [BitVec.or_assoc, BitVec.or_self]
      exact .inr (by simp only [raise, frameBit, twice])

/-! ### The limits of a port -/

theorem noticeRecord_length (n : Notice) (tag : Tag) (frame now : FrameNo) : (noticeRecord n tag frame now).length = 4 := rfl

/-- A record written at the tail keeps a queue with a free entry within its limit (R162). -/
theorem wf_enqueue {u : PortUnit} (h : u.wf) (hroom : heldNotices u < 128) {record : List Word} (hlen : record.length = 4) :
    (enqueue record u).wf := by
  obtain ⟨hposted, _, hring, hqueue⟩ := h
  have held : heldNotices (enqueue record u) = heldNotices u + 1 := by
    simp only [heldNotices, enqueue, raise] at hroom ⊢
    bv_omega
  refine ⟨hposted, by omega, hring, memoryWf_storeWords hqueue record ?_⟩
  have entry : entryIndex u.tail < 128 := Nat.mod_lt _ (by decide)
  omega

/-- A notice added to OVERFLOW changes two words of the last entry (R163). -/
theorem wf_addDropped {u : PortUnit} (h : u.wf) (kind : Nat) : (addDropped kind u).wf := by
  obtain ⟨hposted, hheld, hring, hqueue⟩ := h
  have entry : entryIndex (u.tail - 1) < 128 := Nat.mod_lt _ (by decide)
  exact ⟨hposted, hheld, hring, memoryWf_storeWord (memoryWf_storeWord hqueue (by omega) _) (by omega) _⟩

theorem Signalled.wf {u v : PortUnit} (h : Signalled u v) (hu : u.wf) : v.wf := by
  induction h with
  | refl => exact hu
  | frame _ ih => exact ih
  | notice _ kind record now hlen ih =>
    rcases deliver_cases kind record now _ with ⟨_, hd⟩ | ⟨_, hroom, hd⟩ | ⟨_, hroom, hd⟩ | ⟨_, _, hd⟩
    · rwa [hd]
    · rw [hd]
      exact wf_enqueue ih (by omega) hlen
    · rw [hd]
      exact wf_enqueue ih (by omega) rfl
    · rw [hd]
      exact wf_addDropped ih kind

/-! ### The frame -/

/-- `t` has the ports of `s`, after notices and FRAME requests, and its arbiter. -/
structure Signals (s t : State) : Prop where
  arbiter : t.arbiter = s.arbiter
  ports : ∀ p, Signalled (s.port p) (t.port p)

/-- What a change beside the ports and the arbiter keeps. -/
theorem Signals.beside {s t : State} (h : (t.arbiter, t.ports) = (s.arbiter, s.ports)) : Signals s t := by
  obtain ⟨arbiter, ports⟩ := Prod.mk.inj h
  refine ⟨arbiter, fun p => ?_⟩
  rw [State.port, State.port, ports]
  exact .refl

theorem Signals.refl (s : State) : Signals s s := .beside (by rfl)

theorem Signals.trans {s t u : State} (h : Signals s t) (h' : Signals t u) : Signals s u :=
  ⟨h'.arbiter.trans h.arbiter, fun p => (h.ports p).trans (h'.ports p)⟩

theorem Signals.foldl {α : Type} {act : State → α → State} (h : ∀ s a, Signals s (act s a)) (l : List α) (s : State) :
    Signals s (l.foldl act s) := by
  induction l generalizing s with
  | nil => exact .refl s
  | cons a l ih => exact (h s a).trans (ih _)

theorem Signals.notifyAt {s t : State} (h : Signals s t) (dest : PortUnit → Bool) (n : Notice) (tag : Tag) (f : FrameNo) :
    Signals s (t.notifyAt dest n tag f) :=
  ⟨h.arbiter, fun p => by
    rw [port_notifyAt]
    split
    · exact (h.ports p).notice _ _ _ rfl
    · exact h.ports p⟩

theorem Signals.notify {s t : State} (h : Signals s t) (dest : PortUnit → Bool) (n : Notice) (tag : Tag) :
    Signals s (t.notify dest n tag) := h.notifyAt dest n tag _

/-! ### Joins, leaves and evaluations -/

theorem Signals.evalMode {s t : State} (h : Signals s t) (c : CellId) (x : StreamId) (tag : Tag) :
    Signals s (t.evalMode c x tag) := by
  refine h.trans ?_
  unfold State.evalMode
  split
  · exact .refl t
  · split
    · dsimp only
      split
      · exact .notify (.beside (by rfl)) _ _ _
      · split
        · exact .notify (.notify (.beside (by rfl)) _ _ _) _ _ _
        · exact .beside (by rfl)
    · split
      · exact .notify (.beside (by rfl)) _ _ _
      · exact .refl t

theorem Signals.joinExisting {s t : State} (h : Signals s t) (c : CellId) (x : StreamId) (l : Level) (tag : Tag) :
    Signals s (t.joinExisting c x l tag) := by
  refine h.trans ?_
  unfold State.joinExisting
  split
  · exact .refl t
  · exact .evalMode (.beside (by rfl)) c x tag

theorem Signals.join (s : State) (c : CellId) (x : StreamId) (l : Level) (tag : Tag) : Signals s (s.join c x l tag) := by
  unfold State.join
  split
  · exact .joinExisting (.beside (by rfl)) c x l tag
  · exact .joinExisting (.refl s) c x l tag

theorem Signals.leave (s : State) (c : CellId) (x : StreamId) (l : Level) (tag : Tag) : Signals s (s.leave c x l tag) := by
  unfold State.leave
  split
  · exact .refl s
  · dsimp only
    split
    · split
      · exact .beside (by rfl)
      · exact .notify (.beside (by rfl)) _ _ _
    · exact .evalMode (.beside (by rfl)) c x tag

theorem Signals.moveLevel (s : State) (c : CellId) (x : StreamId) (old new : Level) (tag : Tag) :
    Signals s (s.moveLevel c x old new tag) := by
  unfold State.moveLevel
  split
  · exact .refl s
  · exact .evalMode (.beside (by rfl)) c x tag

theorem Signals.setSubState {s t : State} (h : Signals s t) (g : Handle) (x : StreamId) (v : SubState) :
    Signals s (t.setSubState g x v) := by
  refine h.trans ?_
  unfold State.setSubState
  split
  · exact .refl t
  · exact .beside (by rfl)

theorem Signals.evalEntry (g : Handle) (tag : Tag) (joined : Bool) (new : Option StreamId) (s : State) (x : StreamId) :
    Signals s (s.evalEntry g tag joined new x) := by
  unfold State.evalEntry
  split
  · exact .refl s
  · next st _ =>
    have joins : ∀ v, Signals s ((s.join st.serving x st.level tag).setSubState g x v) := fun v =>
      .setSubState (.join s st.serving x st.level tag) g x v
    split
    · exact .refl s
    · split
      · split
        · exact .refl s
        · exact joins _
      · dsimp only
        split
        · exact joins _
        · exact (joins _).notify _ _ _
      · dsimp only
        split
        · exact .notify (.setSubState (.leave s _ x _ tag) g x _) _ _ _
        · exact .notify (.setSubState (.refl s) g x _) _ _ _
      · split
        · exact .refl s
        · dsimp only
          split
          · exact .setSubState (.refl s) g x _
          · exact .notify (.setSubState (.refl s) g x _) _ _ _

theorem Signals.evaluateWith {s t : State} (h : Signals s t) (g : Handle) (tag : Tag) (joined : Bool)
    (new : Option StreamId) : Signals s (t.evaluateWith g tag joined new) := by
  refine h.trans ?_
  unfold State.evaluateWith
  split
  · exact .refl t
  · exact .foldl (Signals.evalEntry g tag joined new) _ t

theorem Signals.evaluate {s t : State} (h : Signals s t) (g : Handle) (tag : Tag) : Signals s (t.evaluate g tag) :=
  h.evaluateWith g tag true none

theorem Signals.removeSub {s t : State} (h : Signals s t) (g : Handle) (x : StreamId) : Signals s (t.removeSub g x) := by
  refine h.trans ?_
  unfold State.removeSub
  split
  · exact .refl t
  · exact .beside (by rfl)

theorem Signals.leaveAndRemove (s : State) (g : Handle) (x : StreamId) (tag : Tag) :
    Signals s (s.leaveAndRemove g x tag) := by
  unfold State.leaveAndRemove
  split
  · exact .refl s
  · split
    · exact .refl s
    · dsimp only
      split
      · exact .removeSub (.leave s _ x _ tag) g x
      · exact .removeSub (.refl s) g x

/-- The two sides of a binding are written beside the ports (R92). -/
theorem Signals.bindingSides (s : State) (g : Handle) (t : TicketHandle) (n : Option TicketHandle) (m : Option Handle) :
    let u := match s.station? g with
      | none => s
      | some st => s.setStation g { st with ticket := n }
    Signals s (match u.ticket? t with
      | none => u
      | some k => u.setTicket t { k with station := m }) := by
  intro u
  have station : Signals s u := by
    unfold u
    split <;> exact .beside (by rfl)
  split
  · exact station
  · exact station.trans (.beside (by rfl))

theorem Signals.clearBinding {s t : State} (h : Signals s t) (g : Handle) (n : TicketHandle) (cause : UnbindCause)
    (tag : Tag) : Signals s (t.clearBinding g n cause tag) :=
  h.trans ((Signals.bindingSides t g n none none).notify _ _ _)

theorem Signals.makeBinding {s t : State} (h : Signals s t) (g : Handle) (n : TicketHandle) (tag : Tag) :
    Signals s (t.makeBinding g n tag) :=
  h.trans ((Signals.bindingSides t g n (some n) (some g)).evaluate g tag)

/-! ### The acts of a boundary -/

theorem Signals.completeHandover (s : State) (g : Handle) (by_ : Completion) : Signals s (s.completeHandover g by_) := by
  have leaveOld : ∀ (old : CellId) (l : Level) (tag : Tag) (subs : List Subscription) (s : State),
      Signals s (s.leaveOld old l tag subs) := fun old l tag subs s =>
    .foldl (fun s e => by
      split
      · exact .leave s old e.stream l tag
      · exact .refl s) subs s
  unfold State.completeHandover
  split
  · exact .refl s
  · split
    · exact .refl s
    · exact .refl s
    · exact .notify (.evaluateWith (.trans (.beside (by rfl)) (leaveOld _ _ _ _ _)) _ _ _ _) _ _ _

theorem Signals.abandonClaim (s : State) (g : Handle) (lapsed : Bool) : Signals s (s.abandonClaim g lapsed) := by
  unfold State.abandonClaim
  split
  · exact .refl s
  · split
    · exact .refl s
    · exact .refl s
    · exact .notify (.beside (by rfl)) _ _ _

theorem Signals.expireClaim (s : State) (g : Handle) : Signals s (s.expireClaim g) := by
  rcases expireClaim_cases s g with he | ⟨_, _, _, _, _, _, he⟩
  · rw [he]
    exact .refl s
  · rw [he]
    split
    · exact .abandonClaim s g true
    · exact .completeHandover s g .deadline

theorem Signals.expireLinger (s : State) (g : Handle) : Signals s (s.expireLinger g) := by
  unfold State.expireLinger
  split
  · exact .refl s
  · next st _ =>
    split
    · exact .refl s
    · exact .refl s
    · next tag _ =>
      have subs : Signals s (s.removeAllSubs g tag st.subs) :=
        .foldl (fun s (e : Subscription) => .notify (.removeSub (.refl s) g e.stream) _ _ _) _ s
      dsimp only
      split
      · exact .notify (subs.trans (.beside (by rfl))) _ _ _
      · exact .notify (.trans (subs.clearBinding g _ .expiry tag) (.beside (by rfl))) _ _ _

theorem Signals.completeDrain (s : State) (x : StreamId) : Signals s (s.completeDrain x) := by
  rcases completeDrain_cases s x with he | ⟨_, tag, _, _, he⟩
  · rw [he]
    exact .refl s
  · have entries : Signals s ((s.holders x).foldl (fun s h => s.removeSub h x) s) :=
      .foldl (fun s h => .removeSub (.refl s) h x) _ s
    have carriages : ∀ (cs : List CellId) (s : State), Signals s (cs.foldl (fun s c => s.dropCarriage c x) s) :=
      .foldl fun s c => .beside (by rfl)
    rw [he]
    exact .notify (.trans (entries.trans (carriages _ _)) (.beside (by rfl))) _ _ _

theorem Signals.actSurgeEnd (s : State) : Signals s s.actSurgeEnd := by
  unfold State.actSurgeEnd
  split
  · exact .refl s
  · split
    · exact .beside (by rfl)
    · exact .refl s

theorem Signals.act (s : State) (a : BoundaryAct) : Signals s (s.act a) := by
  cases a with
  | claimDeadline => exact .foldl .expireClaim _ s
  | lingerExpiry => exact .foldl .expireLinger _ s
  | drainCompletion => exact .foldl .completeDrain _ s
  | surgeEnd => exact .actSurgeEnd s

theorem Signals.settle (s : State) : Signals s s.settle :=
  (((Signals.act s .claimDeadline).trans (.act _ .lingerExpiry)).trans (.act _ .drainCompletion)).trans (.act _ .surgeEnd)

/-! ### The Plan Engine and the clock -/

theorem Signals.chargeCarriage (s : State) (c : CellId) (x : StreamId) (k : Carriage) (g : Nat) (f : FrameNo) :
    Signals s (s.chargeCarriage c x k g f) := by
  unfold State.chargeCarriage
  dsimp only
  split
  · exact .beside (by rfl)
  · exact .notifyAt (.beside (by rfl)) _ _ _ _
  · exact .notifyAt (.beside (by rfl)) _ _ _ _

theorem Signals.buildCell (f : FrameNo) (s : State) (c : CellId) : Signals s (State.buildCell f s c) := by
  have grant : ∀ (b : Building) (x : StreamId), Signals b.state (grantNext c f b x).state := by
    intro b x
    unfold grantNext
    split
    · exact .refl _
    · split
      · exact .chargeCarriage _ _ _ _ _ f
      · exact .beside (by rfl)
  have grants : ∀ (xs : List StreamId) (b : Building), Signals b.state (xs.foldl (grantNext c f) b).state := by
    intro xs
    induction xs with
    | nil => exact fun b => .refl _
    | cons x xs ih => exact fun b => (grant b x).trans (ih _)
  exact (grants _ ⟨_, [], s⟩).trans (.beside (by rfl))

theorem Signals.holdCell (f : FrameNo) (s : State) (c : CellId) : Signals s (State.holdCell f s c) := by
  have charged : ∀ (runs : List ReplayRun) (s : State) (x : StreamId), Signals s (chargeHeld c f runs s x) := by
    intro runs s x
    unfold chargeHeld
    split
    · exact .refl s
    · split
      · exact .chargeCarriage s _ _ _ _ f
      · exact .beside (by rfl)
  exact .trans (.beside (by rfl)) (.foldl (charged _) _ _)

theorem Signals.completeBuild (s : State) (f : FrameNo) (sec : SectorId) : Signals s (s.completeBuild f sec) :=
  .trans (.foldl (.buildCell f) _ s) (.beside (by rfl))

theorem Signals.holdSector (f : FrameNo) (s : State) (sec : SectorId) : Signals s (State.holdSector f s sec) :=
  .trans (.foldl (.holdCell f) _ s) (.beside (by rfl))

theorem Signals.startBuild {s t : State} (h : Signals s t) (f : FrameNo) (order : List SectorId) :
    Signals s (t.startBuild f order) := by
  cases order with
  | nil => exact h.trans (.beside (by rfl))
  | cons sec rest => exact h.trans (.beside (by rfl))

theorem Signals.endPass (s : State) (pass : Pass) : Signals s (s.endPass pass) := by
  have late := Signals.completeBuild s pass.frame pass.building
  unfold State.endPass
  dsimp only
  split
  · exact late
  · exact .notifyAt (late.trans (.foldl (.holdSector pass.frame) _ _)) _ _ _ _

theorem Signals.planBoundary {s t : State} (h : Signals s t) : Signals s t.planBoundary := by
  refine h.trans ?_
  unfold State.planBoundary
  split
  · exact .startBuild (.refl t) _ _
  · exact .startBuild (.endPass t _) _ _

theorem Signals.finishBuild (s : State) : Signals s s.finishBuild := by
  unfold State.finishBuild
  split
  · exact .refl s
  · exact .startBuild (.completeBuild s _ _) _ _

theorem Signals.raiseFrame (s : State) : Signals s s.raiseFrame :=
  ⟨rfl, fun p => by
    rw [State.raiseFrame, port_mapPorts]
    exact .frame .refl⟩

/-- A boundary sets FRAME and writes notices (R11). -/
theorem Signals.boundary (s : State) (now : Instant) (early : List BoundaryAct) : Signals s (s.boundary now early) := by
  have next : Signals s (s.advanceFrame now) := .beside (by rfl)
  exact ((next.trans (.raiseFrame _)).trans (.foldl .act early _)).planBoundary

theorem Signals.frameStrobe (s : State) (now : Instant) (early : List BoundaryAct) : Signals s (s.frameStrobe now early) := by
  have boundary := Signals.boundary s now early
  unfold State.frameStrobe
  split
  · exact .refl s
  · split
    · exact boundary.trans (.beside (by rfl))
    · exact .refl s
  · split
    · exact .notify (boundary.trans (.beside (by rfl))) _ _ _
    · exact .refl s

theorem Signals.strobeLossExpiry (s : State) (early : List BoundaryAct) : Signals s (s.strobeLossExpiry early) := by
  unfold State.strobeLossExpiry
  split
  · exact .refl s
  · exact .refl s
  · exact .notify ((Signals.boundary s _ early).trans (.beside (by rfl))) _ _ _

theorem Signals.dividerExpiry (s : State) (early : List BoundaryAct) : Signals s (s.dividerExpiry early) := by
  unfold State.dividerExpiry
  split
  · exact .refl s
  · exact .refl s
  · exact .boundary s _ early

theorem Signals.momentPulse (s : State) (now : Instant) : Signals s (s.momentPulse now) := by
  unfold State.momentPulse
  split
  · exact .refl s
  · exact .refl s
  · dsimp only
    refine .notify ?_ _ _ _
    unfold State.openSurge
    split
    · exact .beside (by rfl)
    · exact .beside (by rfl)

/-! ### The commands -/

section
variable (p : PortId) (cmd : Cmd) (s : State)

theorem Signals.associateReply : Signals s (associateReply p cmd s).state := by
  unfold Machine.associateReply
  split
  · exact .refl s
  · split
    · exact .refl s
    · split
      · exact .refl s
      · unfold associateAt
        dsimp only
        split
        · split
          · exact .refl s
          · split
            · exact .refl s
            · exact .evaluate (.beside (by rfl)) _ cmd.tag
        · split
          · exact .refl s
          · split
            · exact .refl s
            · exact .beside (by rfl)

theorem Signals.detachReply : Signals s (detachReply p cmd s).state := by
  unfold Machine.detachReply
  split
  · exact .refl s
  · split
    · exact .refl s
    · split
      · exact .refl s
      · split
        · exact .refl s
        · split
          · exact .refl s
          · exact .evaluate (.beside (by rfl)) _ cmd.tag
          · exact .completeHandover s _ .detach

theorem Signals.reportLevelReply : Signals s (reportLevelReply p cmd s).state := by
  unfold Machine.reportLevelReply
  split
  · exact .refl s
  · split
    · exact .refl s
    · dsimp only
      split
      · exact .refl s
      · unfold State.replaceLevel
        dsimp only
        split
        · exact .beside (by rfl)
        · refine .trans (.beside (by rfl)) (.foldl (fun s (e : Subscription) => ?_) _ _)
          split
          · exact .moveLevel s _ e.stream _ _ cmd.tag
          · exact .refl s

theorem Signals.claimReply : Signals s (claimReply p cmd s).state := by
  unfold Machine.claimReply
  split
  · exact .refl s
  · split
    · exact .refl s
    · split
      · exact .refl s
      · unfold claimStation
        split
        · exact .refl s
        · split
          · exact .refl s
          · split
            · exact .refl s
            · split <;> exact .refl s
            · split
              · exact .notify (.beside (by rfl)) _ _ _
              · exact .refl s

theorem Signals.releaseReply : Signals s (releaseReply p cmd s).state := by
  unfold Machine.releaseReply
  split
  · exact .refl s
  · split
    · exact .refl s
    · split
      · exact .refl s
      · split
        · exact .refl s
        · split
          · exact .refl s
          · exact .refl s
          · exact .completeHandover s _ .release

theorem Signals.withdrawReply : Signals s (withdrawReply p cmd s).state := by
  unfold Machine.withdrawReply
  split
  · exact .refl s
  · split
    · exact .refl s
    · split
      · exact .refl s
      · exact .refl s
      · split
        · exact .refl s
        · exact .abandonClaim s _ false

theorem Signals.setSectorPolicyReply : Signals s (setSectorPolicyReply p cmd s).state := by
  have policies : ∀ (secs : List SectorId) (n : Nat) (pr : Priority) (t : State), Signals t (t.setPolicies secs n pr) :=
    fun secs n pr t => .foldl (fun _ _ => .beside (by rfl)) secs t
  unfold Machine.setSectorPolicyReply
  split
  · split
    · exact .refl s
    · exact policies _ _ _ s
  · exact .refl s
  · exact .refl s
  · exact .refl s

theorem Signals.loadTicketsReply : Signals s (loadTicketsReply cmd s).state := by
  have loaded : ∀ ts : List Ticket, Signals s (ts.foldl State.loadTicket s) := fun ts =>
    .foldl (fun _ _ => .beside (by rfl)) ts s
  unfold Machine.loadTicketsReply
  split
  · exact .refl s
  · split
    · exact .refl s
    · split
      · exact .refl s
      · exact loaded _

theorem Signals.evaluateBound {s t : State} (h : Signals s t) (k : Ticket) (tag : Tag) : Signals s (t.evaluateBound k tag) := by
  unfold State.evaluateBound
  split
  · exact h
  · exact h.evaluate _ tag

theorem Signals.admitTicketReply : Signals s (admitTicketReply cmd s).state := by
  unfold Machine.admitTicketReply
  split
  · exact .refl s
  · exact .refl s
  · exact .refl s
  · unfold admitTicketAt
    dsimp only
    split
    · exact .refl s
    · split
      · exact .refl s
      · split
        · exact .refl s
        · split
          · exact .refl s
          · split
            · exact .refl s
            · split
              · exact .refl s
              · exact .evaluateBound (.beside (by rfl)) _ cmd.tag

theorem Signals.exitTicketReply : Signals s (exitTicketReply cmd s).state := by
  unfold Machine.exitTicketReply
  split
  · exact .refl s
  · split
    · exact .refl s
    · split
      · exact .refl s
      · split
        · exact .refl s
        · exact .evaluateBound (.beside (by rfl)) _ cmd.tag

theorem Signals.voidTicketReply : Signals s (voidTicketReply cmd s).state := by
  unfold Machine.voidTicketReply
  split
  · exact .refl s
  · next n k _ =>
    have mark : Signals s (s.markVoid n k) := by
      unfold State.markVoid
      dsimp only
      split <;> exact .beside (by rfl)
    split
    · exact .refl s
    · unfold State.voidRecord
      dsimp only
      split
      · exact mark
      · next g _ =>
        have removed : ∀ (subs : List Subscription) (t : State), Signals t (t.removeTicketed g cmd.tag subs) :=
          .foldl fun t e => .notify (.leaveAndRemove t g e.stream cmd.tag) _ _ _
        exact ((mark.clearBinding g n .voiding cmd.tag).trans (removed _ _)).evaluate g cmd.tag

theorem Signals.bindTicketReply : Signals s (bindTicketReply cmd s).state := by
  unfold Machine.bindTicketReply
  split
  · exact .refl s
  · split
    · exact .refl s
    · unfold bindTicketTo
      split
      · exact .refl s
      · split
        · exact (Signals.refl s).evaluate _ cmd.tag
        · split
          · exact .refl s
          · split
            · exact (Signals.refl s).makeBinding _ _ cmd.tag
            · split
              · exact (((Signals.refl s).clearBinding _ _ .move cmd.tag).evaluate _ cmd.tag).makeBinding _ _ cmd.tag
              · exact .refl s

theorem Signals.unbindTicketReply : Signals s (unbindTicketReply cmd s).state := by
  unfold Machine.unbindTicketReply
  split
  · exact .refl s
  · split
    · exact .refl s
    · exact ((Signals.refl s).clearBinding _ _ .unbind cmd.tag).evaluate _ cmd.tag

theorem Signals.setStreamRateReply : Signals s (setStreamRateReply cmd s).state := by
  have adjust : ∀ (x : StreamId) (r : RateChange) (c : CellId), Signals r.state (adjustCarriage x cmd.tag r c).state := by
    intro x r c
    unfold adjustCarriage
    split
    · exact .refl _
    · exact .evalMode (.beside (by rfl)) c x cmd.tag
  have adjusts : ∀ (x : StreamId) (cs : List CellId) (r : RateChange),
      Signals r.state (cs.foldl (adjustCarriage x cmd.tag) r).state := by
    intro x cs
    induction cs with
    | nil => exact fun r => .refl _
    | cons c cs ih => exact fun r => (adjust x r c).trans (ih _)
  unfold Machine.setStreamRateReply
  split
  · exact .refl s
  · split
    · exact .refl s
    · exact .refl s
    · exact .trans (.beside (by rfl)) (adjusts _ _ ⟨_, 0, 0⟩)

theorem Signals.subscribeReply : Signals s (subscribeReply cmd s).state := by
  unfold Machine.subscribeReply
  split
  · exact .refl s
  · split
    · exact .refl s
    · split
      · exact .refl s
      · exact .refl s
      · unfold subscribeStation
        split
        · exact .refl s
        · split
          · exact .refl s
          · exact .evaluateWith (.beside (by rfl)) _ cmd.tag true _

theorem Signals.unsubscribeReply : Signals s (unsubscribeReply cmd s).state := by
  unfold Machine.unsubscribeReply
  split
  · exact .refl s
  · split
    · exact .refl s
    · split
      · exact .refl s
      · exact .leaveAndRemove s _ _ cmd.tag

theorem Signals.openMatchReply (now : Instant) : Signals s (openMatchReply now cmd s).state := by
  unfold Machine.openMatchReply
  split
  · exact .refl s
  · exact .notify (.startBuild (.beside (by rfl)) _ _) _ _ _

/-- A command's own rule reaches the ports by notices alone, but for DECLARE_PORT, which gives its port a role (R2). -/
theorem Signals.bodyOf (c : Command) (now : Instant) :
    Signals s (bodyOf c p now cmd s).state ∨
      ∃ r, (Machine.bodyOf c p now cmd s).state = s.setPort p { s.port p with role := r } := by
  have query : ∀ {t : State}, t = s → Signals s t ∨ ∃ r, t = s.setPort p { s.port p with role := r } := by
    rintro t rfl
    exact .inl (.refl t)
  cases c with
  | declarePort =>
    simp only [Machine.bodyOf, declarePortReply]
    split
    · exact .inr ⟨_, rfl⟩
    · unfold declareCell
      split
      · split
        · exact .inl (.refl s)
        · split
          · exact .inl (.refl s)
          · exact .inr ⟨_, rfl⟩
      · exact .inl (.refl s)
      · exact .inl (.refl s)
    · exact .inr ⟨_, rfl⟩
    · exact .inr ⟨_, rfl⟩
    · exact .inl (.refl s)
  | setVenue =>
    simp only [Machine.bodyOf, setVenueReply]
    split
    · exact .inl (.refl s)
    · split
      · exact .inl (.refl s)
      · split
        · exact .inl (.refl s)
        · exact .inl (.beside (by rfl))
  | openMatch => exact .inl (.openMatchReply cmd s now)
  | closeMatch => exact .inl (.notify (.beside (by rfl)) _ _ _)
  | readStation => exact query (readStationReply_state cmd s)
  | readTicket => exact query (readTicketReply_state cmd s)
  | readStream => exact query (readStreamReply_state cmd s)
  | readCarriage => exact query (readCarriageReply_state cmd s)
  | readZone => exact query (readZoneReply_state cmd s)
  | readCell => exact query (readCellReply_state cmd s)
  | associate => exact .inl (.associateReply p cmd s)
  | detach => exact .inl (.detachReply p cmd s)
  | reportLevel => exact .inl (.reportLevelReply p cmd s)
  | claim => exact .inl (.claimReply p cmd s)
  | release => exact .inl (.releaseReply p cmd s)
  | withdraw => exact .inl (.withdrawReply p cmd s)
  | setSectorPolicy => exact .inl (.setSectorPolicyReply p cmd s)
  | loadTickets => exact .inl (.loadTicketsReply cmd s)
  | admitTicket => exact .inl (.admitTicketReply cmd s)
  | exitTicket => exact .inl (.exitTicketReply cmd s)
  | voidTicket => exact .inl (.voidTicketReply cmd s)
  | setZone =>
    simp only [Machine.bodyOf, setZoneReply]
    split
    · split
      · exact .inl (.refl s)
      · exact .inl (.beside (by rfl))
    · exact .inl (.refl s)
    · exact .inl (.refl s)
  | bindTicket => exact .inl (.bindTicketReply cmd s)
  | unbindTicket => exact .inl (.unbindTicketReply cmd s)
  | openStream =>
    simp only [Machine.bodyOf, openStreamReply]
    split
    · split
      · exact .inl (.beside (by rfl))
      · exact .inl (.refl s)
      · exact .inl (.refl s)
    · exact .inl (.refl s)
    · exact .inl (.refl s)
    · exact .inl (.refl s)
  | setStreamRate => exact .inl (.setStreamRateReply cmd s)
  | closeStream =>
    simp only [Machine.bodyOf, closeStreamReply]
    split
    · exact .inl (.refl s)
    · split
      · exact .inl (.refl s)
      · exact .inl (.refl s)
      · exact .inl (.beside (by rfl))
  | subscribe => exact .inl (.subscribeReply cmd s)
  | unsubscribe => exact .inl (.unsubscribeReply cmd s)
  | armMoment =>
    simp only [Machine.bodyOf, armMomentReply]
    split
    · exact .inl (.beside (by rfl))
    · exact .inl (.refl s)
    · exact .inl (.refl s)

end

end Sys2Proof.Machine
end

section
namespace Sys2Proof.Machine

open Sys2Proof

/-! ## What a Port Unit keeps of its limits, and of itself while it is QUARANTINED (R154, R159, R162) -/

/-! ### Completion -/

theorem ringElement_lt (u : PortUnit) (k : Nat) : ringElement u k < 64 := Nat.mod_lt _ (by decide)

theorem posted_lt (u : PortUnit) : posted u < 128 := (u.producer - u.consumer).isLt

theorem resultWords_length (items : List Item) : (resultWords items).length = 8 := by
  simp [resultWords]

theorem memoryWf_completeElement {ring : Table Word} (h : memoryWf 1024 ring) {e : Nat} (he : e < 64) (st : Status)
    {results : List Word} (hlen : results.length = 8) : memoryWf 1024 (completeElement ring e st results) :=
  memoryWf_storeWords (memoryWf_storeWord h (by omega) _) results (by omega)

theorem memoryWf_completeRest {ring : Table Word} (h : memoryWf 1024 ring) (c : BitVec 7) (st : Status) (k n : Nat) :
    memoryWf 1024 (completeRest ring c st k n) := by
  induction n with
  | zero => exact h
  | succ n ih => exact memoryWf_completeElement ih (Nat.mod_lt _ (by decide)) st (List.length_replicate ..)

/-- A completion takes its elements from the posted ones (R157). -/
theorem posted_completeCommand {u : PortUnit} {n : Nat} (hn : n ≤ posted u) (notify : Bool) (st : Status)
    (items : List Item) : posted (completeCommand n notify st items u) = posted u - n := by
  have bound := posted_lt u
  rw [posted, (completeCommand_frame n notify st items u).2.2.1, completeCommand_consumer]
  unfold posted at hn bound ⊢
  have small : (BitVec.ofNat 7 n).toNat = n := by
    rw [BitVec.toNat_ofNat]
    omega
  generalize BitVec.ofNat 7 n = m at small
  bv_omega

theorem wf_completeCommand {u : PortUnit} (h : u.wf) {n : Nat} (hn : n ≤ posted u) (notify : Bool) (st : Status)
    (items : List Item) : (completeCommand n notify st items u).wf := by
  obtain ⟨hposted, hheld, hring, hqueue⟩ := h
  obtain ⟨_, _, _, hhead, htail, hq, _, _⟩ := completeCommand_frame n notify st items u
  have done := posted_completeCommand hn notify st items
  refine ⟨by omega, by rwa [heldNotices, hhead, htail], ?_, by rwa [hq]⟩
  have first := memoryWf_completeElement hring (ringElement_lt u 0) st (resultWords_length items)
  cases notify <;> exact memoryWf_completeRest first _ _ _ _

/-! ### Over-long runs (R155) -/

theorem posted_completeOverlong {u : PortUnit} (hn : 1 ≤ posted u) (notify : Bool) :
    posted (completeOverlong notify u) = posted u - 1 := posted_completeCommand hn notify .badLength []

theorem wf_completeOverlong {u : PortUnit} (h : u.wf) (hn : 1 ≤ posted u) (notify : Bool) :
    (completeOverlong notify u).wf := wf_completeCommand h hn notify .badLength []

theorem wf_continueRun {u : PortUnit} (h : u.wf) (n : Nat) : (continueRun n u).wf := by
  induction n generalizing u with
  | zero => exact h
  | succ n ih =>
    unfold continueRun
    split
    · exact h
    · next notify _ =>
      split
      · exact h
      · next hne => exact ih (wf_completeOverlong h (Nat.one_le_iff_ne_zero.2 hne) notify)

theorem wf_startRun {u : PortUnit} (h : u.wf) (hn : 5 ≤ posted u) : (startRun u).wf := by
  have run : ∀ {v : PortUnit} {k : Nat}, v.wf ∧ k + 1 ≤ posted v → ∀ notify,
      (completeOverlong notify v).wf ∧ k ≤ posted (completeOverlong notify v) := fun {v k} hv notify => by
    obtain ⟨hv, hk⟩ := hv
    rw [posted_completeOverlong (by omega)]
    exact ⟨wf_completeOverlong hv (by omega) notify, by omega⟩
  exact (run (k := 0) (run (run (run (run ⟨h, hn⟩ _) _) _) _) _).1

theorem wf_serveOverlong {u : PortUnit} (h : u.wf) : (serveOverlong u).wf := by
  unfold serveOverlong
  split
  · exact h
  · split
    · exact wf_continueRun h _
    · split
      · next hrun => exact wf_continueRun (wf_startRun h hrun.2) _
      · exact h

/-! ### What a Port Unit takes (R155) -/

/-- The command that the elements at the consumer index spell. -/
def frontCommand (u : PortUnit) : Cmd where
  code := (elementWord u (ringElement u 0) 0).setWidth 8
  tag := elementWord u (ringElement u 0) 1
  notify := notifying u 0
  elements := (List.range (commandLength u)).map (elementWords u)

theorem takeable_eq_some {u : PortUnit} {cmd : Cmd} : takeable u = some cmd ↔
    (u.state = .active ∧ u.overlong = none ∧ commandLength u ≤ 4 ∧ commandLength u ≤ posted u) ∧
      frontCommand u = cmd := by
  unfold takeable
  split
  · next h => simp only [h, true_and, and_self, Option.some.injEq, frontCommand]
  · next h => simp only [h, false_and, reduceCtorEq]

theorem frontCommand_length (u : PortUnit) : (frontCommand u).elements.length = commandLength u := by
  simp [frontCommand]

/-! ### Transfers (R152, R153) -/

/-- The words of a ring are numbered within it. -/
theorem target_ring_lt {p : PortId} {a : WordAddr} {k : Nat} (h : target p a = .ring k) : k < 1024 := by
  unfold target windowTarget at h
  split at h
  · split at h
    · cases h
      assumption
    all_goals grind
  · grind

/-- A port RESET leaves ring and queue as they are, with nothing posted and nothing held (R160). -/
theorem wf_resetPort {u : PortUnit} (h : u.wf) : (resetPort u).wf := by
  obtain ⟨_, _, hring, hqueue⟩ := h
  exact ⟨by simp [posted, resetPort], by simp [heldNotices, resetPort], hring, hqueue⟩

/-- A write to the port's own window keeps the port within its limits (R154, R162). -/
theorem wf_writeTarget {u v : PortUnit} {t : Target} {w : Word} (hu : u.wf) (ht : ∀ k, t = .ring k → k < 1024)
    (h : writeTarget u t w = some v) : v.wf := by
  obtain ⟨hposted, hheld, hring, hqueue⟩ := hu
  cases t with
  | ring k =>
    simp only [writeTarget] at h
    split at h <;> cases h
    exact ⟨hposted, hheld, memoryWf_storeWord hring (ht k rfl) w, hqueue⟩
  | producer =>
    simp only [writeTarget] at h
    split at h
    · next hok =>
      cases h
      simp only [producerOk, Bool.and_eq_true, decide_eq_true_eq] at hok
      exact ⟨hok.1.2, hheld, hring, hqueue⟩
    · cases h
  | head =>
    cases h
    unfold writeHead
    dsimp only
    split
    · next hfreed =>
      refine ⟨hposted, ?_, hring, hqueue⟩
      unfold heldNotices at hheld hfreed ⊢
      dsimp only
      bv_omega
    · exact ⟨hposted, by simp [heldNotices], hring, hqueue⟩
  | control =>
    cases h
    split
    · exact wf_resetPort ⟨hposted, hheld, hring, hqueue⟩
    · exact ⟨hposted, hheld, hring, hqueue⟩
  | queue => cases h; exact ⟨hposted, hheld, hring, hqueue⟩
  | request => cases h; exact ⟨hposted, hheld, hring, hqueue⟩
  | enable => cases h; exact ⟨hposted, hheld, hring, hqueue⟩
  | consumer => cases h
  | tail => cases h
  | plan => cases h
  | nothing => cases h

/-! ### The frame -/

/-- `v` is within the limits of a port where `u` is, and where `u` is QUARANTINED it is `u`, with FRAME set or not. -/
structure PortKept (u v : PortUnit) : Prop where
  wf : u.wf → v.wf
  frozen : u.state = .quarantined → v = u ∨ v = { u with request := u.request ||| 4 }

theorem Signalled.kept {u v : PortUnit} (h : Signalled u v) : PortKept u v := ⟨h.wf, h.of_quarantined⟩

theorem PortKept.of_active {u v : PortUnit} (ha : u.state = .active) (hwf : u.wf → v.wf) : PortKept u v :=
  ⟨hwf, fun hq => by rw [ha] at hq; cases hq⟩

/-- `t` keeps every port of `s`, and the bus is not held while a grant is outstanding (R150). -/
structure PortsKept (s t : State) : Prop where
  bus : s.arbiter.holder = none ∨ s.arbiter.grant = none → t.arbiter.holder = none ∨ t.arbiter.grant = none
  ports : ∀ p, PortKept (s.port p) (t.port p)

theorem Signals.kept {s t : State} (h : Signals s t) : PortsKept s t := ⟨by rw [h.arbiter]; exact id, fun p => (h.ports p).kept⟩

end Sys2Proof.Machine
end

section
namespace Sys2Proof.Machine

open Sys2Proof

theorem PortKept.refl (u : PortUnit) : PortKept u u := Signalled.refl.kept

theorem PortKept.trans {u v w : PortUnit} (h : PortKept u v) (h' : PortKept v w) : PortKept u w := by
  refine ⟨h'.wf ∘ h.wf, fun hq => ?_⟩
  have twice : u.request ||| 4 ||| 4 = u.request ||| 4 := by rw [BitVec.or_assoc, BitVec.or_self]
  rcases h.frozen hq with rfl | rfl
  · exact h'.frozen hq
  · rcases h'.frozen hq with rfl | rfl
    · exact .inr rfl
    · exact .inr (by simp only [twice])

theorem PortsKept.refl (s : State) : PortsKept s s := ⟨id, fun _ => .refl _⟩

theorem PortsKept.trans {s t u : State} (h : PortsKept s t) (h' : PortsKept t u) : PortsKept s u :=
  ⟨h'.bus ∘ h.bus, fun p => (h.ports p).trans (h'.ports p)⟩

/-- One port changed. -/
theorem PortsKept.setPort (s : State) {p : PortId} {u : PortUnit} (h : PortKept (s.port p) u) : PortsKept s (s.setPort p u) := by
  refine ⟨id, fun q => ?_⟩
  by_cases hq : q = p
  · subst hq
    rwa [port_setPort_self]
  · rw [port_setPort_of_ne s u hq]
    exact .refl _

theorem PortsKept.setArbiter (s : State) {a : Arbiter}
    (h : s.arbiter.holder = none ∨ s.arbiter.grant = none → a.holder = none ∨ a.grant = none) :
    PortsKept s (s.setArbiter a) := ⟨h, fun _ => .refl _⟩

theorem PortsKept.setAnswer (s : State) (a : BusAnswer) : PortsKept s (s.setAnswer a) := ⟨id, fun _ => .refl _⟩

/-! ### Commands -/

/-- A command that is taken completes elements that were posted, at an ACTIVE port (R155, R157). -/
theorem finishCommand_kept {s : State} {p : PortId} {cmd : Cmd} {r : Reply} (ht : takeable (s.port p) = some cmd)
    (hr : PortsKept s r.state) (hposted : posted (r.state.port p) = posted (s.port p)) :
    PortsKept s (finishCommand p cmd r) := by
  obtain ⟨⟨ha, _, _, hlen⟩, rfl⟩ := takeable_eq_some.1 ht
  refine ⟨hr.bus, fun q => ?_⟩
  by_cases hq : q = p
  · subst hq
    rw [finishCommand_port_self, frontCommand_length]
    exact .of_active ha fun hwf => wf_completeCommand ((hr.ports q).wf hwf) (by omega) _ _ _
  · rw [finishCommand_port_of_ne _ _ hq]
    exact hr.ports q

theorem Signals.posted {s t : State} (h : Signals s t) (p : PortId) : posted (t.port p) = posted (s.port p) := by
  rw [Machine.posted, Machine.posted, (h.ports p).portFrame.producer, (h.ports p).portFrame.consumer]

theorem PortsKept.serve (s : State) (p : PortId) (c : Command) (now : Instant) :
    PortsKept s (serve p c (Machine.bodyOf c p now) s) := by
  rcases serve_cases p c (Machine.bodyOf c p now) s with ⟨h, _⟩ | ⟨cmd, ht, _, h⟩
  · rw [h]
    exact .refl s
  · have active : (s.port p).state = .active := (takeable_eq_some.1 ht).1.1
    rw [h]
    rcases checkedReply_cases p c cmd (Machine.bodyOf c p now) s with ⟨st, hr, _⟩ | ⟨_, _, _, hr⟩
    · rw [hr]
      exact finishCommand_kept ht (.refl s) rfl
    · rw [hr]
      rcases Signals.bodyOf p cmd s c now with hb | ⟨role, hb⟩
      · exact finishCommand_kept ht hb.kept (hb.posted p)
      · refine finishCommand_kept ht ?_ (by rw [hb, port_setPort_self]; rfl)
        rw [hb]
        exact .setPort s (.of_active active id)

theorem PortsKept.serveBadCode (s : State) (p : PortId) : PortsKept s (s.serveBadCode p) := by
  unfold State.serveBadCode
  split
  · exact .refl s
  · next cmd ht =>
    split
    · exact .refl s
    · exact finishCommand_kept ht (.refl s) rfl

theorem PortsKept.serveOverlongAt (s : State) (p : PortId) : PortsKept s (s.serveOverlongAt p) := by
  refine .setPort s ⟨wf_serveOverlong, fun hq => .inl ?_⟩
  rw [serveOverlong, if_pos hq]

/-! ### Arbitration and transfers -/

theorem PortsKept.grantBus (s : State) (lines : BitVec 4) : PortsKept s (s.grantBus lines) := by
  refine .setArbiter s fun h => ?_
  unfold grantNextPort
  dsimp only
  split
  · next hfree => exact .inl hfree.1
  · exact h

theorem PortsKept.raiseAcknowledge (s : State) (p : PortId) : PortsKept s (s.raiseAcknowledge p) := by
  unfold State.raiseAcknowledge
  split
  · exact .setArbiter s fun _ => .inr rfl
  · exact .refl s

theorem PortsKept.withdrawGrant (s : State) (p : PortId) : PortsKept s (s.withdrawGrant p) := by
  unfold State.withdrawGrant
  split
  · exact .setArbiter s fun _ => .inr rfl
  · exact .refl s

theorem PortsKept.dropAcknowledge (s : State) (p : PortId) : PortsKept s (s.dropAcknowledge p) := by
  unfold State.dropAcknowledge
  split
  · exact .setArbiter s fun _ => .inl rfl
  · exact .refl s

/-- A bus fault writes a notice and sets FAULT, or quarantines the port; a QUARANTINED port is left (R158, R159). -/
theorem PortsKept.busError (s : State) (p : PortId) (a : WordAddr) (write : Bool) : PortsKept s (s.busError p a write) := by
  have answered := PortsKept.setAnswer s .error
  rcases busError_cases s p a write with ⟨_, h⟩ | ⟨ha, _, h⟩ | ⟨ha, _, h⟩
  · rw [h]
    exact answered
  · rw [h]
    have noticed : Signalled (s.port p) _ :=
      .notice .refl 0x16 (noticeRecord (.fault a write) 0 s.clock.frame s.clock.frame) s.clock.frame rfl
    exact answered.trans (.setPort _ (.of_active ha noticed.wf))
  · rw [h]
    exact answered.trans (.setPort _ (.of_active ha id))

theorem PortsKept.busRead (s : State) (p : PortId) (a : WordAddr) : PortsKept s (s.busRead p a) := by
  rcases busRead_cases s p a with ⟨_, h⟩ | ⟨_, h⟩ | ⟨ans, _, _, _, h⟩
  · rw [h]
    exact .refl s
  · rw [h]
    exact .busError s p a false
  · rw [h]
    exact .setAnswer s ans

/-- A port RESET of `p` (R160). -/
def State.resetPortAt (s : State) (p : PortId) : State :=
  (s.setPort p (resetPort (s.port p))).setAnswer .ackWrite

theorem resetPortAt_port_self (s : State) (p : PortId) : (s.resetPortAt p).port p = resetPort (s.port p) :=
  port_setPort_self s p _

theorem resetPortAt_port_of_ne (s : State) {p q : PortId} (h : q ≠ p) : (s.resetPortAt p).port q = s.port q :=
  port_setPort_of_ne s _ h

theorem portsOk_resetPortAt {s : State} (h : s.portsOk) (p : PortId) : (s.resetPortAt p).portsOk := by
  refine ⟨fun q => ?_, h.2⟩
  by_cases hq : q = p
  · subst hq
    rw [resetPortAt_port_self]
    exact wf_resetPort (h.1 q)
  · rw [resetPortAt_port_of_ne s hq]
    exact h.1 q

theorem PortsKept.portsOk {s t : State} (h : PortsKept s t) (hs : s.portsOk) : t.portsOk :=
  ⟨fun p => (h.ports p).wf (hs.1 p), h.bus hs.2⟩

theorem wf_empty : ({} : PortUnit).wf := ⟨by decide, by decide, memoryWf_nil _, memoryWf_nil _⟩

/-- The ports after RESET are empty (R161). -/
theorem portsOk_reset (rest : List Instr) : ({ State.reset with pending := rest } : State).portsOk := by
  refine ⟨fun p => ?_, .inl rfl⟩
  have empty : ({ State.reset with pending := rest } : State).port p = {} := by
    match p with
    | 0 => rfl
    | 1 => rfl
    | 2 => rfl
    | 3 => rfl
  rw [empty]
  exact wf_empty

/-- A write keeps every port, or it is a port RESET: a QUARANTINED port reaches only its control word (R159, R160). -/
theorem busWrite_kept (s : State) (p : PortId) (a : WordAddr) (v : Word) :
    PortsKept s (s.busWrite p a v) ∨
      (target p a = .control ∧ v.getLsbD 31 = true ∧ s.busWrite p a v = s.resetPortAt p) := by
  rcases busWrite_cases s p a v with ⟨_, h⟩ | ⟨_, h⟩ | ⟨u, _, hb, hu, h⟩
  · rw [h]
    exact .inl (.refl s)
  · rw [h]
    exact .inl (.busError s p a true)
  · rw [h]
    have written : (s.port p).wf → u.wf := fun hwf => wf_writeTarget hwf (fun k => target_ring_lt) hu
    cases hs : (s.port p).state with
    | active => exact .inl ((PortsKept.setPort s (.of_active hs written)).trans (.setAnswer _ _))
    | quarantined =>
      have control : target p a = .control := by simpa [barred, hs] using hb
      rw [control] at hu
      cases hu
      by_cases hv : v.getLsbD 31 = true
      · rw [if_pos hv]
        exact .inr ⟨control, hv, rfl⟩
      · rw [if_neg hv]
        exact .inl ((PortsKept.setPort s (.refl _)).trans (.setAnswer _ _))

/-- A write to a word of the own window that is not its control word keeps every port. -/
theorem PortsKept.busWrite_ownWord (s : State) (p : PortId) {o : Nat} (ho : o < 0x1000) (hc : windowTarget o ≠ .control)
    (v : Word) : PortsKept s (s.busWrite p (ownWord p o) v) := by
  rcases busWrite_kept s p (ownWord p o) v with h | ⟨hcontrol, _⟩
  · exact h
  · rw [target_ownWord p ho] at hcontrol
    exact absurd hcontrol hc

/-- The port control word is addressed by its word number alone (R153). -/
theorem ownControlWord_of_target {p : PortId} {a : WordAddr} (h : target p a = .control) : ownControlWord p a = true := by
  unfold target windowTarget windowBase at h
  unfold ownControlWord
  grind

/-! ### All rows -/

/-- Every row but RESET keeps every port, or is a port RESET after what the last boundary has left due. -/
theorem exec_keepsPorts {i : Instr} {s t : State} (h : exec i s = .next t) (hi : i ≠ .reset) :
    PortsKept s t ∨
      ∃ p, t = s.settle.resetPortAt p ∧ (i.wellFormed = true → ∃ rest, i = .portReset p rest) := by
  have settled := (Signals.settle s).kept
  have write : ∀ {o : Nat}, o < 0x1000 → windowTarget o ≠ .control → ∀ p v,
      PortsKept s (s.settle.busWrite p (ownWord p o) v) := fun ho hc p v => settled.trans (.busWrite_ownWord _ p ho hc v)
  cases i
  case reset => exact absurd rfl hi
  case claimDeadline => cases h; exact .inl (Signals.act s .claimDeadline).kept
  case lingerExpiry => cases h; exact .inl (Signals.act s .lingerExpiry).kept
  case drainCompletion => cases h; exact .inl (Signals.act s .drainCompletion).kept
  case surgeEnd => cases h; exact .inl (Signals.act s .surgeEnd).kept
  case frameStrobe now early => cases h; exact .inl (settled.trans (Signals.frameStrobe _ now early).kept)
  case strobeLossExpiry early => cases h; exact .inl (settled.trans (Signals.strobeLossExpiry _ early).kept)
  case dividerExpiry early => cases h; exact .inl (settled.trans (Signals.dividerExpiry _ early).kept)
  case momentPulse now => cases h; exact .inl (settled.trans (Signals.momentPulse _ now).kept)
  case sectorBuildCompletion => cases h; exact .inl (settled.trans (Signals.finishBuild _).kept)
  case busGrant lines => cases h; exact .inl (settled.trans (.grantBus _ lines))
  case acknowledgeRaised p => cases h; exact .inl (settled.trans (.raiseAcknowledge _ p))
  case grantWithdrawn p => cases h; exact .inl (settled.trans (.withdrawGrant _ p))
  case acknowledgeDropped p => cases h; exact .inl (settled.trans (.dropAcknowledge _ p))
  case planWindowRead p w => cases h; exact .inl (settled.trans (.busRead _ p _))
  case wordRead p a => cases h; exact .inl (settled.trans (.busRead _ p a))
  case producerIndexWrite p v => cases h; exact .inl (write (by decide) (by decide) p v)
  case noticeHeadWrite p v => cases h; exact .inl (write (by decide) (by decide) p v)
  case attentionRequestSet p bits => cases h; exact .inl (write (by decide) (by decide) p _)
  case attentionRequestClear p bits => cases h; exact .inl (write (by decide) (by decide) p _)
  case attentionEnableSet p bits => cases h; exact .inl (write (by decide) (by decide) p _)
  case attentionEnableClear p bits => cases h; exact .inl (write (by decide) (by decide) p _)
  case portReset p rest =>
    cases h
    rcases busWrite_kept s.settle p (ownWord p 0x606) (setForm rest) with hk | ⟨_, _, hr⟩
    · exact .inl (settled.trans hk)
    · exact .inr ⟨p, hr, fun _ => ⟨rest, rfl⟩⟩
  case wordWrite p a v =>
    cases h
    rcases busWrite_kept s.settle p a v with hk | ⟨hc, hv, hr⟩
    · exact .inl (settled.trans hk)
    · refine .inr ⟨p, hr, fun hwf => ?_⟩
      rw [Instr.wellFormed, ownControlWord_of_target hc, hv, Bool.and_self, Bool.not_true, Bool.and_false] at hwf
      cases hwf
  case badCodeElement p => cases h; exact .inl (settled.trans (.serveBadCode _ p))
  case overlongChain p => cases h; exact .inl (settled.trans (.serveOverlongAt _ p))
  case openMatch p now => cases h; exact .inl (settled.trans (.serve _ p .openMatch now))
  all_goals
    cases h
    exact .inl (settled.trans (.serve _ _ _ 0))

end Sys2Proof.Machine

open Sys2Proof Sys2Proof.Machine

/-- Settles O53: RESET empties every port, a port RESET empties one, and every other row keeps them all. -/
theorem stepKeepsPortsOk : Obligations.StepKeepsPortsOk := by
  intro s t hs h
  unfold step at h
  split at h
  · cases h
    exact hs
  · next i rest _ =>
    have front : ({ s with pending := rest } : State).portsOk := hs
    by_cases hi : i = .reset
    · subst hi
      cases h
      exact portsOk_reset rest
    · rcases exec_keepsPorts h hi with hk | ⟨p, rfl, _⟩
      · exact hk.portsOk front
      · exact portsOk_resetPortAt ((Signals.settle _).kept.portsOk front) p

/-- Settles O12: a row that is not the port's own RESET keeps it, a RESET of another port does not reach it. -/
theorem quarantineFreezesThePort : Obligations.QuarantineFreezesThePort := by
  intro i s t p hq hwf hreset hport h
  rcases exec_keepsPorts h hreset with hk | ⟨q, rfl, hrow⟩
  · exact (hk.ports p).frozen hq
  · obtain ⟨rest, rfl⟩ := hrow hwf
    have other : p ≠ q := fun he => hport rest (by rw [he])
    rw [resetPortAt_port_of_ne _ other]
    exact ((Signals.settle s).ports p).of_quarantined hq
end

section
namespace Sys2Proof.Machine

open Sys2Proof

/-! ## Arbitration (R150, R151) -/

theorem rotation_eq (last : PortId) : rotation last = allPorts.map (last + 1 + ·) := by
  revert last
  decide

/-- The first requesting port in the order last holder + 1, + 2, + 3, and the last holder (R150). -/
theorem firstRequesting_eq {last : PortId} {lines : BitVec 4} {k : Fin 4} (hk : lines.getLsbD (last + 1 + k).val = true)
    (hbefore : ∀ j < k, lines.getLsbD (last + 1 + j).val = false) : firstRequesting last lines = some (last + 1 + k) := by
  have first : allPorts.find? (fun j => lines.getLsbD (last + 1 + j).val) = some k :=
    find?_of_sorted allPorts_sorted (mem_allPorts k) hk fun j _ hj => hbefore j hj
  rw [firstRequesting, rotation_eq, List.find?_map]
  exact congrArg (Option.map (last + 1 + ·)) first

/-- A request line dropped, the others as they were. -/
theorem getLsbD_dropLine (lines : BitVec 4) (p q : PortId) :
    (lines &&& ~~~(1#4 <<< p.val)).getLsbD q.val = if q = p then false else lines.getLsbD q.val := by
  have line : (1#4 <<< p.val).getLsbD q.val = decide (q = p) := by
    revert p q
    decide
  rw [BitVec.getLsbD_and, BitVec.getLsbD_not, line]
  by_cases h : q = p <;> simp [h]

/-! ## Writes that are answered ACK (R152, R154, R160, R162) -/

theorem writeTarget_ring (u : PortUnit) (k : Nat) (v : Word) : writeTarget u (.ring k) v =
    if isPosted u (k / 16) then none else some { u with ring := storeWord u.ring k v } := rfl

theorem writeTarget_producer (u : PortUnit) (v : Word) : writeTarget u .producer v =
    if producerOk u v then some { u with producer := v.setWidth 7 } else none := rfl

theorem writeTarget_control (u : PortUnit) (v : Word) : writeTarget u .control v =
    some (if v.getLsbD 31 then resetPort u else u) := rfl

/-- A write to a word of the holder's own window that its port takes. -/
theorem busWrite_ownWord {s : State} {p : PortId} (hh : s.arbiter.holder = some p) {o : Nat} (ho : o < 0x1000) {t : Target}
    (ht : windowTarget o = t) (hb : barred (s.port p) t = false) {v : Word} {u : PortUnit}
    (hw : writeTarget (s.port p) t v = some u) :
    s.busWrite p (ownWord p o) v = { s.setPort p u with answer := some .ackWrite } := by
  rw [State.busWrite, if_pos hh, target_ownWord p ho, ht, hb, hw]
  rfl

theorem setForm_reset (bits : BitVec 31) : (setForm bits).getLsbD 31 = true := by
  rw [setForm, BitVec.setWidth_eq, BitVec.getLsbD_append]
  rfl

/-- An element is posted exactly when it stands from the consumer index up to before the producer index (R154). -/
theorem isPosted_iff (u : PortUnit) {e : Nat} (he : e < 64) :
    isPosted u e = true ↔ ∃ i < posted u, ringElement u i = e := by
  have first : elementIndex u.consumer < 64 := Nat.mod_lt _ (by decide)
  unfold isPosted ringElement
  rw [decide_eq_true_eq]
  constructor
  · exact fun h => ⟨_, h, by omega⟩
  · rintro ⟨i, hi, h⟩
    omega

theorem setWidth_eq_ofNat {n : Nat} (v : Word) : v.setWidth n = BitVec.ofNat n v.toNat :=
  BitVec.eq_of_toNat_eq (by simp)

/-- The posted count that a new producer index gives (R154). -/
theorem toNat_setWidth_sub (v : Word) (c : BitVec 7) : (v.setWidth 7 - c).toNat = (v.toNat + 128 - c.toNat) % 128 := by
  rw [BitVec.toNat_sub, BitVec.toNat_setWidth]
  omega

theorem producerOk_iff (u : PortUnit) (v : Word) : producerOk u v = true ↔
    v.toNat ≤ 127 ∧ (v.setWidth 7 - u.consumer).toNat ≤ 63 ∧ posted u ≤ (v.setWidth 7 - u.consumer).toNat := by
  simp only [producerOk, Bool.and_eq_true, decide_eq_true_eq, and_assoc]

/-- The number of entries that a write of the head frees (R162). -/
theorem toNat_setWidth_sub_head (v : Word) (h : BitVec 8) : (v.setWidth 8 - h).toNat = (v.toNat + 256 - h.toNat) % 256 := by
  rw [BitVec.toNat_sub, BitVec.toNat_setWidth]
  omega

/-- A head that frees no more than is held becomes the head; otherwise every held entry is freed (R162). -/
theorem writeHead_cases (u : PortUnit) (v : Word) :
    ((v.toNat + 256 - u.head.toNat) % 256 ≤ heldNotices u ∧ writeHead u v = { u with head := v.setWidth 8 } ∧
      heldNotices (writeHead u v) = heldNotices u - (v.toNat + 256 - u.head.toNat) % 256) ∨
    (heldNotices u < (v.toNat + 256 - u.head.toNat) % 256 ∧ writeHead u v = { u with head := u.tail } ∧
      heldNotices (writeHead u v) = 0) := by
  have freed := toNat_setWidth_sub_head v u.head
  unfold writeHead
  dsimp only
  rw [freed]
  split
  · next h =>
    refine .inl ⟨h, rfl, ?_⟩
    rw [← freed] at h ⊢
    unfold heldNotices at h ⊢
    dsimp only
    bv_omega
  · next h => exact .inr ⟨Nat.lt_of_not_le h, rfl, by simp [heldNotices]⟩

/-! ## Transfers answered ERROR (R158, R159) -/

/-- The FAULT notice: the byte address of the word, and 1 for a write (R168, log 35). -/
theorem noticeRecord_fault (a : WordAddr) (write : Bool) (tag : Tag) (frame now : FrameNo) :
    noticeRecord (.fault a write) tag frame now =
      [BitVec.ofNat 32 (0x16 * 2 ^ 24 + 4 * a.toNat), tag, frame, if write then 2 ^ 16 else 0] := by
  have bound : 4 * a.toNat < 2 ^ 24 := by omega
  have word0 : packFields 32 [(8, 0x16), (24, packFields 24 [(24, 4 * a.toNat)])] = 0x16 * 2 ^ 24 + 4 * a.toNat := by
    simp only [packFields]
    omega
  have word3 : BitVec.ofNat 32 (packFields 32 [(16, bit write), (16, 0)]) = if write then 2 ^ 16 else 0 := by
    cases write <;> rfl
  simp only [noticeRecord, noticeBody, noticeKind, word0, word3]

/-- A port after an ERROR answered to a transfer of its own (R158, R159). -/
def faultPort (u : PortUnit) (a : WordAddr) (write : Bool) (now : FrameNo) : PortUnit :=
  if u.state = .quarantined then u
  else if u.request.getLsbD 3 then { u with state := .quarantined }
  else
    let v := deliver 0x16 [BitVec.ofNat 32 (0x16 * 2 ^ 24 + 4 * a.toNat), 0, now, if write then 2 ^ 16 else 0] now u
    { v with request := v.request ||| 8 }

/-- What an ERROR answered to a transfer of port `p` leaves (R158). -/
def State.faulted (s : State) (p : PortId) (a : WordAddr) (write : Bool) : State :=
  State.setPort { s with answer := some .error } p (faultPort (s.port p) a write s.clock.frame)

theorem faultBit_clear (r : BitVec 4) : r &&& faultBit = 0 ↔ r.getLsbD 3 = false := by
  revert r
  decide

theorem busError_eq (s : State) (p : PortId) (a : WordAddr) (write : Bool) : s.busError p a write = s.faulted p a write := by
  unfold State.faulted faultPort
  rcases busError_cases s p a write with ⟨hq, h⟩ | ⟨ha, hf, h⟩ | ⟨ha, hf, h⟩
  · rw [h, if_pos hq]
    exact (setPort_port (s.setAnswer .error) p).symm
  · rw [h, ha, (faultBit_clear _).1 hf, noticeRecord_fault]
    rfl
  · rw [h, ha, Bool.eq_true_of_not_eq_false fun hc => hf ((faultBit_clear _).2 hc)]
    rfl

theorem faulted_of_quarantined {s : State} {p : PortId} (hq : (s.port p).state = .quarantined) (a : WordAddr) (write : Bool) :
    s.faulted p a write = { s with answer := some .error } := by
  rw [State.faulted, faultPort, if_pos hq]
  exact setPort_port (s.setAnswer .error) p

section
variable {s : State} {p : PortId} (hh : s.arbiter.holder = some p)
include hh

/-- A write that the port may not make or that its window does not take (R152, R153). -/
theorem busWrite_error {a : WordAddr} {v : Word}
    (h : barred (s.port p) (target p a) = true ∨ writeTarget (s.port p) (target p a) v = none) :
    s.busWrite p a v = s.faulted p a true := by
  rcases busWrite_cases s p a v with ⟨hn, _⟩ | ⟨_, he⟩ | ⟨u, _, hb, hu, _⟩
  · exact absurd hh hn
  · rw [he, busError_eq]
  · rcases h with h | h
    · rw [h] at hb
      cases hb
    · rw [h] at hu
      cases hu

/-- A read that the port may not make or that has no word to answer (R152, R153). -/
theorem busRead_error {a : WordAddr}
    (h : barred (s.port p) (target p a) = true ∨ s.readTarget (s.port p) (target p a) = none) :
    s.busRead p a = s.faulted p a false := by
  rcases busRead_cases s p a with ⟨hn, _⟩ | ⟨_, he⟩ | ⟨ans, _, hb, hr, _⟩
  · exact absurd hh hn
  · rw [he, busError_eq]
  · rcases h with h | h
    · rw [h] at hb
      cases hb
    · rw [h] at hr
      cases hr

end

/-- No transfer of a QUARANTINED port but to its control word is made (R159). -/
theorem barred_of_quarantined {u : PortUnit} (hq : u.state = .quarantined) {t : Target} (ht : t ≠ .control) :
    barred u t = true := by
  simp [barred, hq, ht]

/-- A word past the own window's last and outside the Plan Window is nothing (R153). -/
theorem target_nothing {p : PortId} {a : WordAddr} (hown : a.toNat < 0x1000 * p.val ∨ 0x1000 * p.val + 0x607 ≤ a.toNat)
    (hplan : a.toNat < 0x4000 ∨ 0xC000 ≤ a.toNat) : target p a = .nothing := by
  unfold target windowBase
  split
  · unfold windowTarget
    repeat rw [if_neg (by omega)]
  · rw [if_neg (by omega)]

theorem target_plan {p : PortId} {a : WordAddr} (hlow : 0x4000 ≤ a.toNat) (hhigh : a.toNat < 0xC000) :
    target p a = .plan (a.toNat - 0x4000) := by
  rw [target, windowBase, if_neg (by omega), if_pos ⟨hlow, hhigh⟩]

theorem target_ne_control {p : PortId} {a : WordAddr} (h : a.toNat ≠ 0x1000 * p.val + 0x606) : target p a ≠ .control := by
  intro hc
  have hown := ownControlWord_of_target hc
  rw [ownControlWord, beq_iff_eq] at hown
  omega

end Sys2Proof.Machine

open Sys2Proof Sys2Proof.Machine

/-- Settles O5: the rotation is the ports in order, shifted past the last holder. -/
theorem busIsGrantedInRotation : Obligations.BusIsGrantedInRotation := by
  refine ⟨fun s lines k hs hh hg hk hbefore => ?_, fun s lines hs hbusy => ?_, fun s p hs hg => ⟨?_, ?_⟩, fun s p hs hh => ?_⟩
  · rw [exec_busGrant, settle_of_settled hs, State.grantBus, grantNextPort]
    simp only [hh, hg, and_self, if_true, firstRequesting_eq hk hbefore]
    rfl
  · rw [exec_busGrant, settle_of_settled hs, State.grantBus, grantNextPort]
    dsimp only
    rw [if_neg (by tauto)]
    rfl
  · rw [exec_acknowledgeRaised, settle_of_settled hs, State.raiseAcknowledge, if_pos hg]
    rfl
  · refine ⟨s.arbiter.request &&& ~~~(1#4 <<< p.val), ?_, fun q hq => ?_, ?_⟩
    · rw [getLsbD_dropLine, if_pos rfl]
    · rw [getLsbD_dropLine, if_neg hq]
    · rw [exec_grantWithdrawn, settle_of_settled hs, State.withdrawGrant, if_pos hg]
      rfl
  · rw [exec_acknowledgeDropped, settle_of_settled hs, State.dropAcknowledge, if_pos hh]
    rfl

/-- Settles O11: the control word is never barred, and the reset bit empties the port. -/
theorem portResetClearsThePort : Obligations.PortResetClearsThePort := by
  intro s p rest hs hh u
  have written : writeTarget u .control (setForm rest) = some (resetPort u) := by
    rw [writeTarget_control, if_pos (setForm_reset rest)]
  have reset : (s.resetPortAt p).port p = resetPort u := resetPortAt_port_self s p
  refine ⟨s.resetPortAt p, ?_, rfl, ?_⟩
  · rw [exec_portReset, settle_of_settled hs,
      busWrite_ownWord hh (o := 0x606) (by decide) rfl (barred_control _) written]
    rfl
  · rw [reset]
    exact ⟨by simp [posted, resetPort], by simp [heldNotices, resetPort], by simp [attn, resetPort]⟩

/-- Settles O8: each word number is followed to what it addresses, and the port takes the write. -/
theorem holderWritesRingAndIndexWords : Obligations.HolderWritesRingAndIndexWords := by
  intro s p v hs hh u
  have write : ∀ {o t w}, o < 0x1000 → windowTarget o = t → barred u t = false → writeTarget u t v = some w →
      exec (.wordWrite p (ownWord p o) v) s = .next { s.setPort p w with answer := some .ackWrite } :=
    fun ho ht hb hw => by rw [exec_wordWrite, settle_of_settled hs, busWrite_ownWord hh ho ht hb hw]
  have keep : ∀ {o t}, o < 0x1000 → windowTarget o = t → barred u t = false → writeTarget u t v = some u →
      exec (.wordWrite p (ownWord p o) v) s = .next { s with answer := some .ackWrite } :=
    fun ho ht hb hw => by rw [write ho ht hb hw, setPort_port]
  refine ⟨fun hv => ?_, fun ha => ?_⟩
  · refine keep (o := 0x606) (t := .control) (by decide) rfl (barred_control _) ?_
    rw [writeTarget_control, if_neg (by rw [hv]; decide)]
  have active : ∀ t, barred u t = false := barred_of_active ha
  refine ⟨fun k hk hfree => ?_, fun k hk => ?_, fun hlow hroom hkeeps => ?_, ?_⟩
  · have free : isPosted u (k / 16) ≠ true := by
      rw [Ne, isPosted_iff u (by omega)]
      exact fun ⟨i, hi, he⟩ => hfree i hi he
    refine ⟨storeWord u.ring k v, write (by omega) (if_pos hk) (active _) (by rw [writeTarget_ring, if_neg free]),
      loadWord_storeWord_self .., fun j hj => loadWord_storeWord_of_ne _ _ hj⟩
  · rw [Nat.add_assoc]
    exact keep (by omega) (windowTarget_queue hk) (active _) rfl
  · have count := toNat_setWidth_sub v u.consumer
    have taken : producerOk u v = true := by
      rw [producerOk_iff, count]
      exact ⟨hlow, hroom, hkeeps⟩
    refine ⟨{ u with producer := v.setWidth 7 }, ?_, by rw [setWidth_eq_ofNat], count⟩
    rw [exec_producerIndexWrite, settle_of_settled hs,
      busWrite_ownWord hh (o := 0x600) (t := .producer) (by decide) rfl (active _) (by rw [writeTarget_producer, if_pos taken])]
  · refine ⟨writeHead u v, ?_, ?_⟩
    · rw [exec_noticeHeadWrite, settle_of_settled hs, busWrite_ownWord hh (o := 0x602) (by decide) rfl (active _) rfl]
    · rcases writeHead_cases u v with ⟨hfreed, hwritten, hheld⟩ | ⟨hfreed, hwritten, hheld⟩
      · rw [if_pos hfreed, hheld, hwritten]
        exact ⟨rfl, BitVec.toNat_setWidth .., rfl⟩
      · rw [if_neg (Nat.not_le.2 hfreed), hheld, hwritten]
        exact ⟨rfl, rfl, rfl⟩

/-- Settles O7: each ERROR is `State.faulted`, which leaves a QUARANTINED port as it was. -/
theorem errorFaultsAndThenQuarantines : Obligations.ErrorFaultsAndThenQuarantines := by
  intro s p hs hh u fault
  have fault_eq : ∀ a write, fault a write = s.faulted p a write := fun _ _ => rfl
  have reads : ∀ {a}, barred u (target p a) = true ∨ s.readTarget u (target p a) = none →
      exec (.wordRead p a) s = .next (s.faulted p a false) := fun h => by
    rw [exec_wordRead, settle_of_settled hs, busRead_error hh h]
  have writes : ∀ {a v}, barred u (target p a) = true ∨ writeTarget u (target p a) v = none →
      exec (.wordWrite p a v) s = .next (s.faulted p a true) := fun h => by
    rw [exec_wordWrite, settle_of_settled hs, busWrite_error hh h]
  have own : ∀ {o t v}, o < 0x1000 → windowTarget o = t → writeTarget u t v = none →
      exec (.wordWrite p (ownWord p o) v) s = .next (s.faulted p (ownWord p o) true) := fun ho ht hw =>
    writes (.inr (by rw [target_ownWord p ho, ht, hw]))
  simp only [fault_eq]
  refine ⟨fun a hown hplan => ?_, fun a v hlow hhigh => ?_, fun o v ho => ?_, fun v hv => ?_, fun hq => ?_⟩
  · have nothing := target_nothing hown hplan
    exact ⟨reads (.inr (by rw [nothing]; rfl)), fun v => writes (.inr (by rw [nothing]; rfl))⟩
  · exact writes (.inr (by rw [target_plan hlow hhigh]; rfl))
  · rcases ho with rfl | rfl | ⟨ho, hposted⟩
    · exact own (o := 0x601) (by decide) rfl rfl
    · exact own (o := 0x603) (by decide) rfl rfl
    · refine own (by omega) (if_pos ho) ?_
      rw [writeTarget_ring, if_pos ((isPosted_iff u (by omega)).2 hposted)]
  · have refused : ¬producerOk u v = true := by
      rw [producerOk_iff]
      omega
    exact own (o := 0x600) (t := .producer) (by decide) rfl (by rw [writeTarget_producer, if_neg refused])
  · have read : ∀ a, target p a ≠ .control → Host.Outcome.next (s.settle.busRead p a) = _ := fun a ha =>
      (reads (.inl (barred_of_quarantined hq ha))).trans (congrArg _ (faulted_of_quarantined hq a false))
    have write : ∀ a v, target p a ≠ .control → Host.Outcome.next (s.settle.busWrite p a v) = _ := fun a v ha =>
      (writes (.inl (barred_of_quarantined hq ha))).trans (congrArg _ (faulted_of_quarantined hq a true))
    have window : ∀ {o}, o < 0x1000 → windowTarget o ≠ .control → target p (ownWord p o) ≠ .control := fun ho hc => by
      rwa [target_ownWord p ho]
    refine ⟨fun a ha => ⟨read a (target_ne_control ha), fun v => write a v (target_ne_control ha)⟩, fun w => read _ ?_,
      fun v => ⟨write _ v ?_, write _ v ?_⟩, fun b => ⟨write _ _ ?_, write _ _ ?_, write _ _ ?_, write _ _ ?_⟩⟩
    · rw [target_planWordAddr]
      exact Target.noConfusion
    all_goals exact window (by decide) (by decide)
end

section
namespace Sys2Proof.Machine

open Sys2Proof

/-! ## The command at the consumer index (R155) -/

/-- Up to four elements run to the first without CHAIN. -/
theorem commandLength_spec {u : PortUnit} (h : commandLength u ≤ 4) :
    1 ≤ commandLength u ∧ (∀ i, i + 1 < commandLength u → chained u i = true) ∧
      chained u (commandLength u - 1) = false := by
  unfold commandLength at h ⊢
  cases h0 : chained u 0 with
  | false => exact ⟨(by decide : 1 ≤ 1), fun i hi => absurd hi (by simp), h0⟩
  | true =>
    cases h1 : chained u 1 with
    | false =>
      refine ⟨(by decide : 1 ≤ 2), fun i hi => ?_, h1⟩
      replace hi : i + 1 < 2 := by simpa using hi
      obtain rfl : i = 0 := by omega
      exact h0
    | true =>
      cases h2 : chained u 2 with
      | false =>
        refine ⟨(by decide : 1 ≤ 3), fun i hi => ?_, h2⟩
        replace hi : i + 1 < 3 := by simpa using hi
        obtain rfl | rfl : i = 0 ∨ i = 1 := by omega
        · exact h0
        · exact h1
      | true =>
        cases h3 : chained u 3 with
        | false =>
          refine ⟨(by decide : 1 ≤ 4), fun i hi => ?_, h3⟩
          replace hi : i + 1 < 4 := by simpa using hi
          obtain rfl | rfl | rfl : i = 0 ∨ i = 1 ∨ i = 2 := by omega
          · exact h0
          · exact h1
          · exact h2
        | true => simp [h0, h1, h2, h3] at h

/-- The number of elements up to the first without CHAIN. -/
theorem commandLength_eq {u : PortUnit} {n : Nat} (hn : 1 ≤ n) (hlen : n ≤ 4)
    (hchain : ∀ i, i + 1 < n → chained u i = true) (hlast : chained u (n - 1) = false) : commandLength u = n := by
  unfold commandLength
  interval_cases n
  · rw [hlast]; rfl
  · rw [hchain 0 (by decide), hlast]; rfl
  · rw [hchain 0 (by decide), hchain 1 (by decide), hlast]; rfl
  · rw [hchain 0 (by decide), hchain 1 (by decide), hchain 2 (by decide), hlast]; rfl

theorem ringElement_zero (u : PortUnit) : ringElement u 0 = elementIndex u.consumer :=
  Nat.mod_eq_of_lt (Nat.mod_lt _ (by decide))

/-- The words of a command are those of its elements. -/
theorem frontCommand_word {u : PortUnit} {i j : Nat} (hi : i < commandLength u) (hj : j < 16) :
    (frontCommand u).word i j = elementWord u (ringElement u i) j := by
  simp [Cmd.word, frontCommand, elementWords, List.getD_eq_getElem?_getD, hi, hj]

end Sys2Proof.Machine

open Sys2Proof Sys2Proof.Machine

/-- Settles O13: a command is its front elements, as many as run to the first without CHAIN. -/
theorem commandIsTakenWhole : Obligations.CommandIsTakenWhole := by
  refine ⟨fun u cmd h => ?_, fun u n ha ho hn hlen hposted hchain hlast => ?_⟩
  · obtain ⟨⟨ha, ho, hlen, hposted⟩, rfl⟩ := takeable_eq_some.1 h
    obtain ⟨hn, hchain, hlast⟩ := commandLength_spec hlen
    rw [frontCommand_length]
    refine ⟨ha, ho, hn, hlen, hposted, hchain, hlast, ?_, ?_, ?_, fun i hi j hj => frontCommand_word hi hj⟩
    · rw [← ringElement_zero]; rfl
    · rw [← ringElement_zero]; rfl
    · rw [← ringElement_zero]; rfl
  · have length := commandLength_eq hn hlen hchain hlast
    exact ⟨frontCommand u, takeable_eq_some.2 ⟨⟨ha, ho, by omega, by omega⟩, rfl⟩, by rw [frontCommand_length, length]⟩

/-- Settles O52: RESET of a part that has just been reset leaves it as it is, and RESET keeps every invariant. -/
theorem invariantsHoldAfterReset : Obligations.InvariantsHoldAfterReset := by
  have records : State.reset.stationsOk := (stationsOk_iff _).2 ⟨lifecycleOk_resetPart .reset,
    recordsAgree_of_noStations rfl rfl rfl rfl (by decide : State.reset.venue.cellLimit ≤ 255)⟩
  have tickets : State.reset.ticketsOk := (ticketsOk_iff _).2 ⟨records, gatesAgree_of_noTickets rfl rfl rfl rfl rfl⟩
  refine ⟨portsOk_reset [], (subscriptionsOk_iff _).2 ⟨tickets, listsAgree_of_noStations rfl⟩,
    carriagesOk_iff.2 ⟨records, settledUp_of_cleared rfl rfl rfl rfl⟩, plansOk_resetPart .reset,
    (passOk_iff _).2 ⟨lifecycleOk_resetPart .reset, passAgrees_resetPart .reset⟩,
    deadlinesOk_of_noStations (lifecycleOk_resetPart .reset) rfl ?_⟩
  exact (by decide : State.reset.venue.handoverWindow ≤ 64 ∧ State.reset.venue.lingerTime ≤ 60000)
end

section
namespace Sys2Proof.Machine

open Sys2Proof

/-! ## The Notice Queue (R162, R163) -/

theorem heldNotices_enqueue {u : PortUnit} (hroom : heldNotices u < 128) (record : List Word) :
    heldNotices (enqueue record u) = heldNotices u + 1 := by
  simp only [heldNotices, enqueue, raise] at hroom ⊢
  bv_omega

/-- A record enqueued is read back from the entry at the tail. -/
theorem loadWord_enqueue_self (u : PortUnit) {record : List Word} (hlen : record.length = 4) {j : Nat} (hj : j < 4) :
    loadWord (enqueue record u).queue (4 * entryIndex u.tail + j) = record.getD j 0 :=
  loadWord_storeWords_inside u.queue _ record (by omega)

/-- A record enqueued leaves every other entry. -/
theorem loadWord_enqueue_of_ne (u : PortUnit) {record : List Word} (hlen : record.length = 4) {e j : Nat}
    (he : e ≠ entryIndex u.tail) (hj : j < 4) : loadWord (enqueue record u).queue (4 * e + j) = loadWord u.queue (4 * e + j) :=
  loadWord_storeWords_outside u.queue _ record (by omega)

theorem enqueue_eq (record : List Word) (u : PortUnit) : enqueue record u =
    { u with queue := (enqueue record u).queue, tail := u.tail + 1, request := u.request ||| 1 } := rfl

theorem addDropped_eq (kind : Nat) (u : PortUnit) : addDropped kind u =
    { u with queue := (addDropped kind u).queue, request := u.request ||| 1 } := rfl

/-- A notice added to OVERFLOW changes its count and its mask (R163). -/
theorem loadWord_addDropped (kind : Nat) (u : PortUnit) (k : Nat) :
    loadWord (addDropped kind u).queue k =
      if k = 4 * entryIndex (u.tail - 1) + 3 then loadWord u.queue (4 * entryIndex (u.tail - 1) + 3) ||| kindMask kind
      else if k = 4 * entryIndex (u.tail - 1) then
        BitVec.ofNat 32 (0x17 * 2 ^ 24 +
          min ((loadWord u.queue (4 * entryIndex (u.tail - 1))).toNat % 2 ^ 24 + 1) 16777215)
      else loadWord u.queue k := by
  have packed : ∀ n, n ≤ 16777215 → packFields 32 [(8, 0x17), (24, n)] = 0x17 * 2 ^ 24 + n := by
    intro n hn
    simp only [packFields]
    omega
  simp only [addDropped, raise]
  split
  · next h => rw [h, loadWord_storeWord_self]
  · next h =>
    rw [loadWord_storeWord_of_ne _ _ h]
    split
    · next h => rw [h, loadWord_storeWord_self, packed _ (Nat.min_le_right ..)]
    · next h => rw [loadWord_storeWord_of_ne _ _ h]

/-- A notice for an ACTIVE port changes its queue, its tail and NOTICE. -/
theorem deliver_of_active {u : PortUnit} (ha : u.state = .active) (kind : Nat) (record : List Word) (now : FrameNo) :
    deliver kind record now u = { u with
      queue := (deliver kind record now u).queue
      tail := (deliver kind record now u).tail
      request := u.request ||| 1 } := by
  rcases deliver_cases kind record now u with ⟨hq, _⟩ | ⟨_, _, h⟩ | ⟨_, _, h⟩ | ⟨_, _, h⟩
  · rw [ha] at hq
    cases hq
  · rw [h]
    exact enqueue_eq record u
  · rw [h]
    exact enqueue_eq (overflowRecord kind now) u
  · rw [h]
    exact addDropped_eq kind u

theorem deliver_of_quarantined {u : PortUnit} (hq : u.state = .quarantined) (kind : Nat) (record : List Word)
    (now : FrameNo) : deliver kind record now u = u := by
  simp [deliver, hq]

theorem deliver_of_room {u : PortUnit} (ha : u.state = .active) (h : heldNotices u < 127) (kind : Nat)
    (record : List Word) (now : FrameNo) : deliver kind record now u = enqueue record u := by
  simp [deliver, ha, h]

theorem deliver_of_lastFree {u : PortUnit} (ha : u.state = .active) (h : heldNotices u = 127) (kind : Nat)
    (record : List Word) (now : FrameNo) :
    deliver kind record now u = enqueue (overflowRecord kind now) u := by
  simp [deliver, ha, h]

theorem deliver_of_full {u : PortUnit} (ha : u.state = .active) (h : heldNotices u = 128) (kind : Nat)
    (record : List Word) (now : FrameNo) : deliver kind record now u = addDropped kind u := by
  simp [deliver, ha, h]

/-! ## The records of the notices (R168) -/

theorem noticeKind_lt (n : Notice) : noticeKind n < 256 := by
  cases n <;> simp [noticeKind]

/-- The record of a notice whose subjects and detail fit their fields. -/
theorem noticeRecord_eq {n : Notice} {tag : Tag} {now : FrameNo} {subject1 subject2 detail : Nat}
    (h : (noticeBody n tag now).1 = subject1 ∧ (noticeBody n tag now).2.1 = subject2 ∧ (noticeBody n tag now).2.2 = detail)
    (hfit : subject1 < 2 ^ 24 ∧ subject2 < 2 ^ 16 ∧ detail < 2 ^ 16) (frame : FrameNo) :
    noticeRecord n tag frame now =
      [BitVec.ofNat 32 (noticeKind n * 2 ^ 24 + subject1), tag, frame, BitVec.ofNat 32 (subject2 * 2 ^ 16 + detail)] := by
  obtain ⟨rfl, rfl, rfl⟩ := h
  have kind := noticeKind_lt n
  have word0 : packFields 32 [(8, noticeKind n), (24, (noticeBody n tag now).1)] =
      noticeKind n * 2 ^ 24 + (noticeBody n tag now).1 := by
    simp only [packFields]
    omega
  have word3 : packFields 32 [(16, (noticeBody n tag now).2.1), (16, (noticeBody n tag now).2.2)] =
      (noticeBody n tag now).2.1 * 2 ^ 16 + (noticeBody n tag now).2.2 := by
    simp only [packFields]
    omega
  rw [← word0, ← word3]
  rfl

theorem reasonCode_lt (r : Reason) : reasonCode r < 4 := by
  cases r <;> decide

theorem modeCode_lt (m : Mode) : modeCode m < 3 := by
  cases m <;> decide

theorem modeAfterCode_lt (m : Option Mode) : modeAfterCode m < 4 := by
  cases m with
  | none => decide
  | some m => exact Nat.lt_succ_of_lt (modeCode_lt m)

theorem bit_true : bit true = 1 := rfl

theorem bit_false : bit false = 0 := rfl

/-- RELEASE_REQUEST says the frames left to the claim deadline. -/
theorem noticeBody_releaseRequest {left : Nat} (hl : left < 64) (h : Handle) (q : BitVec 8) (a b : CellId) (tag : Tag)
    (now : FrameNo) : noticeBody (.releaseRequest h q a b (now + 1 + BitVec.ofNat 32 left)) tag now =
      (packFields 24 [(16, h), (8, q.toNat)], packFields 16 [(10, a.val), (6, left)], packFields 16 [(10, b.val)]) := by
  have fl : (now + 1 + BitVec.ofNat 32 left - now - 1).toNat = left := by bv_omega
  exact congrArg (fun n => (_, packFields 16 [(10, a.val), (6, n)], _)) fl

end Sys2Proof.Machine

open Sys2Proof Sys2Proof.Machine

/-- Settles O17: the queue by how many of its entries are free, and the record of each notice field by field. -/
theorem noticesFillTheQueueUpToAnOverflow : Obligations.NoticesFillTheQueueUpToAnOverflow := by
  refine ⟨fun kind w₀ w₁ w₂ w₃ now u hkind => ?_, fun tag frame now => ?_⟩
  · intro v entry at_ last
    refine ⟨fun hq => deliver_of_quarantined hq kind _ now, fun ha _ =>
      ⟨deliver_of_active ha kind _ now, fun hroom => ?_, fun hroom => ?_, fun hfull => ?_⟩⟩
    · have hv : v = enqueue [w₀, w₁, w₂, w₃] u := deliver_of_room ha hroom kind _ now
      have word : ∀ j, j < 4 → entry v at_ j = [w₀, w₁, w₂, w₃].getD j 0 := fun j hj =>
        hv ▸ loadWord_enqueue_self u rfl hj
      exact ⟨by rw [hv]; rfl, word 0 (by decide), word 1 (by decide), word 2 (by decide), word 3 (by decide),
        fun e j he hj => hv ▸ loadWord_enqueue_of_ne u rfl he hj⟩
    · have hv : v = enqueue (overflowRecord kind now) u := deliver_of_lastFree ha hroom kind _ now
      have word : ∀ j, j < 4 → entry v at_ j = (overflowRecord kind now).getD j 0 := fun j hj =>
        hv ▸ loadWord_enqueue_self u rfl hj
      exact ⟨by rw [hv]; rfl, by rw [hv, heldNotices_enqueue (by omega), hroom],
        word 0 (by decide), word 1 (by decide), word 2 (by decide), word 3 (by decide),
        fun e j he hj => hv ▸ loadWord_enqueue_of_ne u rfl he hj⟩
    · have hv : v = addDropped kind u := deliver_of_full ha hfull kind _ now
      have base : last = entryIndex (u.tail - 1) := rfl
      have word : ∀ e j, entry v e j = _ := fun e j => hv ▸ loadWord_addDropped kind u (4 * e + j)
      refine ⟨by rw [hv]; rfl, ?_, ?_, ?_, ?_, fun e j he hj => ?_⟩
      · rw [word, base, if_neg (by omega), if_pos (by omega), BitVec.toNat_ofNat]
        exact Nat.mod_eq_of_lt (by omega)
      · rw [word, base, if_neg (by omega), if_neg (by omega)]
      · rw [word, base, if_neg (by omega), if_neg (by omega)]
      · rw [word, base, if_pos rfl]
        rfl
      · rw [word, if_neg (by omega), if_neg (by omega)]
  · intro writes
    have fits : ∀ {n : Notice} {subject1 subject2 detail : Nat},
        ((noticeBody n tag now).1 = subject1 ∧ (noticeBody n tag now).2.1 = subject2 ∧
          (noticeBody n tag now).2.2 = detail) ∧ (subject1 < 2 ^ 24 ∧ subject2 < 2 ^ 16 ∧ detail < 2 ^ 16) →
        writes n (noticeKind n) subject1 subject2 detail := fun h => ⟨rfl, noticeRecord_eq h.1 h.2 frame⟩
    refine ⟨fun h q a b left hh hl => ?_, fun h x c r before hh => ?_, fun x subs carriages hs hc => ?_,
      fun c x count before starved l hc => ?_, fun c x l g w b rate hg hw hb hr => ?_, fun t h ht hh => ?_,
      fun n first completed hn => ?_, fun slot value mask hs => ?_, ?_⟩
    · intro subject
      replace hh := Nat.lt_of_lt_of_le hh (Nat.le_refl 65536)
      refine ⟨fits ?_, fits ?_, fits ?_, fits ?_, fits ?_, fits ?_, fits ?_⟩
      · rw [noticeBody_releaseRequest hl]
        simp only [packFields, subject]
        omega
      all_goals
        simp only [noticeBody, packFields, subject, bit_true, bit_false, and_true]
        omega
    · intro subject
      replace hh := Nat.lt_of_lt_of_le hh (Nat.le_refl 65536)
      have rlt := reasonCode_lt r
      have blt := reasonCode_lt before
      refine ⟨⟨(Config.reasonBeforeActive h x.val tag.toNat now.toNat).toNat, BitVec.isLt _, fits ?_⟩, fits ?_, fits ?_,
        fits ?_, fits ?_⟩ <;>
        simp only [noticeBody, packFields, subject, bit_true, bit_false, wasActive, and_true] <;>
        omega
    · refine fits ?_
      simp only [noticeBody, packFields, and_true]
      omega
    · intro subject flag
      have blt := modeCode_lt before
      refine ⟨fun after => ?_, fun cost sum cap hcost hsum hcap => ?_⟩
      · intro mode
        have modeOf : mode = modeAfterCode after * 2 ^ 14 := by cases after <;> rfl
        have flagOf : flag = bit starved * 2 ^ 13 := by cases starved <;> rfl
        have alt := modeAfterCode_lt after
        have slt := bit_le_one starved
        refine ⟨fun sum cap hsum hcap => fits ?_,
          ⟨(Config.capWithoutTest c.val x.val tag.toNat now.toNat).toNat, BitVec.isLt _, fits ?_⟩⟩
        · simp only [noticeBody, packFields, subject, modeOf, flagOf, Option.isSome_some, bit_true]
          omega
        · have free := (Config.capWithoutTest c.val x.val tag.toNat now.toNat).isLt
          simp only [noticeBody, packFields, subject, modeOf, flagOf, Option.isSome_none, bit_false]
          omega
      · refine fits ?_
        simp only [noticeBody, packFields, subject]
        omega
    · intro subject
      refine ⟨fits ?_, fits ?_⟩
      · simp only [noticeBody, packFields, subject, and_true]
        omega
      · simp only [noticeBody, packFields, subject, and_true]
        omega
    · replace hh := Nat.lt_of_lt_of_le hh (Nat.le_refl 65536)
      replace ht := Nat.lt_of_lt_of_le ht (Nat.le_refl (2 ^ 17))
      refine ⟨fits ?_, fits ?_, fits ?_, fits ?_⟩ <;> simp only [noticeBody, packFields, causeCode, and_true] <;> omega
    · refine fits ?_
      simp only [noticeBody, packFields]
      omega
    · refine fits ?_
      simp only [noticeBody, packFields, and_true]
      omega
    · refine ⟨fits ?_, fits ?_, fits ?_, fits ?_, fun a => ⟨?_, ?_⟩⟩
      · exact ⟨⟨rfl, rfl, rfl⟩, by decide⟩
      · exact ⟨⟨rfl, rfl, rfl⟩, by decide⟩
      · exact ⟨⟨rfl, rfl, rfl⟩, by decide⟩
      · exact ⟨⟨rfl, rfl, rfl⟩, by decide⟩
      · exact ⟨rfl, noticeRecord_fault a false tag frame now⟩
      · exact ⟨rfl, noticeRecord_fault a true tag frame now⟩
end

section
namespace Sys2Proof.Machine

open Sys2Proof

/-! ## Completed elements (R157) -/

/-- Word `j` of a completed element that held `w`. -/
def finishedWord (st : Status) (results : List Word) (w : Word) (j : Nat) : Word :=
  if j = 0 then completedWord w st else if j < 8 then w else results.getD (j - 8) 0

theorem finishedWord_zero (st : Status) (results : List Word) (w : Word) :
    finishedWord st results w 0 = completedWord w st := rfl

theorem finishedWord_operand (st : Status) (results : List Word) (w : Word) {j : Nat} (h1 : 1 ≤ j) (h8 : j < 8) :
    finishedWord st results w j = w := by
  rw [finishedWord, if_neg (by omega), if_pos h8]

theorem finishedWord_result (st : Status) (results : List Word) (w : Word) (j : Nat) :
    finishedWord st results w (8 + j) = results.getD j 0 := by
  rw [finishedWord, if_neg (by omega), if_neg (by omega), Nat.add_sub_cancel_left]

/-- The bits of word 0 after a completion. -/
theorem getLsbD_completedWord (w : Word) (st : Status) {b : Nat} (hb : b < 32) :
    (completedWord w st).getLsbD b =
      if b = 31 then true else if b = 30 then isRefusal st
      else if 16 ≤ b ∧ b ≤ 23 then (statusCode st).getLsbD (b - 16) else w.getLsbD b := by
  have mask : ∀ b < 32, ((0x3F00FFFF : Nat) : Word).getLsbD b = decide (b < 16 ∨ 23 < b ∧ b < 30) := by decide
  have done : ∀ b < 32, ((0x80000000 : Nat) : Word).getLsbD b = decide (b = 31) := by decide
  have failed : ∀ b < 32, ((if isRefusal st then 0x40000000 else 0 : Nat) : Word).getLsbD b =
      (isRefusal st && decide (b = 30)) := by
    cases isRefusal st <;> decide
  have code : ((statusCode st).setWidth 32 <<< 16).getLsbD b = (decide (16 ≤ b) && (statusCode st).getLsbD (b - 16)) := by
    by_cases h16 : 16 ≤ b
    · simp [hb, h16, Nat.not_lt.2 h16]
    · simp [h16, Nat.not_le.1 h16]
  have high : 24 ≤ b → (statusCode st).getLsbD (b - 16) = false := fun h => BitVec.getLsbD_of_ge _ _ (by omega)
  rw [completedWord, BitVec.getLsbD_or, BitVec.getLsbD_or, BitVec.getLsbD_or, BitVec.getLsbD_and, mask b hb, done b hb,
    failed b hb, code]
  by_cases h31 : b = 31
  · simp [h31]
  · by_cases h30 : b = 30
    · simp [h30]
    · by_cases hcode : 16 ≤ b ∧ b ≤ 23
      · simp [h31, h30, hcode.1, hcode.2, show ¬(b < 16 ∨ 23 < b ∧ b < 30) by omega]
      · have kept : b < 16 ∨ 23 < b ∧ b < 30 := by omega
        have none : (decide (16 ≤ b) && (statusCode st).getLsbD (b - 16)) = false := by
          by_cases h : 16 ≤ b
          · rw [high (by omega), Bool.and_false]
          · rw [decide_eq_false h, Bool.false_and]
        rw [none]
        simp [h31, h30, hcode, kept]

theorem isRefusal_iff (st : Status) : isRefusal st = true ↔ st ≠ .ok ∧ st ≠ .accepted := by
  simp [isRefusal]

theorem loadWord_completeElement_self (ring : Table Word) (e : Nat) (st : Status) {results : List Word}
    (hlen : results.length = 8) {j : Nat} (hj : j < 16) : loadWord (completeElement ring e st results) (16 * e + j) =
      finishedWord st results (loadWord ring (16 * e + j)) j := by
  unfold completeElement
  by_cases h8 : j < 8
  · rw [loadWord_storeWords_outside _ _ _ (by omega)]
    by_cases h0 : j = 0
    · subst h0
      exact loadWord_storeWord_self ring (16 * e) _
    · rw [loadWord_storeWord_of_ne _ _ (by omega), finishedWord_operand _ _ _ (by omega) h8]
  · obtain ⟨i, rfl⟩ := Nat.exists_eq_add_of_le (Nat.not_lt.1 h8)
    rw [finishedWord_result, ← Nat.add_assoc, loadWord_storeWords_inside _ _ _ (by omega)]

theorem loadWord_completeElement_of_ne (ring : Table Word) {e k : Nat} (st : Status) {results : List Word}
    (hlen : results.length = 8) (hk : e ≠ k / 16) : loadWord (completeElement ring e st results) k = loadWord ring k := by
  unfold completeElement
  rw [loadWord_storeWords_outside _ _ _ (by omega), loadWord_storeWord_of_ne _ _ (by omega)]

theorem loadWord_completeRest_of_ne (ring : Table Word) (c : BitVec 7) (st : Status) {k n m : Nat}
    (h : ∀ i < n, (elementIndex c + (k + i)) % 64 ≠ m / 16) :
    loadWord (completeRest ring c st k n) m = loadWord ring m := by
  induction n with
  | zero => rfl
  | succ n ih =>
    rw [completeRest, loadWord_completeElement_of_ne _ _ (List.length_replicate ..) (h n (Nat.lt_succ_self n)),
      ih fun i hi => h i (Nat.lt_succ_of_lt hi)]

/-- The elements of a command after its first are completed with zero results. -/
theorem loadWord_completeRest_self (ring : Table Word) (c : BitVec 7) (st : Status) {k n i j : Nat} (hn : n ≤ 64)
    (hi : i < n) (hj : j < 16) : loadWord (completeRest ring c st k n) (16 * ((elementIndex c + (k + i)) % 64) + j) =
      finishedWord st (List.replicate 8 0) (loadWord ring (16 * ((elementIndex c + (k + i)) % 64) + j)) j := by
  induction n with
  | zero => omega
  | succ n ih =>
    rw [completeRest]
    by_cases hin : i = n
    · rw [hin, loadWord_completeElement_self _ _ _ (List.length_replicate ..) hj,
        loadWord_completeRest_of_ne _ _ _ fun i' hi' => by omega]
    · rw [loadWord_completeElement_of_ne _ _ (List.length_replicate ..) (by omega), ih (by omega) (by omega)]

theorem ringElement_inj (u : PortUnit) {i j : Nat} (hi : i < 64) (hj : j < 64) (h : ringElement u i = ringElement u j) :
    i = j := by
  unfold ringElement at h
  omega

theorem completeCommand_eq (n : Nat) (notify : Bool) (st : Status) (items : List Item) (u : PortUnit) :
    completeCommand n notify st items u = { u with
      ring := (completeCommand n notify st items u).ring
      consumer := u.consumer + BitVec.ofNat 7 n
      request := if notify then u.request ||| 2 else u.request } := by
  cases notify <;> rfl

theorem completeCommand_ring (n : Nat) (notify : Bool) (st : Status) (items : List Item) (u : PortUnit) :
    (completeCommand n notify st items u).ring =
      completeRest (completeElement u.ring (ringElement u 0) st (resultWords items)) u.consumer st 1 (n - 1) := by
  cases notify <;> rfl

/-- A completion writes each element of the command: its word 0, the results in the first and zeros in the others. -/
theorem elementWord_completeCommand (notify : Bool) (st : Status) (items : List Item) (u : PortUnit) {n i j : Nat}
    (hn : n ≤ 64) (hi : i < n) (hj : j < 16) :
    elementWord (completeCommand n notify st items u) (ringElement u i) j =
      finishedWord st (if i = 0 then resultWords items else List.replicate 8 0) (elementWord u (ringElement u i) j) j := by
  unfold elementWord
  rw [completeCommand_ring]
  cases i with
  | zero =>
    rw [loadWord_completeRest_of_ne _ _ _ fun i hi => by unfold ringElement; omega,
      loadWord_completeElement_self _ _ _ (resultWords_length items) hj]
    rfl
  | succ i =>
    have place : ringElement u (i + 1) = (elementIndex u.consumer + (1 + i)) % 64 := by rw [ringElement, Nat.add_comm i 1]
    have other : ringElement u 0 ≠ ringElement u (i + 1) := fun h => by
      have := ringElement_inj u (by decide) (by omega) h
      omega
    rw [place] at other ⊢
    rw [loadWord_completeRest_self _ _ _ (by omega) (by omega) hj,
      loadWord_completeElement_of_ne _ _ (resultWords_length items) (by omega), if_neg (Nat.succ_ne_zero i)]

/-- A completion leaves every word of the other elements. -/
theorem loadWord_completeCommand_of_ne (notify : Bool) (st : Status) (items : List Item) (u : PortUnit) {n k : Nat}
    (hn : 1 ≤ n) (hk : ∀ i < n, ringElement u i ≠ k / 16) :
    loadWord (completeCommand n notify st items u).ring k = loadWord u.ring k := by
  rw [completeCommand_ring, loadWord_completeRest_of_ne, loadWord_completeElement_of_ne _ _ (resultWords_length items) (hk 0 hn)]
  intro i hi
  have := hk (1 + i) (by omega)
  exact this

/-! ## Over-long runs (R155) -/

theorem resultWords_nil : resultWords [] = List.replicate 8 0 := by decide

/-- `v` is `u` with the `n` elements of an over-long run at its consumer index completed BAD_LENGTH. -/
structure RunCompleted (notify : Bool) (u : PortUnit) (n : Nat) (v : PortUnit) : Prop where
  port : v = { u with
    ring := v.ring
    consumer := u.consumer + BitVec.ofNat 7 n
    overlong := if chained u (n - 1) then some notify else none
    request := if notify then u.request ||| 2 else u.request }
  done : ∀ i < n, ∀ j < 16, elementWord v (ringElement u i) j =
    finishedWord .badLength (List.replicate 8 0) (elementWord u (ringElement u i) j) j
  kept : ∀ k, (∀ i < n, ringElement u i ≠ k / 16) → loadWord v.ring k = loadWord u.ring k

section
variable {notify : Bool} {u v : PortUnit} {n : Nat}

theorem RunCompleted.one (notify : Bool) (u : PortUnit) : RunCompleted notify u 1 (completeOverlong notify u) where
  port := by
    unfold completeOverlong
    rw [completeCommand_eq]
  done i hi j hj := by
    have word := elementWord_completeCommand notify .badLength [] u (by decide : 1 ≤ 64) hi hj
    rwa [resultWords_nil, ite_self] at word
  kept k hk := loadWord_completeCommand_of_ne notify .badLength [] u (Nat.le_refl 1) hk

theorem RunCompleted.consumer (h : RunCompleted notify u n v) : v.consumer = u.consumer + BitVec.ofNat 7 n :=
  congrArg PortUnit.consumer h.port

theorem RunCompleted.request (h : RunCompleted notify u n v) :
    v.request = if notify then u.request ||| 2 else u.request := congrArg PortUnit.request h.port

theorem RunCompleted.overlong (h : RunCompleted notify u n v) :
    v.overlong = if chained u (n - 1) then some notify else none := congrArg PortUnit.overlong h.port

/-- The element at the consumer index is the next of the run. -/
theorem RunCompleted.ringElement_zero (h : RunCompleted notify u n v) : ringElement v 0 = ringElement u n := by
  simp only [ringElement, elementIndex, h.consumer, BitVec.toNat_add, BitVec.toNat_ofNat]
  omega

/-- The next element of the run is as it was posted. -/
theorem RunCompleted.next_word (h : RunCompleted notify u n v) (hn : n < 64) {j : Nat} (hj : j < 16) :
    elementWord v (ringElement u n) j = elementWord u (ringElement u n) j :=
  h.kept _ fun i hi he => by
    have := ringElement_inj u (by omega) hn (i := i) (by omega)
    omega

theorem RunCompleted.chained_zero (h : RunCompleted notify u n v) (hn : n < 64) : chained v 0 = chained u n := by
  unfold chained
  rw [h.ringElement_zero, h.next_word hn (by decide)]

theorem RunCompleted.succ (h : RunCompleted notify u n v) (hn : n < 64) :
    RunCompleted notify u (n + 1) (completeOverlong notify v) where
  port := by
    have consumer : v.consumer + BitVec.ofNat 7 1 = u.consumer + BitVec.ofNat 7 (n + 1) := by
      rw [h.consumer, BitVec.add_assoc, ← BitVec.ofNat_add]
    have request : (if notify then v.request ||| 2 else v.request) = if notify then u.request ||| 2 else u.request := by
      rw [h.request]
      cases notify
      · rfl
      · exact (BitVec.or_assoc _ _ _).trans (congrArg _ (BitVec.or_self))
    rw [(RunCompleted.one notify v).port, consumer, request, h.chained_zero hn]
    exact congrArg (fun x : PortUnit => { x with
      ring := (completeOverlong notify v).ring
      consumer := u.consumer + BitVec.ofNat 7 (n + 1)
      overlong := if chained u n then some notify else none
      request := if notify then u.request ||| 2 else u.request }) h.port
  done i hi j hj := by
    by_cases hin : i = n
    · rw [hin, ← h.next_word hn hj, ← h.ringElement_zero]
      exact (RunCompleted.one notify v).done 0 Nat.zero_lt_one j hj
    · rw [← h.done i (by omega) j hj]
      refine (RunCompleted.one notify v).kept _ fun m hm he => ?_
      obtain rfl : m = 0 := by omega
      have := ringElement_inj u (by omega) hn (i := i) (by rw [← h.ringElement_zero]; omega)
      omega
  kept k hk := by
    rw [(RunCompleted.one notify v).kept k fun m hm => ?_, h.kept k fun i hi => hk i (Nat.lt_succ_of_lt hi)]
    obtain rfl : m = 0 := by omega
    rw [h.ringElement_zero]
    exact hk n (Nat.lt_succ_self n)

theorem RunCompleted.posted_eq (h : RunCompleted notify u n v) (hn : n ≤ posted u) : posted v = posted u - n := by
  have producer : v.producer = u.producer := (congrArg PortUnit.producer h.port :)
  have done := posted_completeCommand hn notify .badLength []
  rwa [posted, completeCommand_consumer, (completeCommand_frame ..).2.2.1, ← producer, ← h.consumer] at done

/-- A run goes on while its elements carry CHAIN, and ends with its last posted element or the first with CHAIN clear. -/
theorem RunCompleted.continueRun (h : RunCompleted notify u n v) {m k : Nat} (hn : 1 ≤ n) (hk : k ≤ m)
    (hroom : n + k ≤ posted u) (hposted : posted u ≤ 63) (hend : n + k = posted u ∨ chained u (n + k - 1) = false)
    (hchain : ∀ i, n ≤ i + 1 → i + 1 < n + k → chained u i = true) :
    RunCompleted notify u (n + k) (continueRun m v) := by
  induction k generalizing n v m with
  | zero =>
    have stopped : Machine.continueRun m v = v := by
      cases m with
      | zero => rfl
      | succ m =>
        rcases hend with hend | hend
        · have none : posted v = 0 := by
            rw [h.posted_eq (by omega)]
            omega
          unfold Machine.continueRun
          split
          · rfl
          · rw [if_pos none]
        · have goesOn : v.overlong = none := by
            rw [h.overlong, show n - 1 = n + 0 - 1 from rfl, hend]
            rfl
          simp [Machine.continueRun, goesOn]
    rwa [stopped]
  | succ k ih =>
    obtain ⟨m, rfl⟩ := Nat.exists_eq_succ_of_ne_zero (by omega : m ≠ 0)
    have goesOn : v.overlong = some notify := by
      rw [h.overlong, hchain (n - 1) (by omega) (by omega)]
      rfl
    have more : posted v ≠ 0 := by
      rw [h.posted_eq (by omega)]
      omega
    have step : Machine.continueRun (m + 1) v = Machine.continueRun m (completeOverlong notify v) := by
      simp [Machine.continueRun, goesOn, more]
    have shift : n + 1 + k = n + (k + 1) := by omega
    have rest := ih (h.succ (by omega)) (m := m) (by omega) (by omega) (by omega) (by rwa [shift]) fun i hi hik =>
      hchain i (by omega) (by omega)
    rwa [step, ← shift]

theorem startRun_completed (u : PortUnit) : RunCompleted (notifying u 0) u 5 (startRun u) :=
  ((((RunCompleted.one _ u).succ (by decide)).succ (by decide)).succ (by decide)).succ (by decide)

end

theorem serveOverlong_of_run {u : PortUnit} {notify : Bool} (ha : u.state = .active) (ho : u.overlong = some notify) :
    serveOverlong u = continueRun (posted u) u := by
  simp [serveOverlong, ha, ho]

theorem serveOverlong_of_begun {u : PortUnit} (ha : u.state = .active) (ho : u.overlong = none)
    (hchain : ∀ i < 4, chained u i = true) (hposted : 5 ≤ posted u) :
    serveOverlong u = continueRun (posted u) (startRun u) := by
  have five : commandLength u = 5 := by
    simp [commandLength, hchain 0 (by decide), hchain 1 (by decide), hchain 2 (by decide), hchain 3 (by decide)]
  simp [serveOverlong, ha, ho, five, hposted]

/-- The commands in the order of their codes. -/
def commandsByCode : List Command :=
  [.declarePort, .setVenue, .openMatch, .closeMatch, .readStation, .readTicket, .readStream, .readCarriage, .readZone,
    .readCell, .associate, .detach, .reportLevel, .claim, .release, .withdraw, .setSectorPolicy, .loadTickets,
    .admitTicket, .exitTicket, .voidTicket, .setZone, .bindTicket, .unbindTicket, .openStream, .setStreamRate,
    .closeStream, .subscribe, .unsubscribe, .armMoment]

/-- Every code byte that is a command's is the code of one (R167). -/
theorem exists_commandCode {c : BitVec 8} (h : isCommandCode c = true) : ∃ cmd, c = commandCode cmd := by
  have listed : ∀ c : BitVec 8, isCommandCode c = true → c ∈ commandsByCode.map commandCode := by decide
  obtain ⟨cmd, _, hcmd⟩ := List.mem_map.1 (listed c h)
  exact ⟨cmd, hcmd.symm⟩

end Sys2Proof.Machine

open Sys2Proof Sys2Proof.Machine

/-- Settles O16: a run completes its elements one by one, to the last posted or the first without CHAIN. -/
theorem unknownCodesAndOverlongRunsAreCompleted : Obligations.UnknownCodesAndOverlongRunsAreCompleted := by
  intro p s hs u continued completes
  have event : exec (.overlongChain p) s = .next (s.setPort p (serveOverlong u)) := by
    rw [exec_overlongChain, settle_of_settled hs]
    rfl
  have completed : ∀ n notify, RunCompleted notify u n (serveOverlong u) → completes n notify := fun n notify h =>
    ⟨serveOverlong u, event, h.port, fun i hi => ⟨h.done i hi 0 (by decide),
      fun j h1 h8 => (h.done i hi j (by omega)).trans (finishedWord_operand _ _ _ h1 h8),
      fun j hj => (h.done i hi (8 + j) (by omega)).trans (by
        rw [finishedWord_result, List.getD_replicate _ hj])⟩, h.kept⟩
  refine ⟨fun cmd htake hcode => ?_, fun n ha ho hchain hn hcont hrun => ?_,
    fun notify ha ho => ⟨fun hnone => ?_, fun n hn hcont hrun => ?_⟩⟩
  · have unknown : isCommandCode cmd.code = false := by
      refine Bool.eq_false_iff.2 fun h => ?_
      obtain ⟨c, hc⟩ := exists_commandCode h
      exact hcode c hc
    rw [exec_badCodeElement, settle_of_settled hs, State.serveBadCode, htake]
    simp [unknown, refuse]
  · obtain ⟨hroom, hposted, hend⟩ := hcont
    obtain ⟨k, rfl⟩ := Nat.exists_eq_add_of_le hn
    refine completed _ _ ?_
    rw [serveOverlong_of_begun ha ho hchain (by omega)]
    exact (startRun_completed u).continueRun (by decide) (by omega) hroom hposted hend fun i hi hik => hrun i (by omega) hik
  · rw [event, serveOverlong_of_none (.inr (.inl hnone))]
    exact congrArg _ (setPort_port s p)
  · obtain ⟨hroom, hposted, hend⟩ := hcont
    obtain ⟨k, rfl⟩ := Nat.exists_eq_add_of_le hn
    refine completed _ _ ?_
    obtain ⟨m, hm⟩ := Nat.exists_eq_succ_of_ne_zero (by omega : posted u ≠ 0)
    have first : continueRun (posted u) u = continueRun m (completeOverlong notify u) := by
      simp [hm, continueRun, ho]
    rw [serveOverlong_of_run ha ho, first]
    exact (RunCompleted.one notify u).continueRun (by decide) (by omega) hroom hposted hend fun i _ hik => hrun i hik
end

section
namespace Sys2Proof.Machine

open Sys2Proof

/-! ## The layout of results (R157, R167) -/

/-- The bytes that an item takes. -/
def itemSize : Item → Nat
  | .bytes n _ => n
  | .wide _ => 8

/-- The bytes of an item in the order in which they stand. -/
def itemBytes : Item → List Nat
  | .bytes n v => bytesOf n v
  | .wide v => bytesOf 4 v.toNat ++ bytesOf 4 (v.toNat / 2 ^ 32)

/-- Where an item stands that comes at `pos`, before `rest`. -/
def itemPlace (pos : Nat) : Item → List Item → Nat
  | .bytes n _, rest => placeOf pos n rest
  | .wide _, _ => wordUp pos

/-- The position past an item that comes at `pos` and does not cross a word boundary. -/
def alignedEnd (pos : Nat) : Item → Nat
  | .bytes n _ => (if pos % 4 + n ≤ 4 then pos else wordUp pos) + n
  | .wide _ => wordUp pos + 8

/-- The position past an item that comes at `pos` and stands as close as it can. -/
def closeEnd (pos : Nat) : Item → Nat
  | .bytes n _ => pos + n
  | .wide _ => wordUp pos + 8

/-- The position past the first `n` of some items written from `pos` on. -/
def endAfter : Nat → Nat → List Item → Nat
  | 0, pos, _ => pos
  | _ + 1, pos, [] => pos
  | n + 1, pos, i :: t => endAfter n (itemPlace pos i t + itemSize i) t

/-! ### Items -/

theorem bytesOf_length (n v : Nat) : (bytesOf n v).length = n := by
  simp [bytesOf]

theorem bytesOf_getD {n j : Nat} (v : Nat) (hj : j < n) : (bytesOf n v).getD j 0 = v / 256 ^ (n - 1 - j) % 256 := by
  simp [bytesOf, List.getD_eq_getElem?_getD, hj]

theorem bytesOf_lt {n v b : Nat} (h : b ∈ bytesOf n v) : b < 256 := by
  obtain ⟨j, _, rfl⟩ := List.mem_map.1 h
  exact Nat.mod_lt _ (by decide)

theorem itemBytes_length (i : Item) : (itemBytes i).length = itemSize i := by
  cases i <;> simp [itemBytes, itemSize, bytesOf_length]

theorem itemBytes_lt {i : Item} {b : Nat} (h : b ∈ itemBytes i) : b < 256 := by
  cases i with
  | bytes n v => exact bytesOf_lt h
  | wide v => exact (List.mem_append.1 h).elim bytesOf_lt bytesOf_lt

theorem le_wordUp (pos : Nat) : pos ≤ wordUp pos := by
  unfold wordUp
  omega

theorem wordUp_mono {a b : Nat} (h : a ≤ b) : wordUp a ≤ wordUp b := by
  unfold wordUp
  omega

theorem le_itemPlace (pos : Nat) (i : Item) (rest : List Item) : pos ≤ itemPlace pos i rest := by
  have up := le_wordUp pos
  cases i with
  | bytes n v =>
    simp only [itemPlace, placeOf]
    split
    · exact Nat.le_refl pos
    · split
      · exact up
      · exact Nat.le_refl pos
  | wide v => exact up

theorem resultBytes_cons (pos : Nat) (i : Item) (t : List Item) : resultBytes pos (i :: t) =
    List.replicate (itemPlace pos i t - pos) 0 ++ itemBytes i ++ resultBytes (itemPlace pos i t + itemSize i) t := by
  cases i with
  | bytes n v => rfl
  | wide v => simp only [resultBytes, itemPlace, itemBytes, itemSize, List.append_assoc]

theorem resultBytes_lt {pos : Nat} {items : List Item} {b : Nat} (h : b ∈ resultBytes pos items) : b < 256 := by
  induction items generalizing pos with
  | nil => cases h
  | cons i t ih =>
    rw [resultBytes_cons, List.mem_append, List.mem_append] at h
    rcases h with (h | h) | h
    · rw [List.eq_of_mem_replicate h]
      decide
    · exact itemBytes_lt h
    · exact ih h

/-! ### Where the items stand -/

theorem endAfter_zero (pos : Nat) (items : List Item) : endAfter 0 pos items = pos := by
  cases items <;> rfl

theorem endAfter_le_succ (n pos : Nat) (items : List Item) : endAfter n pos items ≤ endAfter (n + 1) pos items := by
  induction n generalizing pos items with
  | zero =>
    cases items with
    | nil => exact Nat.le_refl pos
    | cons i t =>
      have := le_itemPlace pos i t
      rw [endAfter_zero, endAfter, endAfter_zero]
      omega
  | succ n ih =>
    cases items with
    | nil => exact Nat.le_refl pos
    | cons i t => exact ih _ t

theorem endAfter_mono {n m : Nat} (h : n ≤ m) (pos : Nat) (items : List Item) : endAfter n pos items ≤ endAfter m pos items :=
  monotone_nat_of_le_succ (fun n => endAfter_le_succ n pos items) h

/-- An item stands past those before it. -/
theorem endAfter_add_size_le {n : Nat} {i : Item} {items : List Item} (h : items[n]? = some i) (pos : Nat) :
    endAfter n pos items + itemSize i ≤ endAfter (n + 1) pos items := by
  induction n generalizing pos items with
  | zero =>
    obtain ⟨t, rfl⟩ : ∃ t, items = i :: t := by
      cases items with
      | nil => simp at h
      | cons j t => exact ⟨t, by simpa using h⟩
    have := le_itemPlace pos i t
    rw [endAfter_zero, endAfter, endAfter_zero]
    omega
  | succ n ih =>
    cases items with
    | nil => simp at h
    | cons j t => exact ih (by simpa using h) _

theorem le_endAfter (n pos : Nat) (items : List Item) : pos ≤ endAfter n pos items := by
  have := endAfter_mono (Nat.zero_le n) pos items
  rwa [endAfter_zero] at this

/-- The bytes past an item are those of the items after it. -/
theorem resultBytes_past (pos : Nat) (i : Item) (t : List Item) {k : Nat} (hk : itemPlace pos i t + itemSize i ≤ k) :
    (resultBytes pos (i :: t)).getD (k - pos) 0 =
      (resultBytes (itemPlace pos i t + itemSize i) t).getD (k - (itemPlace pos i t + itemSize i)) 0 := by
  have place := le_itemPlace pos i t
  have before : (List.replicate (itemPlace pos i t - pos) 0 ++ itemBytes i).length = itemPlace pos i t + itemSize i - pos := by
    rw [List.length_append, List.length_replicate, itemBytes_length]
    omega
  rw [resultBytes_cons, List.getD_append_right _ _ _ _ (by omega), before]
  congr 1
  omega

/-- Each item's bytes stand where its place says. -/
theorem resultBytes_at {n : Nat} {i : Item} {items : List Item} (h : items[n]? = some i) (pos : Nat) {j : Nat}
    (hj : j < itemSize i) :
    (resultBytes pos items).getD (endAfter (n + 1) pos items - itemSize i + j - pos) 0 = (itemBytes i).getD j 0 := by
  induction n generalizing pos items with
  | zero =>
    obtain ⟨t, rfl⟩ : ∃ t, items = i :: t := by
      cases items with
      | nil => simp at h
      | cons j t => exact ⟨t, by simpa using h⟩
    have place := le_itemPlace pos i t
    have len := itemBytes_length i
    have index : itemPlace pos i t + itemSize i - itemSize i + j - pos = itemPlace pos i t - pos + j := by omega
    rw [endAfter, endAfter_zero, resultBytes_cons, index, List.append_assoc,
      List.getD_append_right _ _ _ _ (by rw [List.length_replicate]; omega), List.length_replicate, Nat.add_sub_cancel_left,
      List.getD_append _ _ _ _ (by omega)]
  | succ n ih =>
    cases items with
    | nil => simp at h
    | cons i' t =>
      have tail : t[n]? = some i := by simpa using h
      have room := endAfter_add_size_le tail (itemPlace pos i' t + itemSize i')
      have past := le_endAfter n (itemPlace pos i' t + itemSize i') t
      rw [endAfter, resultBytes_past _ _ _ (by omega)]
      exact ih tail _

/-- A byte that no item takes is 0. -/
theorem resultBytes_between {items : List Item} {pos k : Nat} (hk : pos ≤ k)
    (h : ∀ n i, items[n]? = some i → k < endAfter (n + 1) pos items - itemSize i ∨ endAfter (n + 1) pos items ≤ k) :
    (resultBytes pos items).getD (k - pos) 0 = 0 := by
  induction items generalizing pos with
  | nil => rfl
  | cons i t ih =>
    have first := h 0 i rfl
    rw [endAfter, endAfter_zero, Nat.add_sub_cancel] at first
    rcases first with before | past
    · rw [resultBytes_cons, List.append_assoc, List.getD_append _ _ _ _ (by rw [List.length_replicate]; omega),
        List.getD_replicate _ (by omega)]
    · rw [resultBytes_past _ _ _ past]
      exact ih past fun n i' hi' => h (n + 1) i' (by simpa using hi')

/-! ### Items that fit -/

theorem tightEnd_cons (pos : Nat) (i : Item) (t : List Item) : tightEnd pos (i :: t) = tightEnd (closeEnd pos i) t := by
  cases i <;> rfl

theorem tightEnd_eq_foldl (pos : Nat) (items : List Item) : tightEnd pos items = items.foldl closeEnd pos := by
  induction items generalizing pos with
  | nil => rfl
  | cons i t ih => rw [tightEnd_cons, ih, List.foldl_cons]

theorem le_closeEnd (pos : Nat) (i : Item) : pos ≤ closeEnd pos i := by
  have := le_wordUp pos
  cases i <;> simp only [closeEnd] <;> omega

theorem le_tightEnd (pos : Nat) (items : List Item) : pos ≤ tightEnd pos items := by
  induction items generalizing pos with
  | nil => exact Nat.le_refl pos
  | cons i t ih =>
    rw [tightEnd_cons]
    exact (le_closeEnd pos i).trans (ih _)

/-- Where an item is moved to the next word, the items after it still fit. -/
theorem tightEnd_afterPlace {pos : Nat} {i : Item} {t : List Item} (h : tightEnd pos (i :: t) ≤ 32) :
    tightEnd (itemPlace pos i t + itemSize i) t ≤ 32 := by
  cases i with
  | bytes n v =>
    simp only [itemPlace, itemSize, placeOf]
    split
    · exact h
    · split
      · assumption
      · exact h
  | wide v => exact h

theorem endAfter_le {pos : Nat} {items : List Item} (h : tightEnd pos items ≤ 32) (n : Nat) : endAfter n pos items ≤ 32 := by
  induction n generalizing pos items with
  | zero =>
    rw [endAfter_zero]
    exact (le_tightEnd pos items).trans h
  | succ n ih =>
    cases items with
    | nil => exact h
    | cons i t => exact ih (tightEnd_afterPlace h)

theorem closeEnd_le_alignedEnd {a b : Nat} (h : a ≤ b) (i : Item) : closeEnd a i ≤ alignedEnd b i := by
  have up := wordUp_mono h
  have := le_wordUp b
  cases i with
  | bytes n v =>
    simp only [closeEnd, alignedEnd]
    split <;> omega
  | wide v => exact Nat.add_le_add_right up 8

theorem tightEnd_le_aligned {a b : Nat} (h : a ≤ b) (items : List Item) :
    tightEnd a items ≤ items.foldl alignedEnd b := by
  induction items generalizing a b with
  | nil => exact h
  | cons i t ih =>
    rw [tightEnd_cons]
    exact ih (closeEnd_le_alignedEnd h i)

/-- Items that fit with none across a word boundary stand so. -/
theorem itemPlace_of_aligned {pos : Nat} {i : Item} {t : List Item} (h : (i :: t).foldl alignedEnd pos ≤ 32) :
    itemPlace pos i t + itemSize i = alignedEnd pos i := by
  cases i with
  | bytes n v =>
    simp only [itemPlace, itemSize, alignedEnd, placeOf]
    split
    · rfl
    · next hcross =>
      rw [if_pos]
      refine (tightEnd_le_aligned (Nat.le_refl _) t).trans ?_
      simpa [alignedEnd, hcross] using h
  | wide v => rfl

theorem endAfter_of_aligned {pos : Nat} {items : List Item} (h : items.foldl alignedEnd pos ≤ 32) (n : Nat) :
    endAfter n pos items = (items.take n).foldl alignedEnd pos := by
  induction n generalizing pos items with
  | zero => rw [endAfter_zero, List.take_zero, List.foldl_nil]
  | succ n ih =>
    cases items with
    | nil => rfl
    | cons i t => rw [endAfter, itemPlace_of_aligned h, ih (pos := alignedEnd pos i) h, List.take_succ_cons, List.foldl_cons]

/-! ### Words and bytes -/

theorem wordOfBytes_toNat {a b c d : Nat} (ha : a < 256) (hb : b < 256) (hc : c < 256) (hd : d < 256) :
    (wordOfBytes [a, b, c, d]).toNat = 2 ^ 24 * a + 2 ^ 16 * b + 2 ^ 8 * c + d := by
  simp only [wordOfBytes, List.foldl, BitVec.toNat_ofNat]
  omega

theorem take_four {l : List Nat} {j : Nat} (h : 4 * j + 4 ≤ l.length) : (l.drop (4 * j)).take 4 =
    [l.getD (4 * j) 0, l.getD (4 * j + 1) 0, l.getD (4 * j + 2) 0, l.getD (4 * j + 3) 0] := by
  refine List.ext_getElem (by simp; omega) fun m h1 h2 => ?_
  simp only [List.length_cons, List.length_nil] at h2
  simp only [List.getElem_take, List.getElem_drop, List.getD_eq_getElem?_getD]
  interval_cases m <;> simp [show 4 * j < l.length by omega, show 4 * j + 1 < l.length by omega,
    show 4 * j + 2 < l.length by omega, show 4 * j + 3 < l.length by omega]

theorem getD_append_zeros (l : List Nat) (n k : Nat) : (l ++ List.replicate n 0).getD k 0 = l.getD k 0 := by
  by_cases hk : k < l.length
  · rw [List.getD_append _ _ _ _ hk]
  · rw [List.getD_append_right _ _ _ _ (by omega), List.getD_eq_default l 0 (by omega)]
    by_cases hn : k - l.length < n
    · exact List.getD_replicate _ hn
    · exact List.getD_eq_default _ _ (by simp; omega)

theorem resultBytes_getD_lt (pos : Nat) (items : List Item) (k : Nat) : (resultBytes pos items).getD k 0 < 256 := by
  by_cases hk : k < (resultBytes pos items).length
  · rw [List.getD_eq_getElem _ _ hk]
    exact resultBytes_lt (List.getElem_mem hk)
  · rw [List.getD_eq_default _ _ (by omega)]
    decide

theorem resultWords_getD (items : List Item) {j : Nat} (hj : j < 8) : (resultWords items).getD j 0 = wordOfBytes
    [(resultBytes 0 items).getD (4 * j) 0, (resultBytes 0 items).getD (4 * j + 1) 0, (resultBytes 0 items).getD (4 * j + 2) 0,
      (resultBytes 0 items).getD (4 * j + 3) 0] := by
  have word : (resultWords items).getD j 0 =
      wordOfBytes (((resultBytes 0 items ++ List.replicate 32 0).drop (4 * j)).take 4) := by
    simp [resultWords, List.getD_eq_getElem?_getD, hj]
  rw [word, take_four (by simp; omega)]
  simp only [getD_append_zeros]

/-- The byte at position `k` of words 8–15. -/
def resultByte (items : List Item) (k : Nat) : Nat :=
  ((resultWords items).getD (k / 4) 0).toNat / 256 ^ (3 - k % 4) % 256

/-- A byte of the result words is the byte of the items that stands there, and 0 past the last. -/
theorem resultByte_eq (items : List Item) {k : Nat} (hk : k < 32) : resultByte items k = (resultBytes 0 items).getD k 0 := by
  obtain ⟨j, m, hm, rfl⟩ : ∃ j m, m < 4 ∧ k = 4 * j + m := ⟨k / 4, k % 4, Nat.mod_lt _ (by decide), by omega⟩
  have lt := resultBytes_getD_lt 0 items
  have word := wordOfBytes_toNat (lt (4 * j)) (lt (4 * j + 1)) (lt (4 * j + 2)) (lt (4 * j + 3))
  rw [resultByte, show (4 * j + m) / 4 = j by omega, show (4 * j + m) % 4 = m by omega, resultWords_getD items (by omega), word]
  have b0 := lt (4 * j)
  have b1 := lt (4 * j + 1)
  have b2 := lt (4 * j + 2)
  have b3 := lt (4 * j + 3)
  interval_cases m
  · change _ = (resultBytes 0 items).getD (4 * j) 0
    omega
  all_goals omega

theorem resultByte_of_item {items : List Item} {n : Nat} {i : Item} (h : items[n]? = some i)
    (hfit : endAfter (n + 1) 0 items ≤ 32) {j : Nat} (hj : j < itemSize i) :
    resultByte items (endAfter (n + 1) 0 items - itemSize i + j) = (itemBytes i).getD j 0 := by
  have room := endAfter_add_size_le h 0
  rw [resultByte_eq items (by omega)]
  exact resultBytes_at h 0 hj

theorem getD_wide_low (v : BitVec 64) {j : Nat} (hj : j < 4) :
    (itemBytes (.wide v)).getD j 0 = v.toNat / 256 ^ (3 - j) % 256 := by
  rw [itemBytes, List.getD_append _ _ _ _ (by rwa [bytesOf_length]), bytesOf_getD _ hj]

theorem getD_wide_high (v : BitVec 64) {j : Nat} (hj : j < 4) :
    (itemBytes (.wide v)).getD (4 + j) 0 = v.toNat / 256 ^ (7 - j) % 256 := by
  have power : 2 ^ 32 * 256 ^ (3 - j) = 256 ^ (7 - j) := by
    rw [show 7 - j = 4 + (3 - j) by omega, Nat.pow_add, show 256 ^ 4 = 2 ^ 32 from rfl]
  rw [itemBytes, List.getD_append_right _ _ _ _ (by rw [bytesOf_length]; omega), bytesOf_length, Nat.add_sub_cancel_left,
    bytesOf_getD _ hj, Nat.div_div_eq_div_mul, power]

theorem getElem?_of_eq_append {items before after : List Item} {i : Item} (h : items = before ++ i :: after) :
    items[before.length]? = some i := by
  simp [h]

theorem exists_append_of_getElem? {items : List Item} {n : Nat} {i : Item} (h : items[n]? = some i) :
    ∃ before after, before.length = n ∧ items = before ++ i :: after := by
  obtain ⟨hn, rfl⟩ := List.getElem?_eq_some_iff.1 h
  refine ⟨items.take n, items.drop (n + 1), List.length_take_of_le hn.le, ?_⟩
  rw [List.getElem_cons_drop, List.take_append_drop]

/-- An item of a list that fits with none across a word boundary ends where the items up to it say. -/
theorem endAfter_before {items before after : List Item} {i : Item} (hfit : items.foldl alignedEnd 0 ≤ 32)
    (h : items = before ++ i :: after) :
    endAfter (before.length + 1) 0 items = alignedEnd (before.foldl alignedEnd 0) i := by
  rw [endAfter_of_aligned hfit, h]
  simp [List.take_append, List.take_of_length_le]

end Sys2Proof.Machine

open Sys2Proof Sys2Proof.Machine

/-- Settles O15: the words of a completed element, the bytes of its results, and the codes in their order. -/
theorem completionWritesTheElements : Obligations.CompletionWritesTheElements := by
  refine ⟨fun p cmd st items t hlen hlen4 => ?_, fun items => ?_, by decide, ?_⟩
  · intro u n
    have word : ∀ {i j : Nat}, i < n → j < 16 →
        elementWord (completeCommand n cmd.notify st items u) (ringElement u i) j = finishedWord st
          (if i = 0 then resultWords items else List.replicate 8 0) (elementWord u (ringElement u i) j) j :=
      fun hi hj => elementWord_completeCommand cmd.notify st items u (by omega) hi hj
    refine ⟨completeCommand n cmd.notify st items u, rfl, completeCommand_eq n cmd.notify st items u, fun i hi => ?_,
      fun k hk => loadWord_completeCommand_of_ne cmd.notify st items u hlen hk⟩
    intro e old new
    have written : new = completedWord old st := word hi (by decide)
    rw [written]
    refine ⟨?_, ?_, fun b hb => ?_, fun b hb h31 h30 hcode => ?_,
      fun j h1 h8 => (word hi (by omega)).trans (finishedWord_operand _ _ _ h1 h8), fun j hj => ?_⟩
    · rw [getLsbD_completedWord _ _ (by decide), if_pos rfl]
    · rw [getLsbD_completedWord _ _ (by decide), if_neg (by decide), if_pos rfl, isRefusal_iff]
    · rw [getLsbD_completedWord _ _ (by omega), if_neg (by omega), if_neg (by omega), if_pos (by omega),
        Nat.add_sub_cancel_left]
    · rw [getLsbD_completedWord _ _ hb, if_neg h31, if_neg h30, if_neg hcode]
    · rw [word hi (by omega), finishedWord_result]
      split
      · rfl
      · exact List.getD_replicate _ hj
  · intro size aligned close byte standsAt
    have sizeEq : size = itemSize := by
      funext i
      cases i <;> rfl
    have alignedEq : aligned = alignedEnd := by
      funext pos i
      cases i <;> rfl
    have closeEq : close = closeEnd := by
      funext pos i
      cases i <;> rfl
    have stands : ∀ {n : Nat} {i : Item}, items[n]? = some i → endAfter (n + 1) 0 items ≤ 32 →
        standsAt (endAfter (n + 1) 0 items - itemSize i) i := by
      intro n i hi hfit
      have bytes := fun {j : Nat} => resultByte_of_item hi hfit (j := j)
      cases i with
      | bytes n v => exact fun j hj => (bytes hj).trans (bytesOf_getD v hj)
      | wide v =>
        refine fun j hj => ⟨(bytes (show j < 8 by omega)).trans (getD_wide_low v hj), ?_⟩
        rw [Nat.add_assoc]
        exact (bytes (show 4 + j < 8 by omega)).trans (getD_wide_high v hj)
    rw [sizeEq, alignedEq, closeEq]
    refine ⟨resultWords_length items, fun hfit => ?_, fun hfit => ?_⟩
    · have fits := endAfter_le ((tightEnd_le_aligned (Nat.le_refl 0) items).trans hfit)
      refine ⟨fun before i after h => ?_, fun k hk hfree => ?_⟩
      · rw [← endAfter_before hfit h]
        exact stands (getElem?_of_eq_append h) (fits _)
      · refine (resultByte_eq items hk).trans (resultBytes_between (Nat.zero_le k) fun n i hi => ?_)
        obtain ⟨before, after, rfl, split⟩ := exists_append_of_getElem? hi
        rw [endAfter_before hfit split]
        exact hfree before i after split
    · rw [← tightEnd_eq_foldl] at hfit
      have fits := endAfter_le hfit
      refine ⟨fun n => endAfter (n + 1) 0 items - ((items[n]?).elim 0 itemSize), fun n i hi => ?_⟩
      have room := endAfter_add_size_le hi 0
      have fit := fits (n + 1)
      simp only [hi, Option.elim_some]
      refine ⟨by omega, stands hi fit, fun m j hmn hj => ?_⟩
      have order : endAfter (m + 1) 0 items ≤ endAfter n 0 items := endAfter_mono hmn 0 items
      have roomBefore := endAfter_add_size_le hj 0
      simp only [hj, Option.elim_some]
      omega
  · refine ⟨rfl, rfl, fun _ _ => rfl, rfl, rfl, rfl, rfl, fun _ _ _ => rfl, rfl, fun _ _ _ => rfl, rfl, rfl⟩
end
